-- ==== Sys2Proof/Word.lean ====
section
/-! DEFINITION. The word types of the part: bytes of a frame, 24-bit samples and 64-bit floating-point values. -/

namespace Sys2Proof

/-- One byte of a frame on a link. -/
abbrev Byte := BitVec 8

/-- A sample inside the part, a signed 24-bit integer (00_scope, Sample values). -/
abbrev Sample := BitVec 24

/-- The value of a 64-bit binary floating-point number. Every operation on such values is an exact operation
followed by `roundF64` (04 R63). The sign of a zero is not kept (log 12). -/
abbrev F64 := Rat

end Sys2Proof
end

