-- ==== Sys2Proof/Syntax.lean ====
section
/-! DEFINITION. The commands of the part: one constructor for each row of spec/opcode_table.json. -/

namespace Sys2Proof

/-- A command: one whole, indivisible step of the part (95_what_each_step_holds.md). The table gives its rows no
operand fields; the operands here say which stream, program or entry the event belongs to, and what came in from
outside (log 30). The sixteen order commands are the taking of the oldest waiting order (R169), so they carry none. -/
inductive Instr where
  /-- INGRESS_FRAME: a whole Ethernet frame has arrived; its bytes from the destination MAC on. -/
  | ingressFrame (frame : List Byte)
  | wordClockEdge
  | bridgedSample
  | referenceAbsent
  | freeRunSampleEnd
  | framePulse
  | pulseAbsent
  | synthesizedBoundary
  | loopUpdate (stream : Nat)
  | gapTimeout (stream : Nat)
  | holdoverLimit (stream : Nat)
  | meterUpdate (program : Nat)
  | quietWaitExpiry (program : Nat)
  | fadeOutEnd (program : Nat)
  | fadeInEnd (program : Nat)
  | entryStale (entry : Nat)
  | alarmEvaluation
  | packetComplete (program : Nat)
  | egressChoice
  | readyWithdrawn
  | readyReturn
  | egressFrameEnd
  | nop
  | readEntry
  | readNext
  | writeEntry
  | writeNext
  | clearEntry
  | swapProgramBank
  | startProgram
  | stopProgram
  | allocateDelay
  | releaseDelay
  | resetStream
  | resetIntegration
  | acknowledge
  | sendLatency
  | resetPart
  | partResetActs
  /-- POWER_ON_RESET: the reset pin acts, with the strap value read at the end of reset (R6). -/
  | powerOnReset (straps : Byte)
  deriving DecidableEq, Repr

end Sys2Proof
end

