-- ==== Sys2Proof/Config.lean ====
section
/-! DEFINITION. The fixed counts, ranges and coefficients of the part, and the model's one free value. -/

namespace Sys2Proof.Config

/-- House samples in a second and in a millisecond (00_scope, Time). -/
def houseRate : Nat := 48000
def houseMs : Nat := 48

/-- Capacity of the order, reply, pass-through, latency report and notice queues (00_scope, Table 0-4). -/
def orderPlaces : Nat := 8
def replyPlaces : Nat := 8
def passPlaces : Nat := 16
def reportPlaces : Nat := 16
def noticePlaces : Nat := 32
/-- Media frames held for one program (R160). -/
def packetPlaces : Nat := 2

/-- Greatest usable fill of an elastic buffer, and the frames kept behind the position (R10). -/
def usableFill : Nat := 2016
def historyFrames : Nat := 32
/-- Greatest number of frames in a media packet (R12). -/
def packetFrames : Nat := 64
/-- Greatest number of missing packets concealed as a gap (R14). -/
def gapPackets : Nat := 32

/-- House samples in a loop update's window (R33). -/
def windowSamples : Nat := 480
/-- Bound of the integrator and of the correction (R34), of the error (R34), and the windows of the lock test (R35). -/
def loopBound : Int := 16777
def errorBound : Int := 1024
def lockWindow : Nat := 32
def unlockWindow : Nat := 256
def lockUpdates : Nat := 8

/-- House samples from the last pulse to ABSENT (R25), and between synthesized boundaries (R26). -/
def pulseTimeout : Nat := 9600
def boundaryPeriod : Nat := 1920

/-- House samples in a sub-block (R65) and between evaluations (R143). -/
def subBlock : Nat := 4800
def evaluationPeriod : Nat := 4800
/-- Sub-block energies kept (R66). -/
def historyEnergies : Nat := 30
/-- Loudness floor and absolute gate in hundredths (R67, R72). -/
def loudnessFloor : Int := -12000
def absoluteGate : Int := -7000

/-- Length of the gain ramp, the mute and the stop ramp, and of a dip's half (R94 to R97). -/
def rampSamples : Nat := 480
def dipSamples : Nat := 240

/-- Delay blocks in the pool and samples in a block (R101), and the greatest actual delay (R124). -/
def poolBlocks : Nat := 2048
def blockSamples : Nat := 1024
def delayLimit : Nat := 96000
/-- Fixed processing latency in house samples (R123). -/
def processingLatency : Nat := 8
/-- Greatest reported latency and greatest video latency, in microseconds (R117, R122). -/
def latencyLimit : Nat := 1000000
def videoLimit : Int := 2000000

/-- Saturation of the 16-bit and 32-bit counts. -/
def sat16 : Nat := 65535
def sat32 : Nat := 4294967295

/-- The number a reply carries beside the no-value mark of a latency in microseconds, which no rule states: a free
value, one for each time it is shown (log 18). Nothing can be proved of it. -/
opaque noValueNumber : Nat → BitVec 32

/-- Table 4-2, as the decimal values of the manual; R63 takes the nearest floating-point number of each. -/
structure Coefficients where
  b0 : Rat
  b1 : Rat
  b2 : Rat
  a1 : Rat
  a2 : Rat
  deriving DecidableEq, Repr

def shelf : Coefficients where
  b0 := 153512485958697 / 100000000000000
  b1 := -269169618940638 / 100000000000000
  b2 := 119839281085285 / 100000000000000
  a1 := -169065929318241 / 100000000000000
  a2 := 73248077421585 / 100000000000000

def highPass : Coefficients where
  b0 := 1
  b1 := -2
  b2 := 1
  a1 := -199004745483398 / 100000000000000
  a2 := 99007225036621 / 100000000000000

/-- Weight of SURROUND before rounding to a floating-point number (Table 4-3). -/
def surroundWeight : Rat := 141 / 100

end Sys2Proof.Config
end

