-- ==== Sys2Proof/Machine/Numbers.lean ====
section
/-! DEFINITION. Rounding, 64-bit floating-point numbers, exact decimal logarithms and roots, and the trigonometry of the
coefficient ROM. Everything is computed on integers and exact rationals. -/

namespace Sys2Proof.Machine

/-! ### Rounding and clamping (00_scope, Conventions) -/

def clamp (x lo hi : Int) : Int := if x < lo then lo else if hi < x then hi else x

/-- A tie goes toward +∞. -/
def roundHalfUp (q : Rat) : Int := (q + 1 / 2).floor

/-- A tie goes away from zero. -/
def roundHalfAway (q : Rat) : Int := if q < 0 then -((-q + 1 / 2).floor) else (q + 1 / 2).floor

def ceilDiv (a b : Nat) : Nat := (a + b - 1) / b

/-- Saturation to −8,388,608 … +8,388,607 (R28, R93). -/
def saturate24 (x : Int) : Int := clamp x (-8388608) 8388607

def toSample (x : Int) : Sample := BitVec.ofInt 24 x

/-- A count that stops at `top`. -/
def saturating (top n : Nat) : Nat := if top < n then top else n

/-! ### 64-bit floating point (R63) -/

/-- `n / d` rounded to the nearest integer, a tie going to the even one. -/
def roundHalfEven (n d : Nat) : Nat :=
  let q := n / d
  let r := n % d
  if 2 * r < d then q else if d < 2 * r then q + 1 else q + q % 2

/-- The greatest `e` with `2^e ≤ n / d`, for positive `n` and `d`. -/
def binaryExponent (n d : Nat) : Int :=
  let e : Int := (Nat.log2 n : Int) - (Nat.log2 d : Int)
  let below : Bool := if 0 ≤ e then n < d * 2 ^ e.toNat else n * 2 ^ (-e).toNat < d
  if below then e - 1 else e

/-- The exponent of the last place of a 53-bit number near `n / d`, not below that of the subnormal numbers. -/
def lastPlace (n d : Nat) : Int := max (binaryExponent n d - 52) (-1074)

/-- The representable magnitude nearest to `n / d`, a tie going to the even one. -/
def roundMagnitude (n d : Nat) : Rat :=
  if n = 0 then 0
  else
    let u := lastPlace n d
    if 0 ≤ u then ((roundHalfEven n (d * 2 ^ u.toNat) * 2 ^ u.toNat : Nat) : Rat)
    else mkRat (roundHalfEven (n * 2 ^ (-u).toNat) d) (2 ^ (-u).toNat)

/-- The 64-bit floating-point number nearest to `q`, a tie going to the even one (R63). -/
def roundF64 (q : Rat) : F64 :=
  if q.num < 0 then -roundMagnitude q.num.natAbs q.den else roundMagnitude q.num.natAbs q.den

def fadd (a b : F64) : F64 := roundF64 (a + b)
def fsub (a b : F64) : F64 := roundF64 (a - b)
def fmul (a b : F64) : F64 := roundF64 (a * b)
def fdiv (a b : F64) : F64 := roundF64 (a / b)

/-! ### Exact decimal logarithms and powers of ten (R67, R74, R75, R83, R94; log 14) -/

/-- The greatest number below `2^bits` more than `acc` that passes `test`, for a test that once false stays false. -/
def searchUp (test : Nat → Bool) : Nat → Nat → Nat
  | 0, acc => acc
  | bits + 1, acc => searchUp test bits (if test (acc + 2 ^ bits) then acc + 2 ^ bits else acc)

/-- Whether `10^j ≤ n / m`, for an integer `j`. -/
def tenPowerAtMost (j : Int) (n m : Nat) : Bool :=
  if 0 ≤ j then 10 ^ j.toNat * m ≤ n else m ≤ n * 10 ^ (-j).toNat

/-- `⌊k × log10 q⌋` for a positive rational `q`, exactly: the greatest integer `j` with `10^j ≤ q^k`. -/
def floorLog10 (k : Nat) (q : Rat) : Int :=
  let n := q.num.toNat ^ k
  let m := q.den ^ k
  let span := k * (Nat.log2 q.num.toNat + Nat.log2 q.den + 2)
  let low : Int := -(span : Int)
  (searchUp (fun t => tenPowerAtMost (low + t) n m) (Nat.log2 span + 2) 0 : Int) + low

/-- The loudness function of R67: −0.691 + 10 log10 x in hundredths, rounded half up, with the floor at −12000. -/
def loudness (x : F64) : Int :=
  if x ≤ 0 then Config.loudnessFloor
  else max Config.loudnessFloor (Int.fdiv (floorLog10 10000 x - 686) 10)

/-- 10 log10 x in hundredths, rounded half up, for a positive `x` (R74, R75, R83). -/
def hundredths (x : Rat) : Int := Int.fdiv (floorLog10 2000 x + 1) 2

/-- `⌊10^(c/n) × 2^bits⌋`, exactly. -/
def tenRootFloor (c : Int) (n bits : Nat) : Nat :=
  searchUp
    (fun m => if 0 ≤ c then m ^ n ≤ 10 ^ c.toNat * 2 ^ (n * bits) else m ^ n * 10 ^ (-c).toNat ≤ 2 ^ (n * bits))
    (bits + 4 * c.toNat / n + 5) 0

/-- The result on which both ends of an enclosure agree, doubling the enclosure's bits until they do. -/
def untilAgree {α : Type} [DecidableEq α] (ends : Nat → α × α) : Nat → Nat → α
  | 0, bits => (ends bits).1
  | tries + 1, bits =>
    let e := ends bits
    if e.1 = e.2 then e.1 else untilAgree ends tries (2 * bits)

/-- The two ends, with `bits` bits of fraction, of the mean of `10^(v/1000)` over `values` given as (value, count). -/
def meanEnergyEnds (values : List (Int × Nat)) (bits : Nat) : Rat × Rat :=
  let total := (values.map (·.2)).sum
  let low := (values.map fun v => v.2 * tenRootFloor v.1 1000 bits).sum
  let high := (values.map fun v => v.2 * (tenRootFloor v.1 1000 bits + 1)).sum
  (mkRat low (total * 2 ^ bits), mkRat high (total * 2 ^ bits))

/-- 10 log10 of the weighted mean of `10^(v/1000)`, in hundredths, rounded half up, the computation being exact up to
the rounding (R74, R75, R83). -/
def meanLoudness (values : List (Int × Nat)) : Int :=
  untilAgree
    (fun bits =>
      let e := meanEnergyEnds values bits
      (hundredths e.1, hundredths e.2)) 12 128

/-- The floating-point number nearest to `10^(gain/2000)` (R94). -/
def linearGain (gain : Int) : F64 :=
  untilAgree
    (fun bits =>
      let m := tenRootFloor gain 2000 bits
      (roundF64 (mkRat m (2 ^ bits)), roundF64 (mkRat (m + 1) (2 ^ bits)))) 12 128

/-! ### The coefficient ROM (R28; log 13) -/

/-- Bits of fraction of the ROM's fixed-point arithmetic. -/
def romBits : Nat := 160

/-- `⌊π × 2^160⌋`. -/
def piFixed : Int := 4591442807048218921384805199743311128454155024418

/-- `x × y` in fixed point, rounded toward −∞. -/
def fixedMul (x y : Int) : Int := Int.fdiv (x * y) (2 ^ romBits)

/-- The sum of `terms` terms of the series whose term `j + 1` is term `j` × −x² ÷ ((2j + a)(2j + a + 1)). -/
def trigSeries (square : Int) (a : Nat) : Nat → Nat → Int → Int
  | 0, _, _ => 0
  | terms + 1, j, term =>
    term + trigSeries square a terms (j + 1)
      (Int.fdiv (fixedMul (-term) square) (((2 * j + a) * (2 * j + a + 1) : Nat) : Int))

/-- `π × a ÷ b` in fixed point, with the angle brought to 0 … 2π first. -/
def angleFixed (a : Int) (b : Nat) : Int := Int.fdiv (piFixed * (a % (2 * (b : Int)))) b

/-- `sin(π × a ÷ b)` in fixed point. -/
def sinPi (a : Int) (b : Nat) : Int :=
  let x := angleFixed a b
  trigSeries (fixedMul x x) 2 50 0 x

/-- `cos(π × a ÷ b)` in fixed point. -/
def cosPi (a : Int) (b : Nat) : Int :=
  let x := angleFixed a b
  trigSeries (fixedMul x x) 1 50 0 (2 ^ romBits)

/-- The raw coefficient of R28 at the distance `t = n ÷ 64`, for the tap count `taps`, before rounding. -/
def romRaw (taps : Nat) (n : Int) : Rat :=
  let one : Int := 2 ^ romBits
  let sinc : Rat :=
    if n = 0 then 9 / 10
    else (sinPi (9 * n) 640 * 64 : Int) / ((piFixed * n : Int) : Rat)
  let half := taps / 2 + 1
  let shape : Rat :=
    42 / 100 + 1 / 2 * ((cosPi n (64 * half) : Int) / (one : Rat)) + 8 / 100 * ((cosPi (2 * n) (64 * half) : Int) / (one : Rat))
  (2 ^ 23 : Rat) * sinc * shape

/-- The rounded coefficient of the frame `k` of the set `phase`, before the sum is corrected (R28). -/
def romRounded (taps phase k : Nat) : Int :=
  roundHalfAway (romRaw taps (64 * ((k : Int) - (taps / 2 : Nat) + 1) - (phase : Int)))

/-- The coefficient whose place takes the difference between 2²³ and the set's sum (R28). -/
def romCentre (taps phase : Nat) : Nat := if phase ≤ 32 then taps / 2 - 1 else taps / 2

/-- The coefficients of the set `phase`, 0 to 63, with 64 standing for the end set, for the tap count `taps` (R28). -/
def romSet (taps phase : Nat) : List Int :=
  let rounded := (List.range taps).map (romRounded taps phase)
  let excess := 2 ^ 23 - rounded.sum
  rounded.mapIdx fun k c => if k = romCentre taps phase then c + excess else c

end Sys2Proof.Machine
end

