-- ==== Sys2Proof/Machine/State.lean ====
section
/-! DEFINITION. Everything the part holds, as plain data, and its value after reset. INVENTORY.md lists each item with the
rule that names it. -/

namespace Sys2Proof.Machine

/-- No rule of the spec stops the part, so there is no fault (log 31). -/
inductive Fault where
  deriving DecidableEq, Repr

/-- The only refusal is that of a command without a meaning. -/
inductive Refusal where
  /-- Raised by an arm of `exec` for a command that has no meaning yet; none is left. Safe: the machine stops. -/
  | notModelled (mnemonic : String)
  deriving DecidableEq, Repr

/-- What a step answers. -/
abbrev Answer (σ : Type) := Host.Outcome σ Fault Refusal

/-- PRESENT or ABSENT: the reference state (R23) and the pulse state (R25). -/
inductive Presence where
  | present | absent
  deriving DecidableEq, Repr

/-! ### Settings (Table 10-5) -/

structure Settings where
  unit : Byte
  managementKey : BitVec 16
  partEtherType : BitVec 16
  ipv4 : BitVec 32
  keyMask : BitVec 16
  foreignPass : Bool
  otherPass : Bool
  latencyPass : Bool
  learn : Bool
  /-- 1 to 60 s. -/
  staleTimeout : Nat
  noticeMac : BitVec 48
  noticeKey : BitVec 16
  reportMac : BitVec 48
  reportKey : BitVec 16
  deriving DecidableEq, Repr

/-- The power-on contents for the strap value `straps`, which gives unit 0 where it is 255 (R6, R176). -/
def Settings.powerOn (straps : Byte) : Settings where
  unit := if straps = 255#8 then 0#8 else straps
  managementKey := 0xFF00#16
  partEtherType := 0x9A30#16
  ipv4 := 0#32
  keyMask := 0xFFFF#16
  foreignPass := true
  otherPass := true
  latencyPass := true
  learn := true
  staleTimeout := 5
  noticeMac := 0xFFFFFFFFFFFF#48
  noticeKey := 0xFF01#16
  reportMac := 0xFFFFFFFFFFFF#48
  reportKey := 0xFF01#16

/-! ### House Timing (Table 2-1) -/

structure House where
  count : BitVec 48
  reference : Presence
  pulse : Presence
  lastBoundary : BitVec 48
  /-- The model's own: a boundary has been handed over since the last house sample ended (R25; log 5). -/
  boundaryMade : Bool
  deriving DecidableEq, Repr

def House.reset : House where
  count := 0
  reference := .absent
  pulse := .absent
  lastBoundary := 0
  boundaryMade := false

/-! ### Streams (Table 1-3, section 1.4, section 2.2 to 2.6) -/

/-- Rate codes 0 to 3: 44.1, 48, 88.2 and 96 kHz. -/
inductive Rate where
  | r44 | r48 | r88 | r96
  deriving DecidableEq, Repr

inductive SampleFormat where
  | s16 | s24
  deriving DecidableEq, Repr

inductive FilterLength where
  | normal | short
  deriving DecidableEq, Repr

inductive Concealment where
  | zero | holdFade
  deriving DecidableEq, Repr

structure StreamEntry where
  valid : Bool
  key : BitVec 16
  rate : Rate
  lanes : Nat
  first : Nat
  format : SampleFormat
  /-- T, in frames. -/
  targetFill : Nat
  filter : FilterLength
  concealment : Concealment
  /-- Milliseconds. -/
  gapTimeout : Nat
  /-- Units of 100 ms. -/
  holdoverLimit : Nat
  gp : Nat
  gi : Nat
  deriving DecidableEq, Repr

/-- The power-on contents of Table 1-3. -/
def StreamEntry.powerOn : StreamEntry where
  valid := false
  key := 0
  rate := .r48
  lanes := 1
  first := 0
  format := .s24
  targetFill := 256
  filter := .normal
  concealment := .zero
  gapTimeout := 20
  holdoverLimit := 20
  gp := 8
  gi := 1

/-- Input context states (Table 1-5). -/
inductive ContextState where
  | empty | acquire | track | locked | holdover | lost
  deriving DecidableEq, Repr

/-- The six sticky flags of a stream (R21). -/
structure StreamFlags where
  late : Bool
  gap : Bool
  resync : Bool
  overrun : Bool
  format : Bool
  underrun : Bool
  deriving DecidableEq, Repr

def StreamFlags.clear : StreamFlags := ⟨false, false, false, false, false, false⟩

/-- The frame count and the last frame of the last accepted packet (R13). -/
structure LastPacket where
  frames : Nat
  lastFrame : List Sample
  deriving DecidableEq, Repr

structure Context where
  state : ContextState
  /-- The expected sequence number s, absent while it is not set. -/
  expected : Option (BitVec 16)
  last : Option LastPacket
  acceptTime : BitVec 48
  /-- The frames not yet released, oldest first: the newest has the write index one below `writeIndex` (log 28). -/
  buffer : List (List Sample)
  writeIndex : BitVec 32
  /-- 32 bits of write index, 32 bits of fraction (R27). -/
  pos : BitVec 64
  step : Int
  /-- I_r. -/
  integrator : Int
  /-- δ. -/
  correction : Int
  /-- The last e. -/
  lastError : Int
  lockCount : Nat
  windowSum : Nat
  windowCount : Nat
  holdoverStart : BitVec 48
  maxFill : Nat
  minFill : Nat
  flags : StreamFlags
  formatCount : Nat
  underrunCount : Nat
  /-- The samples last produced under R28 since the context entered TRACK, one per lane (R31); outside the converting states
  log 46. -/
  produced : List Sample
  /-- Consecutive stalled house samples, held at 480 (R31; log 29). -/
  stalled : Nat
  deriving DecidableEq, Repr

/-- After reset; the step, the times and pos, whose 0 R27 gives for the context resets of R9, have no value from a rule
(log 8). -/
def Context.reset : Context where
  state := .empty
  expected := none
  last := none
  acceptTime := 0
  buffer := []
  writeIndex := 0
  pos := 0
  step := 4294967296
  integrator := 0
  correction := 0
  lastError := 0
  lockCount := 0
  windowSum := 0
  windowCount := 0
  holdoverStart := 0
  maxFill := 0
  minFill := 0
  flags := .clear
  formatCount := 0
  underrunCount := 0
  produced := []
  stalled := 0

structure Stream where
  entry : StreamEntry
  ctx : Context
  deriving DecidableEq, Repr

def Stream.reset : Stream := ⟨.powerOn, .reset⟩

/-! ### The Program Table (Table 3-1) -/

inductive Bank where
  | a | b
  deriving DecidableEq, Repr

inductive Role where
  | front | surround | lfe
  deriving DecidableEq, Repr

structure Member where
  slot : Fin 128
  role : Role
  deriving DecidableEq, Repr

inductive LoudnessMode where
  | measure | track
  deriving DecidableEq, Repr

inductive MoveMode where
  | dip | quiet
  deriving DecidableEq, Repr

structure ProgramEntry where
  valid : Bool
  members : List Member
  fallback : Option (List (Fin 128))
  mode : LoudnessMode
  /-- T_L. -/
  target : Int
  maxBoost : Int
  maxCut : Int
  slew : Nat
  freezeThreshold : Int
  /-- W, in seconds. -/
  window : Nat
  preset : Int
  quietThreshold : Int
  chain : List (Fin 64)
  /-- Microseconds. -/
  offset : Int
  trim : Int
  tolerance : Nat
  moveMode : MoveMode
  /-- Seconds. -/
  quietWait : Nat
  deriving DecidableEq, Repr

/-- The power-on contents of Table 3-1. -/
def ProgramEntry.powerOn : ProgramEntry where
  valid := false
  members := [⟨0, .front⟩]
  fallback := none
  mode := .measure
  target := -2300
  maxBoost := 600
  maxCut := 1200
  slew := 20
  freezeThreshold := -5000
  window := 30
  preset := 0
  quietThreshold := -6000
  chain := []
  offset := 0
  trim := 0
  tolerance := 240
  moveMode := .dip
  quietWait := 30

/-! ### The state of one program -/

/-- Program states (Table 3-2). -/
inductive ProgramState where
  | free | stopped | filling | running | stopping
  deriving DecidableEq, Repr

/-- The four values one filter stage keeps (R63). -/
structure StageState where
  x1 : F64
  x2 : F64
  y1 : F64
  y2 : F64
  deriving DecidableEq, Repr

def StageState.zero : StageState := ⟨0, 0, 0, 0⟩

/-- One member's two stages (R63). -/
structure FilterState where
  shelf : StageState
  highPass : StageState
  deriving DecidableEq, Repr

def FilterState.zero : FilterState := ⟨.zero, .zero⟩

/-- Table 4-1. A value without a value is `none`; it shows as −12000 beside its mark (R61). -/
structure Meter where
  filters : Vector FilterState 8
  sums : Vector F64 8
  energies : List F64
  subBlocks : Nat
  momentary : Option Int
  shortTerm : Option Int
  quiet : Bool
  histogram : Vector Nat 750
  /-- Γ. -/
  gate : Option Int
  /-- I. -/
  integrated : Option Int
  peaks : Vector Nat 8
  /-- The model's own: a sub-block has ended, in a house sample processed in this state, and its update is still to
  be made (R65). -/
  due : Option ProgramState
  deriving DecidableEq, Repr

def Meter.reset : Meter where
  filters := .replicate 8 .zero
  sums := .replicate 8 0
  energies := []
  subBlocks := 0
  momentary := none
  shortTerm := none
  quiet := false
  histogram := .replicate 750 0
  gate := none
  integrated := none
  peaks := .replicate 8 0
  due := none

/-- One decision waiting in the gain schedule queue (section 5.4). -/
structure GainEntry where
  content : Int
  gain : Int
  deriving DecidableEq, Repr

/-- The gain ramp (R94). It is at rest when the count is 480. -/
structure Ramp where
  present : F64
  start : F64
  finish : F64
  count : Nat
  deriving DecidableEq, Repr

inductive DipState where
  | rest | fadeOut | down | fadeIn
  deriving DecidableEq, Repr

/-- Table 5-1. -/
structure Correction where
  /-- The correction window ring, oldest first (R82). -/
  ring : List Int
  /-- Lw. -/
  window : Option Int
  /-- Γw. -/
  windowGate : Option Int
  /-- G. -/
  gain : Int
  /-- The gain schedule queue, lowest content index first (R89). -/
  schedule : List GainEntry
  outputGain : Int
  ramp : Ramp
  mute : Nat
  dip : DipState
  dipCount : Nat
  stop : Nat
  clips : Nat
  deriving DecidableEq, Repr

/-- After reset (Table 5-1). DESIGN CHOICE, unsafe (log 8): the ramp's start value, and the dip count, which
no rule gives in REST. -/
def Correction.reset : Correction where
  ring := []
  window := none
  windowGate := none
  gain := 0
  schedule := []
  outputGain := 0
  ramp := ⟨1, 1, 1, 480⟩
  mute := 480
  dip := .rest
  dipCount := 0
  stop := 0
  clips := 0

/-- A program's part of Delay Memory (Table 6-1). Its capacity is computed from `blocks`. -/
structure DelayLine where
  /-- B, blocks per member. -/
  blocks : Nat
  /-- One list of block numbers per member, in ring order (R102). -/
  rings : List (List Nat)
  writePlace : Nat
  readPlace : Nat
  deriving DecidableEq, Repr

def DelayLine.none : DelayLine := ⟨0, [], 0, 0⟩

/-- Move states (Table 7-2). -/
inductive MoveState where
  | none | waiting | fadingOut | fadingIn
  deriving DecidableEq, Repr

/-- Lip-Sync Alignment's values of one program (R122 to R134). -/
structure LipSync where
  /-- V in microseconds. -/
  videoMicros : Int
  /-- V. -/
  video : Int
  /-- A. -/
  audio : Int
  /-- U. -/
  unclamped : Int
  /-- D_target. -/
  target : Nat
  /-- D_actual. -/
  actual : Nat
  audioLate : Bool
  delayClamp : Bool
  move : MoveState
  pendingMove : Bool
  /-- When the wait began (R131); outside WAITING log 46. -/
  waitStart : BitVec 48
  /-- The length of the wait in house samples, as it stood when the wait began (R131); outside WAITING log 46. -/
  waitLength : Nat
  sendFlag : Bool
  lastReported : Option Nat
  deriving DecidableEq, Repr

/-- After reset; the start and length of a wait are log 8. -/
def LipSync.reset : LipSync where
  videoMicros := 0
  video := 0
  audio := 0
  unclamped := 0
  target := 0
  actual := 0
  audioLate := false
  delayClamp := false
  move := .none
  pendingMove := false
  waitStart := 0
  waitLength := 0
  sendFlag := false
  lastReported := none

/-- The four vote counts of a program (R148). -/
structure Votes where
  mute : Nat
  freeze : Nat
  hold : Nat
  fallback : Nat
  deriving DecidableEq, Repr

def Votes.zero : Votes := ⟨0, 0, 0, 0⟩

/-- Egress's part of a program (R158, R160). -/
structure ProgramEgress where
  sequence : BitVec 16
  /-- The packet in progress: one list of member samples per house sample, oldest first. -/
  progress : List (List Sample)
  /-- The stamp of the first house sample of the packet in progress; of an emptied packet log 46. -/
  stamp : BitVec 32
  /-- Built media frames, oldest first. -/
  queue : List (List Byte)
  /-- EGRESS_DROP. -/
  drop : Bool
  deriving DecidableEq, Repr

/-- After reset; the stamp of an empty packet is log 8. -/
def ProgramEgress.reset : ProgramEgress := ⟨0, [], 0, [], false⟩

structure Program where
  state : ProgramState
  /-- The content index, which the write index equals (R49). -/
  content : BitVec 48
  readIndex : Int
  fallbackInUse : Bool
  changed : Bool
  meter : Meter
  corr : Correction
  delay : DelayLine
  lip : LipSync
  votes : Votes
  egress : ProgramEgress
  deriving DecidableEq, Repr

def Program.reset : Program where
  state := .free
  content := 0
  readIndex := 0
  fallbackInUse := false
  changed := false
  meter := .reset
  corr := .reset
  delay := .none
  lip := .reset
  votes := .zero
  egress := .reset

/-! ### Delay Memory's store -/

/-- The samples of the delay pool: (address, sample) pairs, address = block × 1024 + offset, in the canonical form of
`Memory.wf` (Machine/Ops.lean). An unlisted address reads as 0 (log 11). -/
structure Memory where
  cells : List (Nat × Sample)
  deriving DecidableEq, Repr

def Memory.empty : Memory := ⟨[]⟩

/-! ### The Latency Table (Table 7-1) -/

inductive Origin where
  | captured | set
  deriving DecidableEq, Repr

inductive LatencyState where
  | absent | fresh | stale
  deriving DecidableEq, Repr

structure LatencyEntry where
  valid : Bool
  reporter : BitVec 32
  /-- Microseconds. -/
  latency : Option Nat
  origin : Origin
  lock : Bool
  ignore : Bool
  state : LatencyState
  age : Nat
  changed : Bool
  deriving DecidableEq, Repr

def LatencyEntry.powerOn : LatencyEntry where
  valid := false
  reporter := 0
  latency := none
  origin := .set
  lock := false
  ignore := false
  state := .absent
  age := 0
  changed := false

/-! ### Triggers and notices (Tables 8-1, 8-2, 8-5) -/

/-- Condition kinds in the order of Table 8-2, which numbers them 0 to 16. -/
inductive Condition where
  | streamLost | streamHoldover | streamUnlocked | ratioLimit | ratioDeviation | underrun | format
  | silence | overload | clip | gainAtLimit | delayClamp | audioLate | lipsyncError | chainStale
  | houseRefAbsent | poolLow
  deriving DecidableEq, Repr

/-- The set of responses of a trigger. -/
structure Responses where
  notice : Bool
  mute : Bool
  freezeGain : Bool
  holdIntegration : Bool
  fallback : Bool
  deriving DecidableEq, Repr

structure TriggerEntry where
  enable : Bool
  level2 : Bool
  arming : Option (Fin 48)
  armWindow : Nat
  condition : Condition
  object : Nat
  parameter : Int
  fireCount : Nat
  clearCount : Nat
  latch : Bool
  responses : Responses
  target : Option (Fin 16)
  deriving DecidableEq, Repr

def TriggerEntry.powerOn : TriggerEntry where
  enable := false
  level2 := false
  arming := none
  armWindow := 0
  condition := .streamLost
  object := 0
  parameter := 0
  fireCount := 1
  clearCount := 1
  latch := false
  responses := ⟨false, false, false, false, false⟩
  target := none

inductive TriggerState where
  | off | watching | pending | active | clearing
  deriving DecidableEq, Repr

structure TriggerStatus where
  state : TriggerState
  count : Nat
  armed : Bool
  windowRemaining : Nat
  lastCondition : Bool
  lastMeasured : Int
  latched : Bool
  fireTotal : Nat
  changed : Bool
  deriving DecidableEq, Repr

def TriggerStatus.reset : TriggerStatus := ⟨.off, 0, false, 0, false, 0, false, 0, false⟩

structure Trigger where
  entry : TriggerEntry
  status : TriggerStatus
  deriving DecidableEq, Repr

def Trigger.reset : Trigger := ⟨.powerOn, .reset⟩

inductive NoticeKind where
  | started | fired | cleared | withdrawn
  deriving DecidableEq, Repr

/-- A notice waiting for the link. Its unit number and lost count are taken when it leaves the queue (R151, R165). -/
structure Notice where
  kind : NoticeKind
  trigger : Option (Fin 48)
  /-- 1 or 2, and 0 where it is absent. -/
  level : Nat
  condition : Condition
  object : Nat
  target : Option (Fin 16)
  measured : Int
  responses : Responses
  stamp : BitVec 32
  deriving DecidableEq, Repr

/-- The notice of R153. Its absent fields are sent as 255 and 0 (R182). -/
def Notice.startedNotice : Notice where
  kind := .started
  trigger := none
  level := 0
  condition := .streamLost
  object := 0
  target := none
  measured := 0
  responses := ⟨false, false, false, false, false⟩
  stamp := 0

/-! ### Egress (Table 9-1, section 9.3) -/

inductive Carrier where
  | raw | udp
  deriving DecidableEq, Repr

structure EgressEntry where
  carrier : Carrier
  mac : BitVec 48
  ipv4 : BitVec 32
  port : BitVec 16
  key : BitVec 16
  /-- P. -/
  packetSize : Nat
  reporter : BitVec 32
  deriving DecidableEq, Repr

/-- The power-on contents of entry `k` (Table 9-1). -/
def EgressEntry.powerOn (k : Fin 16) : EgressEntry where
  carrier := .raw
  mac := 0xFFFFFFFFFFFF#48
  ipv4 := 0
  port := 0
  key := 0
  packetSize := 48
  reporter := BitVec.ofNat 32 k.val

structure LatencyReport where
  program : Fin 16
  reporter : BitVec 32
  micros : Nat
  deriving DecidableEq, Repr

/-- A reply frame as it was built when it was placed (R163), and whether it is the reply to RESET PART (R166). -/
structure QueuedReply where
  bytes : List Byte
  resetsPart : Bool
  deriving DecidableEq, Repr

/-- The classes of the arbiter's second round robin, in their cyclic order (R162). -/
inductive EgressClass where
  | replies | reports | notices | passThrough
  deriving DecidableEq, Repr

/-- The frame in sending (R161). It is paused while ready is withdrawn. -/
structure Sending where
  bytes : List Byte
  resetsPart : Bool
  deriving DecidableEq, Repr

/-! ### Management (chapter 10) -/

/-- The tables of Table 10-3, in the order of their ids. -/
inductive Table where
  | settings | stream | program | egress | latency | trigger | streamStatus | programStatus
  | triggerStatus | partStatus | pool | histogram
  deriving DecidableEq, Repr

/-- How an order came in, which its reply follows (R163). -/
structure ReplyPath where
  carrier : Carrier
  sourceMac : BitVec 48
  sourceIp : BitVec 32
  sourcePort : BitVec 16
  destinationPort : BitVec 16
  deriving DecidableEq, Repr

/-- An order in the order queue (R168), as its frame carried it (Table 11-3). -/
structure Order where
  path : ReplyPath
  tag : Byte
  kind : Byte
  table : Byte
  bank : Byte
  index : Nat
  contents : List Byte
  /-- Taken, deferred and not yet answered. -/
  inProgress : Bool
  deriving DecidableEq, Repr

/-- The cursor while it is not cleared (R173). -/
structure Cursor where
  write : Bool
  table : Table
  bank : Bank
  next : Nat
  deriving DecidableEq, Repr

/-- Where a RESET PART stands: none taken, taken with its reply not yet sent, or its reply sent (R179, R166). -/
inductive ResetPhase where
  | none | awaiting | due
  deriving DecidableEq, Repr

/-- The five sticky flags of PART STATUS (R178). -/
structure PartFlags where
  ordersDropped : Bool
  passDropped : Bool
  unknownReporter : Bool
  noticesLost : Bool
  reportsDropped : Bool
  deriving DecidableEq, Repr

def PartFlags.clear : PartFlags := ⟨false, false, false, false, false⟩

/-! ### The whole part -/

structure State where
  settings : Settings
  straps : Byte
  house : House
  streams : Vector Stream 32
  slots : Vector Sample 128
  bankA : Vector ProgramEntry 16
  bankB : Vector ProgramEntry 16
  activeBank : Bank
  swapPending : Bool
  programs : Vector Program 16
  memory : Memory
  freeList : List Nat
  latencies : Vector LatencyEntry 64
  triggers : Vector Trigger 48
  notices : List Notice
  lostCount : Nat
  /-- The model's own: the evaluation of this house sample's end is still to be made (R143). -/
  evaluationDue : Bool
  egressTable : Vector EgressEntry 16
  passQueue : List (List Byte)
  replyQueue : List QueuedReply
  reportQueue : List LatencyReport
  lastProgram : Fin 16
  lastClass : EgressClass
  sending : Option Sending
  /-- The ready line, a pin (log 9). -/
  ready : Bool
  orders : List Order
  cursor : Option Cursor
  resetPhase : ResetPhase
  flags : PartFlags
  /-- The model's own: how many unstated numbers replies have shown (log 18). -/
  freeCount : Nat
  /-- The model's own: the commands waiting, first in first out. -/
  pending : List Instr
  deriving DecidableEq, Repr

/-- The part right after power-on, with the strap value 0 and the ready line held (logs 9 and 10). -/
def State.reset : State where
  settings := .powerOn 0
  straps := 0
  house := .reset
  streams := .replicate 32 .reset
  slots := .replicate 128 0
  bankA := .replicate 16 .powerOn
  bankB := .replicate 16 .powerOn
  activeBank := .a
  swapPending := false
  programs := .replicate 16 .reset
  memory := .empty
  freeList := List.range 2048
  latencies := .replicate 64 .powerOn
  triggers := .replicate 48 .reset
  notices := [.startedNotice]
  lostCount := 0
  evaluationDue := false
  egressTable := .ofFn EgressEntry.powerOn
  passQueue := []
  replyQueue := []
  reportQueue := []
  lastProgram := 15
  lastClass := .passThrough
  sending := none
  ready := true
  orders := []
  cursor := none
  resetPhase := .none
  flags := .clear
  freeCount := 0
  pending := []

end Sys2Proof.Machine
end

