-- ==== Sys2Proof/Machine/Ops.lean ====
section
/-! DEFINITION. The named operations over the state that every family shares: access to one stream, program or entry, the
active bank, differences of the house sample count, and the delay pool's store. -/

namespace Sys2Proof.Machine

/-! ### Doing something for each index, and for an index given from outside -/

/-- `f 0`, then `f 1`, and so on up to `f (n - 1)`. -/
def forEach (n : Nat) (f : Fin n → State → State) (s : State) : State :=
  (List.finRange n).foldl (fun t i => f i t) s

/-- `f` at an index below `n`; an index that names nothing changes nothing (log 30). -/
def atIndex (n i : Nat) (f : Fin n → State → State) (s : State) : State :=
  if h : i < n then f ⟨i, h⟩ s else s

/-! ### Parts of the state -/

def State.modifyStream (i : Fin 32) (f : Stream → Stream) (s : State) : State :=
  { s with streams := s.streams.set i (f s.streams[i]) }

def State.modifyContext (i : Fin 32) (f : Context → Context) (s : State) : State :=
  s.modifyStream i fun t => { t with ctx := f t.ctx }

def State.modifyProgram (p : Fin 16) (f : Program → Program) (s : State) : State :=
  { s with programs := s.programs.set p (f s.programs[p]) }

def State.modifyLatency (i : Fin 64) (f : LatencyEntry → LatencyEntry) (s : State) : State :=
  { s with latencies := s.latencies.set i (f s.latencies[i]) }

def State.modifyTrigger (i : Fin 48) (f : Trigger → Trigger) (s : State) : State :=
  { s with triggers := s.triggers.set i (f s.triggers[i]) }

def Program.withMeter (g : Program) (f : Meter → Meter) : Program := { g with meter := f g.meter }
def Program.withCorr (g : Program) (f : Correction → Correction) : Program := { g with corr := f g.corr }
def Program.withLip (g : Program) (f : LipSync → LipSync) : Program := { g with lip := f g.lip }
def Program.withEgress (g : Program) (f : ProgramEgress → ProgramEgress) : Program := { g with egress := f g.egress }

/-! ### Time (R22) -/

/-- The house samples from `past` to `now`, modulo 2⁴⁸ (R22). -/
def since (now past : BitVec 48) : Nat := (now - past).toNat

/-- The stamp of a count: its low 32 bits (R22). -/
def stampOf (count : BitVec 48) : BitVec 32 := count.setWidth 32

/-! ### The Program Table (R43) -/

def Bank.other : Bank → Bank
  | .a => .b
  | .b => .a

def State.bank (s : State) : Bank → Vector ProgramEntry 16
  | .a => s.bankA
  | .b => s.bankB

def State.setBankEntry (s : State) (which : Bank) (p : Fin 16) (e : ProgramEntry) : State :=
  match which with
  | .a => { s with bankA := s.bankA.set p e }
  | .b => { s with bankB := s.bankB.set p e }

/-- The entry of program `p` in the active bank. -/
def State.activeEntry (s : State) (p : Fin 16) : ProgramEntry := (s.bank s.activeBank)[p]

/-- FILLING, RUNNING and STOPPING: the states in which a program processes house samples (R49). -/
def ProgramState.processing : ProgramState → Bool
  | .filling | .running | .stopping => true
  | .free | .stopped => false

/-- FILLING and RUNNING: the states in which the meter is fed (R60). -/
def ProgramState.fed : ProgramState → Bool
  | .filling | .running => true
  | .free | .stopped | .stopping => false

/-- A change of program state sets the changed flag (R47, R59). -/
def Program.enter (st : ProgramState) (g : Program) : Program :=
  { g with state := st, changed := g.changed || decide (g.state ≠ st) }

/-- The lane slots a program with the entry `e` reads, in member order (R54). -/
def effectiveSlots (e : ProgramEntry) (fallbackInUse : Bool) : List (Fin 128) :=
  if fallbackInUse then e.fallback.getD [] else e.members.map (·.slot)

/-! ### The delay pool's store (R101, R102, R109) -/

/-- Addresses rise strictly from `above` on, and no listed sample is the 0 that an unlisted address reads as. -/
def cellsOk : Nat → List (Nat × Sample) → Bool
  | _, [] => true
  | above, c :: rest => decide (above ≤ c.1) && decide (c.2 ≠ 0) && cellsOk (c.1 + 1) rest

/-- The canonical form of the store. -/
def Memory.wf (m : Memory) : Bool := cellsOk 0 m.cells

def readCells (cells : List (Nat × Sample)) (a : Nat) : Sample :=
  match cells with
  | [] => 0
  | c :: rest => if c.1 = a then c.2 else readCells rest a

/-- The sample at an address, 0 where nothing is listed (log 11). -/
def Memory.read (m : Memory) (a : Nat) : Sample := readCells m.cells a

def writeCells (cells : List (Nat × Sample)) (a : Nat) (x : Sample) : List (Nat × Sample) :=
  match cells with
  | [] => if x = 0 then [] else [(a, x)]
  | c :: rest =>
    if c.1 < a then c :: writeCells rest a x
    else if c.1 = a then if x = 0 then rest else (a, x) :: rest
    else if x = 0 then c :: rest else (a, x) :: c :: rest

/-- Writing one sample keeps the canonical form: a 0 is not listed. -/
def Memory.write (m : Memory) (a : Nat) (x : Sample) : Memory := ⟨writeCells m.cells a x⟩

/-- Places of one member ring (R109). -/
def DelayLine.ringLength (d : DelayLine) : Nat := d.blocks * Config.blockSamples

/-- C (R102). -/
def DelayLine.capacity (d : DelayLine) : Nat := d.ringLength - 1

/-- The greatest delay a program may keep (R124). -/
def DelayLine.limit (d : DelayLine) : Nat := min d.capacity Config.delayLimit

/-- The address of place `place` of member ring `ring` (R109); none where the ring has no such block. -/
def placeAddress (ring : List Nat) (place : Nat) : Option Nat :=
  (ring[place / Config.blockSamples]?).map fun b => b * Config.blockSamples + place % Config.blockSamples

/-- The place `delay` behind the write place, modulo the ring length (R109). -/
def DelayLine.placeBehind (d : DelayLine) (delay : Nat) : Nat :=
  (((d.writePlace : Int) - delay) % (d.ringLength : Int)).toNat

/-- One sample for each member written at the write place (R110). -/
def writeRings (rings : List (List Nat)) (place : Nat) (xs : List Sample) (m : Memory) : Memory :=
  (rings.zip xs).foldl
    (fun m rx => match placeAddress rx.1 place with
      | some a => m.write a rx.2
      | none => m) m

/-- The sample at one place of a ring (R110). -/
def readRing (m : Memory) (place : Nat) (ring : List Nat) : Sample :=
  match placeAddress ring place with
  | some a => m.read a
  | none => 0

/-- Appends a program's blocks at the tail of the free list, in member and ring order, and leaves it without rings
(R106). -/
def State.releaseBlocks (s : State) (p : Fin 16) : State :=
  { s with
    freeList := s.freeList ++ s.programs[p].delay.rings.flatten
    programs := s.programs.set p { s.programs[p] with delay := .none } }

end Sys2Proof.Machine
end

