-- ==== Sys2Proof/Machine/Correction.lean ====
section
/-! DEFINITION. Loudness Correction (chapter 5): the window loudness, the gain schedule queue, the gain law, new loudness
fields, and the output stage. -/

namespace Sys2Proof.Machine

/-! ### The correction window (R82, R83) -/

/-- Γw and Lw of a ring (R83). -/
def windowLoudness (ring : List Int) : Option Int × Option Int :=
  let passing := ring.filter fun v => decide (Config.absoluteGate ≤ v)
  if ring.length < 30 ∨ passing = [] then (none, none)
  else
    let gate := meanLoudness (passing.map fun v => (v, 1)) - 1000
    (some gate, some (meanLoudness ((passing.filter fun v => decide (gate ≤ v)).map fun v => (v, 1))))

/-- Stores Lw and Γw as the ring now gives them. -/
def Correction.measureWindow (c : Correction) : Correction :=
  { c with windowGate := (windowLoudness c.ring).1, window := (windowLoudness c.ring).2 }

/-- The oldest values are removed until the ring holds no more than `size` (R82). -/
def Correction.trimRing (size : Nat) (c : Correction) : Correction :=
  { c with ring := c.ring.drop (c.ring.length - size) }

/-- An admitted momentary value is placed at the newest end (R82). -/
def Correction.enterRing (size : Nat) (v : Int) (c : Correction) : Correction :=
  ({ c with ring := c.ring ++ [v] }).trimRing size

/-- A smaller W shortens the ring, and Lw and Γw are computed again (R82, R83). -/
def Correction.shorten (size : Nat) (c : Correction) : Correction :=
  if size < c.ring.length then (c.trimRing size).measureWindow else c

/-! ### The gain schedule queue and the gain ramp (R89, R90, R94) -/

/-- The ramp starts from its present value toward the linear value of `gain` (R94). -/
def Ramp.toward (gain : Int) (r : Ramp) : Ramp :=
  { present := r.present, start := r.present, finish := linearGain gain, count := 0 }

/-- At rest the count is 480 and the present value is the end value (R94); the start value stays, which is log 42. -/
def Ramp.rest (r : Ramp) : Ramp := { r with present := r.finish, count := Config.rampSamples }

/-- At rest at the linear value of `gain` (R92). R92 and R94 give a ramp at rest its present and end value and its count
only; that the start value is the linear value too is DESIGN CHOICE, unsafe (log 42). -/
def Ramp.restAt (gain : Int) : Ramp :=
  ⟨linearGain gain, linearGain gain, linearGain gain, Config.rampSamples⟩

/-- One house sample of the ramp (R94). -/
def Ramp.advance (r : Ramp) : Ramp :=
  if Config.rampSamples ≤ r.count then { r with present := r.finish }
  else
    let n := r.count + 1
    let present :=
      if n = Config.rampSamples then r.finish
      else fadd r.start (fdiv (fmul (fsub r.finish r.start) (n : Nat)) (Config.rampSamples : Nat))
    { r with present := present, count := n }

/-- The entries that the read index has reached: the newest is taken up, and it and the older ones leave (R90). -/
def Correction.takeUp (readIndex : Int) (c : Correction) : Correction :=
  match (c.schedule.filter fun e => decide (e.content ≤ readIndex)).getLast? with
  | none => c
  | some e =>
    { c with
      schedule := c.schedule.filter fun e => decide (readIndex < e.content)
      outputGain := e.gain
      ramp := c.ramp.toward e.gain }

/-- Correction acts on the read index as it now stands (R90, R91). -/
def Program.takeUpGain (g : Program) : Program := g.withCorr (·.takeUp g.readIndex)

/-- The newest entry is removed where it lies less than 4800 below `content` (R89, step 1). -/
def dropNear (content : Int) (q : List GainEntry) : List GainEntry :=
  match q.getLast? with
  | none => q
  | some e => if content - Config.subBlock < e.content then q.dropLast else q

/-- The present gain is placed in the schedule at the present content index, and taken up at once if it is due (R89). -/
def Program.appendGain (g : Program) : Program :=
  let content : Int := g.content.toNat
  (g.withCorr fun c => { c with schedule := dropNear content c.schedule ++ [⟨content, c.gain⟩] }).takeUpGain

/-! ### The gain law (R85) -/

/-- Steps 2 and 3 of R85 for a window loudness `lw`. -/
def nextGain (e : ProgramEntry) (gain lw : Int) : Int :=
  let desired := clamp (e.target - lw) (-e.maxCut) e.maxBoost
  gain + clamp (desired - gain) (-(e.slew : Int)) e.slew

/-- The gain law of one meter update, in TRACK (R84, R85). -/
def Program.gainLaw (e : ProgramEntry) (momentary : Option Int) (g : Program) : Program :=
  match e.mode, g.corr.window, momentary with
  | .track, some lw, some m =>
    if 0 < g.votes.freeze ∨ m < e.freezeThreshold then g
    else
      let gain := nextGain e g.corr.gain lw
      if gain = g.corr.gain then g else (g.withCorr fun c => { c with gain := gain }).appendGain
  | _, _, _ => g

/-! ### New loudness fields (R87, R88) -/

/-- Steps 1 and 2 of R87. -/
def newGain (e : ProgramEntry) (gain : Int) : Int :=
  let limited := clamp gain (-e.maxCut) e.maxBoost
  match e.mode with
  | .measure => e.preset
  | .track => limited

/-- The loudness fields of a new entry come into force: R87 for a program that processes house samples, R88 for a
STOPPED one, and nothing for a FREE one. That a FREE program keeps its ring of more than W × 10 values too is a DESIGN
CHOICE (R82; log 44). -/
def Program.loudnessFields (e : ProgramEntry) (g : Program) : Program :=
  if g.state = .free then g
  else
    let gain := newGain e g.corr.gain
    let g' := g.withCorr fun c => { c with gain := gain }
    let g'' := if g.state.processing ∧ gain ≠ g.corr.gain then g'.appendGain else g'
    g''.withCorr (·.shorten (e.window * 10))

/-- What Correction does when a program becomes STOPPED (R88); the dip count of REST is log 8. -/
def Correction.atRest (c : Correction) : Correction :=
  { c with schedule := [], ramp := c.ramp.rest, dip := .rest, dipCount := 0, stop := 0 }

/-- What Correction does when a program becomes FREE (R88). -/
def Correction.freed (c : Correction) : Correction := { c.atRest with gain := 0 }

/-! ### The output stage (R93 to R99) -/

/-- Whether mute is in force (R95). -/
def muteInForce (e : ProgramEntry) (v : Votes) : Bool :=
  decide (0 < v.mute) || (decide (0 < v.fallback) && e.fallback.isNone)

/-- What an accepted START sets (R92, Table 5-1); the dip count of REST is log 8, the ramp's start value log 42. -/
def Correction.started (e : ProgramEntry) (v : Votes) (c : Correction) : Correction :=
  { c with
    ring := [], window := none, windowGate := none, gain := e.preset, schedule := [], outputGain := e.preset
    ramp := .restAt e.preset, mute := if muteInForce e v then 0 else Config.rampSamples
    dip := .rest, dipCount := 0, stop := 0 }

/-- The mute count moves one step (R95). -/
def muteStep (inForce : Bool) (q : Nat) : Nat := if inForce then q - 1 else min Config.rampSamples (q + 1)

/-- Each factor moves one house sample on: ramp, mute count, dip count and, in STOPPING, stop count (R94 to R97). -/
def Correction.advanceFactors (inForce stopping : Bool) (c : Correction) : Correction :=
  { c with
    ramp := c.ramp.advance
    mute := muteStep inForce c.mute
    dipCount :=
      match c.dip with
      | .fadeOut | .fadeIn => min Config.dipSamples (c.dipCount + 1)
      | .rest | .down => c.dipCount
    stop := if stopping then min Config.rampSamples (c.stop + 1) else c.stop }

/-- A quotient of R95 to R97 (q/480, count/240, (240 − count)/240, (480 − k)/480) as a 64-bit number: one division, rounded
to nearest with ties to even. Those rules state no rounding, so this is the model's choice (log 34). -/
def ratio (a b : Nat) : F64 := fdiv (a : Nat) (b : Nat)

def Correction.muteFactor (c : Correction) : F64 := ratio c.mute Config.rampSamples

/-- Table 5-2. -/
def Correction.dipFactor (c : Correction) : F64 :=
  match c.dip with
  | .rest => 1
  | .fadeOut => ratio (Config.dipSamples - c.dipCount) Config.dipSamples
  | .down => 0
  | .fadeIn => ratio c.dipCount Config.dipSamples

def Correction.stopFactor (c : Correction) : F64 := ratio (Config.rampSamples - c.stop) Config.rampSamples

/-- The product of R93, formed left to right, rounded to an integer, before saturation. -/
def Correction.product (c : Correction) (x : Sample) : Int :=
  roundHalfAway
    (fmul (fmul (fmul (fmul (x.toInt : Rat) c.ramp.present) c.muteFactor) c.dipFactor) c.stopFactor)

/-- The output samples of one house sample, and the clip event count with one event for each saturated sample (R93,
R99). The factors are those after `advanceFactors`. -/
def Correction.output (c : Correction) (xs : List Sample) : List Sample × Correction :=
  let products := xs.map c.product
  let clipped := (products.filter fun v => decide (saturate24 v ≠ v)).length
  (products.map fun v => toSample (saturate24 v), { c with clips := min Config.sat16 (c.clips + clipped) })

end Sys2Proof.Machine
end

