-- ==== Sys2Proof/Machine/Flags.lean ====
section
/-! DEFINITION. Every sticky flag and event count of the part: what sets it and what a reading does to it. -/

namespace Sys2Proof.Machine

/-! ### The sticky flags of a stream (R21) -/

def Context.flagLate (c : Context) : Context := { c with flags := { c.flags with late := true } }
def Context.flagGap (c : Context) : Context := { c with flags := { c.flags with gap := true } }
def Context.flagResync (c : Context) : Context := { c with flags := { c.flags with resync := true } }
def Context.flagOverrun (c : Context) : Context := { c with flags := { c.flags with overrun := true } }
/-- A format discard sets FORMAT and raises the format event count, which stops at 65535 (R12, R21). -/
def Context.flagFormat (c : Context) : Context :=
  { c with flags := { c.flags with format := true }, formatCount := saturating Config.sat16 (c.formatCount + 1) }
/-- A stalled house sample sets UNDERRUN; the first of a stall raises the underrun event count (R31). -/
def Context.flagUnderrun (c : Context) : Context :=
  { c with
    flags := { c.flags with underrun := true }
    underrunCount := if c.stalled = 0 then saturating Config.sat16 (c.underrunCount + 1) else c.underrunCount }

/-! ### The sticky flags of PART STATUS (R4, R5, R118, R152, R164) -/

def State.flagOrdersDropped (s : State) : State := { s with flags := { s.flags with ordersDropped := true } }
def State.flagPassDropped (s : State) : State := { s with flags := { s.flags with passDropped := true } }
def State.flagUnknownReporter (s : State) : State := { s with flags := { s.flags with unknownReporter := true } }
def State.flagNoticesLost (s : State) : State := { s with flags := { s.flags with noticesLost := true } }
def State.flagReportsDropped (s : State) : State := { s with flags := { s.flags with reportsDropped := true } }

/-! ### The flags of a program (R59, R160) -/

def Program.flagChanged (g : Program) : Program := { g with changed := true }
/-- A displaced media frame sets EGRESS_DROP and the changed flag (R160). -/
def Program.flagDrop (g : Program) : Program :=
  { g with changed := true, egress := { g.egress with drop := true } }

/-- Reading PROGRAM STATUS clears the changed flag and EGRESS_DROP and restarts the peaks of the members of the active
entry (R59, R79, R160). -/
def Program.afterReading (members : Nat) (g : Program) : Program :=
  { g with
    changed := false
    egress := { g.egress with drop := false }
    meter := { g.meter with peaks := g.meter.peaks.mapFinIdx fun m x _ => if m < members then 0 else x } }

/-! ### What a trigger's status shows of changes (R154) -/

def TriggerStatus.flagChanged (t : TriggerStatus) : TriggerStatus := { t with changed := true }

/-- The latched flag, whose clearing sets the changed-since-read flag (R150). -/
def TriggerStatus.acknowledge (t : TriggerStatus) : TriggerStatus :=
  if t.latched then { t with latched := false, changed := true } else t

end Sys2Proof.Machine
end

