-- ==== Sys2Proof/Machine/Operands.lean ====
section
/-! DEFINITION. How values stand in bytes: the fields of frames (chapter 11), the codes of Tables 11-4 and 11-7, and the
configuration entries of Table 11-6, read from an order's contents and written into a reply. -/

namespace Sys2Proof.Machine

/-! ### Bytes, most significant first (chapter 11) -/

def bytesToNat (bs : List Byte) : Nat := bs.foldl (fun n b => n * 256 + b.toNat) 0

/-- The low `n` bytes of `v`, most significant first. -/
def natToBytes : Nat → Nat → List Byte
  | 0, _ => []
  | n + 1, v => natToBytes n (v / 256) ++ [BitVec.ofNat 8 v]

/-- The `len` bytes from `off` on, as a number. -/
def fieldAt (bs : List Byte) (off len : Nat) : Nat := bytesToNat ((bs.drop off).take len)

def wordAt (w : Nat) (bs : List Byte) (off len : Nat) : BitVec w := BitVec.ofNat w (fieldAt bs off len)

/-- A signed 4-byte field (Table 11-5). -/
def signedAt (bs : List Byte) (off : Nat) : Int := (wordAt 32 bs off 4).toInt

/-- Two's complement of `v` in `n` bytes. -/
def intToBytes (n : Nat) (v : Int) : List Byte := natToBytes n (BitVec.ofInt (8 * n) v).toNat

def flagByte (b : Bool) : List Byte := natToBytes 1 (if b then 1 else 0)

/-- A flag field: 0 or 1; any other byte is out of range (R184). -/
def flagAt (bs : List Byte) (off : Nat) : Option Bool :=
  match fieldAt bs off 1 with
  | 0 => some false
  | 1 => some true
  | _ => none

/-- A number field that lies in `lo … hi`; any other value is out of range. -/
def rangeAt (bs : List Byte) (off len lo hi : Nat) : Option Nat :=
  let v := fieldAt bs off len
  if lo ≤ v ∧ v ≤ hi then some v else none

/-- A signed 4-byte field that lies in `lo … hi`. -/
def signedRangeAt (bs : List Byte) (off : Nat) (lo hi : Int) : Option Int :=
  let v := signedAt bs off
  if lo ≤ v ∧ v ≤ hi then some v else none

/-- An index below `n`. -/
def indexAt (n : Nat) (bs : List Byte) (off : Nat) : Option (Fin n) :=
  let v := fieldAt bs off 1
  if h : v < n then some ⟨v, h⟩ else none

/-- An index below `n`, or 255 for none (Table 11-5). -/
def indexOrNoneAt (n : Nat) (bs : List Byte) (off : Nat) : Option (Option (Fin n)) :=
  if fieldAt bs off 1 = 255 then some none else (indexAt n bs off).map some

def indexOrNone {n : Nat} : Option (Fin n) → List Byte
  | none => natToBytes 1 255
  | some i => natToBytes 1 i.val

/-- The value a code names in a table of codes that starts at 0. -/
def codeAt {α : Type} (codes : List α) (bs : List Byte) (off : Nat) : Option α := codes[fieldAt bs off 1]?

/-- The code of a value in a table of codes that starts at 0. -/
def codeByte {α : Type} [DecidableEq α] (codes : List α) (x : α) : List Byte := natToBytes 1 (codes.idxOf x)

/-- A loudness value with its no-value mark: −12000 stands beside the mark (R61, R82). -/
def markedLoudness : Option Int → List Byte
  | some v => natToBytes 1 0 ++ intToBytes 4 v
  | none => natToBytes 1 1 ++ intToBytes 4 Config.loudnessFloor

/-! ### Codes (Tables 11-4 and 11-7) -/

def rateCodes : List Rate := [.r44, .r48, .r88, .r96]
def formatCodes : List SampleFormat := [.s16, .s24]
def filterCodes : List FilterLength := [.normal, .short]
def concealmentCodes : List Concealment := [.zero, .holdFade]
def contextCodes : List ContextState := [.empty, .acquire, .track, .locked, .holdover, .lost]
def roleCodes : List Role := [.front, .surround, .lfe]
def modeCodes : List LoudnessMode := [.measure, .track]
def moveModeCodes : List MoveMode := [.dip, .quiet]
def programCodes : List ProgramState := [.free, .stopped, .filling, .running, .stopping]
def dipCodes : List DipState := [.rest, .fadeOut, .down, .fadeIn]
def moveCodes : List MoveState := [.none, .waiting, .fadingOut, .fadingIn]
def triggerCodes : List TriggerState := [.off, .watching, .pending, .active, .clearing]
def latencyCodes : List LatencyState := [.absent, .fresh, .stale]
def originCodes : List Origin := [.captured, .set]
def presenceCodes : List Presence := [.present, .absent]
def carrierCodes : List Carrier := [.raw, .udp]
def bankCodes : List Bank := [.a, .b]
def noticeCodes : List NoticeKind := [.started, .fired, .cleared, .withdrawn]
def conditionCodes : List Condition :=
  [.streamLost, .streamHoldover, .streamUnlocked, .ratioLimit, .ratioDeviation, .underrun, .format, .silence,
    .overload, .clip, .gainAtLimit, .delayClamp, .audioLate, .lipsyncError, .chainStale, .houseRefAbsent, .poolLow]
def tableCodes : List Table :=
  [.settings, .stream, .program, .egress, .latency, .trigger, .streamStatus, .programStatus, .triggerStatus,
    .partStatus, .pool, .histogram]

/-- The responses byte: NOTICE 1, MUTE 2, FREEZE_GAIN 4, HOLD_INTEGRATION 8, FALLBACK 16 (R184). -/
def responsesByte (r : Responses) : List Byte :=
  natToBytes 1 ((if r.notice then 1 else 0) + (if r.mute then 2 else 0) + (if r.freezeGain then 4 else 0)
    + (if r.holdIntegration then 8 else 0) + (if r.fallback then 16 else 0))

def responsesAt (bs : List Byte) (off : Nat) : Option Responses :=
  (rangeAt bs off 1 0 31).map fun v =>
    ⟨v.testBit 0, v.testBit 1, v.testBit 2, v.testBit 3, v.testBit 4⟩

/-! ### Rates, tap counts and stream latency (R7, R27, R42) -/

/-- ρ0 (Table 2-2). -/
def Rate.nominalStep : Rate → Int
  | .r44 => 3946001203
  | .r48 => 4294967296
  | .r88 => 7892002406
  | .r96 => 8589934592

/-- The source rate in hertz. -/
def Rate.hertz : Rate → Nat
  | .r44 => 44100
  | .r48 => 48000
  | .r88 => 88200
  | .r96 => 96000

/-- N (R7). -/
def StreamEntry.taps (e : StreamEntry) : Nat :=
  match e.rate, e.filter with
  | .r44, .normal | .r48, .normal => 32
  | .r44, .short | .r48, .short => 16
  | .r88, .normal | .r96, .normal => 64
  | .r88, .short | .r96, .short => 32

/-- A_s of an entry: 0 where it is not valid (R42). -/
def StreamEntry.latency (e : StreamEntry) : Nat :=
  if e.valid then ceilDiv ((e.targetFill + e.taps / 2) * 48000) e.rate.hertz else 0

/-- Whether a valid entry covers a lane slot (R32). -/
def StreamEntry.covers (e : StreamEntry) (slot : Nat) : Bool :=
  e.valid && decide (e.first ≤ slot) && decide (slot < e.first + e.lanes)

/-! ### Configuration entries in orders (Table 11-6): none where a byte lies outside its codes or range -/

def readSettings (bs : List Byte) : Option Settings := do
  let unit ← rangeAt bs 0 1 0 254
  let foreignPass ← flagAt bs 11
  let otherPass ← flagAt bs 12
  let latencyPass ← flagAt bs 13
  let learn ← flagAt bs 14
  let staleTimeout ← rangeAt bs 15 1 1 60
  return {
    unit := BitVec.ofNat 8 unit, managementKey := wordAt 16 bs 1 2, partEtherType := wordAt 16 bs 3 2
    ipv4 := wordAt 32 bs 5 4, keyMask := wordAt 16 bs 9 2
    foreignPass, otherPass, latencyPass, learn, staleTimeout
    noticeMac := wordAt 48 bs 16 6, noticeKey := wordAt 16 bs 22 2
    reportMac := wordAt 48 bs 24 6, reportKey := wordAt 16 bs 30 2 }

/-- Table 1-3, but for the tests against other entries (R8). -/
def readStream (bs : List Byte) : Option StreamEntry := do
  let valid ← flagAt bs 0
  let rate ← codeAt rateCodes bs 3
  let lanes ← rangeAt bs 4 1 1 16
  let first ← rangeAt bs 5 1 0 127
  let format ← codeAt formatCodes bs 6
  let targetFill ← rangeAt bs 7 2 64 1536
  let filter ← codeAt filterCodes bs 9
  let concealment ← codeAt concealmentCodes bs 10
  let gapTimeout ← rangeAt bs 11 2 5 500
  let holdoverLimit ← rangeAt bs 13 1 1 100
  let gp ← rangeAt bs 14 1 0 64
  let gi ← rangeAt bs 15 1 0 16
  return {
    valid, key := wordAt 16 bs 1 2, rate, lanes, first, format, targetFill, filter, concealment, gapTimeout
    holdoverLimit, gp, gi }

/-- The first `n` members of the eight places at offset 2. -/
def membersAt (bs : List Byte) (n : Nat) : Option (List Member) :=
  (List.range n).mapM fun m => do
    let slot ← indexAt 128 bs (2 + 2 * m)
    let role ← codeAt roleCodes bs (3 + 2 * m)
    return ⟨slot, role⟩

/-- Tables 3-1 and 11-6 and the tests of R44. A fallback list takes the members' count of its places (R184). -/
def readProgram (bs : List Byte) : Option ProgramEntry := do
  let valid ← flagAt bs 0
  let count ← rangeAt bs 1 1 1 8
  let members ← membersAt bs count
  let fallbackPresent ← flagAt bs 18
  let fallback ←
    if fallbackPresent then ((List.range count).mapM fun m => indexAt 128 bs (19 + m)).map some else some none
  let mode ← codeAt modeCodes bs 27
  let target ← signedRangeAt bs 28 (-3600) (-1000)
  let maxBoost ← signedRangeAt bs 32 0 1200
  let maxCut ← signedRangeAt bs 36 0 2400
  let slew ← rangeAt bs 40 1 1 100
  let freezeThreshold ← signedRangeAt bs 41 (-7000) (-2000)
  let window ← rangeAt bs 45 1 3 120
  let preset ← signedRangeAt bs 46 (-maxCut) maxBoost
  let quietThreshold ← signedRangeAt bs 50 (-7000) (-1000)
  let chainLength ← rangeAt bs 54 1 0 4
  let chain ← (List.range chainLength).mapM fun k => indexAt 64 bs (55 + k)
  let offset ← signedRangeAt bs 59 (-100000) 1000000
  let trim ← signedRangeAt bs 63 (-4800) 4800
  let tolerance ← rangeAt bs 67 2 0 4800
  let moveMode ← codeAt moveModeCodes bs 69
  let quietWait ← rangeAt bs 70 2 1 600
  if chain.Nodup then
    return {
      valid, members, fallback, mode, target, maxBoost, maxCut, slew, freezeThreshold, window, preset
      quietThreshold, chain, offset, trim, tolerance, moveMode, quietWait }
  else none

/-- Table 9-1 and the range tests of R157. -/
def readEgress (bs : List Byte) : Option EgressEntry := do
  let carrier ← codeAt carrierCodes bs 0
  let packetSize := fieldAt bs 15 1
  if packetSize ∈ [6, 12, 24, 48] then
    return {
      carrier, mac := wordAt 48 bs 1 6, ipv4 := wordAt 32 bs 7 4, port := wordAt 16 bs 11 2
      key := wordAt 16 bs 13 2, packetSize, reporter := wordAt 32 bs 16 4 }
  else none

/-- What a write to a Latency Table entry gives (R120). -/
structure LatencyWrite where
  valid : Bool
  reporter : BitVec 32
  latency : Option Nat
  lock : Bool
  ignore : Bool
  deriving DecidableEq, Repr

/-- The fields of a LATENCY write (R120, R184). Beside a no-value mark of 1 the 4 bytes of the number are ignored, which is
the model's choice (log 36). -/
def readLatency (bs : List Byte) : Option LatencyWrite := do
  let valid ← flagAt bs 0
  let noValue ← flagAt bs 5
  let latency ← if noValue then some none else (rangeAt bs 6 4 0 Config.latencyLimit).map some
  let lock ← flagAt bs 10
  let ignore ← flagAt bs 11
  return { valid, reporter := wordAt 32 bs 1 4, latency, lock, ignore }

/-- The objects a condition kind may name: streams, programs, or the part's one object 0 (Table 8-2). -/
def Condition.objects : Condition → Nat
  | .streamLost | .streamHoldover | .streamUnlocked | .ratioLimit | .ratioDeviation | .underrun | .format => 32
  | .silence | .overload | .clip | .gainAtLimit | .delayClamp | .audioLate | .lipsyncError | .chainStale => 16
  | .houseRefAbsent | .poolLow => 1

/-- Table 8-1 and the field ranges of R137; the tests against the stored table are made in Alarm.lean. A level-1 entry
is stored without arming trigger and arm window (R136). -/
def readTrigger (bs : List Byte) : Option TriggerEntry := do
  let enable ← flagAt bs 0
  let level ← rangeAt bs 1 1 1 2
  let arming ← indexOrNoneAt 48 bs 2
  let armWindow ← rangeAt bs 3 2 0 600
  let condition ← codeAt conditionCodes bs 5
  let object ← rangeAt bs 6 1 0 (condition.objects - 1)
  let fireCount ← rangeAt bs 11 2 1 600
  let clearCount ← rangeAt bs 13 2 1 600
  let latch ← flagAt bs 15
  let responses ← responsesAt bs 16
  let target ← indexOrNoneAt 16 bs 17
  let level2 := decide (level = 2)
  return {
    enable, level2, arming := if level2 then arming else none, armWindow := if level2 then armWindow else 0
    condition, object, parameter := signedAt bs 7, fireCount, clearCount, latch, responses, target }

/-! ### Configuration entries in replies (Table 11-6) -/

def settingsBytes (s : State) : List Byte :=
  let c := s.settings
  natToBytes 1 c.unit.toNat ++ natToBytes 2 c.managementKey.toNat ++ natToBytes 2 c.partEtherType.toNat
    ++ natToBytes 4 c.ipv4.toNat ++ natToBytes 2 c.keyMask.toNat ++ flagByte c.foreignPass ++ flagByte c.otherPass
    ++ flagByte c.latencyPass ++ flagByte c.learn ++ natToBytes 1 c.staleTimeout ++ natToBytes 6 c.noticeMac.toNat
    ++ natToBytes 2 c.noticeKey.toNat ++ natToBytes 6 c.reportMac.toNat ++ natToBytes 2 c.reportKey.toNat
    ++ natToBytes 1 s.straps.toNat ++ codeByte bankCodes s.activeBank ++ flagByte s.swapPending
    ++ natToBytes 6 s.house.count.toNat

def streamBytes (e : StreamEntry) : List Byte :=
  flagByte e.valid ++ natToBytes 2 e.key.toNat ++ codeByte rateCodes e.rate ++ natToBytes 1 e.lanes
    ++ natToBytes 1 e.first ++ codeByte formatCodes e.format ++ natToBytes 2 e.targetFill
    ++ codeByte filterCodes e.filter ++ codeByte concealmentCodes e.concealment ++ natToBytes 2 e.gapTimeout
    ++ natToBytes 1 e.holdoverLimit ++ natToBytes 1 e.gp ++ natToBytes 1 e.gi ++ natToBytes 2 e.latency

/-- A list in its greatest number of places, the places beyond its count being 0 (R184). -/
def inPlaces (width : Nat) (bs : List Byte) : List Byte := bs ++ List.replicate (width - bs.length) 0

def programBytes (e : ProgramEntry) : List Byte :=
  flagByte e.valid ++ natToBytes 1 e.members.length
    ++ inPlaces 16 (e.members.flatMap fun m => natToBytes 1 m.slot.val ++ codeByte roleCodes m.role)
    ++ flagByte e.fallback.isSome ++ inPlaces 8 ((e.fallback.getD []).flatMap fun l => natToBytes 1 l.val)
    ++ codeByte modeCodes e.mode ++ intToBytes 4 e.target ++ intToBytes 4 e.maxBoost ++ intToBytes 4 e.maxCut
    ++ natToBytes 1 e.slew ++ intToBytes 4 e.freezeThreshold ++ natToBytes 1 e.window ++ intToBytes 4 e.preset
    ++ intToBytes 4 e.quietThreshold ++ natToBytes 1 e.chain.length
    ++ inPlaces 4 (e.chain.flatMap fun i => natToBytes 1 i.val) ++ intToBytes 4 e.offset ++ intToBytes 4 e.trim
    ++ natToBytes 2 e.tolerance ++ codeByte moveModeCodes e.moveMode ++ natToBytes 2 e.quietWait

def egressBytes (e : EgressEntry) : List Byte :=
  codeByte carrierCodes e.carrier ++ natToBytes 6 e.mac.toNat ++ natToBytes 4 e.ipv4.toNat
    ++ natToBytes 2 e.port.toNat ++ natToBytes 2 e.key.toNat ++ natToBytes 1 e.packetSize
    ++ natToBytes 4 e.reporter.toNat

/-- A latency in microseconds with its mark; `free` stands beside the mark (log 18). -/
def markedMicros (free : BitVec 32) : Option Nat → List Byte
  | some v => natToBytes 1 0 ++ natToBytes 4 v
  | none => natToBytes 1 1 ++ natToBytes 4 free.toNat

/-- A count that reads as 4,294,967,295 once past it (Table 11-5, age). -/
def wideCount (n : Nat) : List Byte := natToBytes 4 (min n Config.sat32)

def latencyBytes (free : BitVec 32) (e : LatencyEntry) : List Byte :=
  flagByte e.valid ++ natToBytes 4 e.reporter.toNat ++ markedMicros free e.latency ++ flagByte e.lock
    ++ flagByte e.ignore ++ codeByte originCodes e.origin ++ codeByte latencyCodes e.state ++ wideCount e.age
    ++ flagByte e.changed

def triggerBytes (e : TriggerEntry) : List Byte :=
  flagByte e.enable ++ natToBytes 1 (if e.level2 then 2 else 1) ++ indexOrNone e.arming ++ natToBytes 2 e.armWindow
    ++ codeByte conditionCodes e.condition ++ natToBytes 1 e.object ++ intToBytes 4 e.parameter
    ++ natToBytes 2 e.fireCount ++ natToBytes 2 e.clearCount ++ flagByte e.latch ++ responsesByte e.responses
    ++ indexOrNone e.target

end Sys2Proof.Machine
end

