-- ==== Sys2Proof/Machine/LipSync.lean ====
section
/-! DEFINITION. Lip-Sync Alignment (chapter 7): target and actual delay, the moves, the fallback switch that changes what
the target is computed from, and the Latency Table's reports and ageing. -/

namespace Sys2Proof.Machine

/-! ### The target delay (R122 to R124) -/

/-- What a chain index contributes, in microseconds (R122). -/
def LatencyEntry.contribution (e : LatencyEntry) : Nat :=
  if e.valid && !e.ignore then e.latency.getD 0 else 0

/-- V in microseconds (R122). -/
def State.videoMicros (s : State) (e : ProgramEntry) : Int :=
  clamp ((e.chain.map fun i => (s.latencies[i].contribution : Int)).sum + e.offset) 0 Config.videoLimit

/-- V in house samples (R122). -/
def videoSamples (micros : Int) : Int := Int.fdiv (micros * 48 + 500) 1000

/-- The greatest A_s of the streams that cover a slot; at most one valid stream does (R8, R123). -/
def State.slotLatency (s : State) (slot : Fin 128) : Nat :=
  (s.streams.toList.map fun t => if t.entry.covers slot then t.entry.latency else 0).foldl max 0

/-- A (R123). -/
def State.audioLatency (s : State) (p : Fin 16) : Nat :=
  ((effectiveSlots (s.activeEntry p) s.programs[p].fallbackInUse).map s.slotLatency).foldl max 0
    + Config.processingLatency + s.egressTable[p].packetSize

/-- V in microseconds, V, A, U, D_target and the two flags of one program, as its inputs now stand (R122 to R124). A FREE
program has 0 and false throughout. -/
def State.alignment (s : State) (p : Fin 16) (l : LipSync) : LipSync :=
  if s.programs[p].state = .free then
    { l with
      videoMicros := 0, video := 0, audio := 0, unclamped := 0, target := 0
      audioLate := false, delayClamp := false }
  else
    let e := s.activeEntry p
    let micros := s.videoMicros e
    let video := videoSamples micros
    let audio := s.audioLatency p
    let u := video - audio + e.trim
    let limit := s.programs[p].delay.limit
    { l with
      videoMicros := micros, video := video, audio := audio, unclamped := u
      target := (clamp u 0 limit).toNat, audioLate := decide (u < 0), delayClamp := decide ((limit : Int) < u) }

/-! ### Moving the actual delay (R126 to R132) -/

/-- D_actual takes a value, and the read index, the read place and the gain schedule follow it (R109, R126, R129, R91). -/
def Program.jumpTo (d : Nat) (g : Program) : Program :=
  ({ g with
    lip := { g.lip with actual := d }
    readIndex := (g.content.toNat : Int) - d
    delay := { g.delay with readPlace := g.delay.placeBehind d } }).takeUpGain

/-- A fade-out is requested; the output stage takes it in dip state REST (R96, R128). That the start and the length of a wait
it ends keep their values is DESIGN CHOICE, unsafe (log 46). -/
def Program.requestFadeOut (g : Program) : Program :=
  { g with
    lip := { g.lip with move := .fadingOut, pendingMove := false }
    corr := if g.corr.dip = .rest then { g.corr with dip := .fadeOut, dipCount := 0 } else g.corr }

/-- A move starts under the move mode of the entry (R127, R130): a fade-out at once, or a wait (R131). -/
def Program.startMove (now : BitVec 48) (e : ProgramEntry) (g : Program) : Program :=
  match e.moveMode with
  | .dip => g.requestFadeOut
  | .quiet =>
    g.withLip fun l =>
      { l with move := .waiting, pendingMove := false, waitStart := now, waitLength := Config.houseRate * e.quietWait }

/-- |D_target − D_actual| beyond the tolerance (R127). -/
def Program.beyond (e : ProgramEntry) (g : Program) : Bool :=
  decide (e.tolerance < ((g.lip.target : Int) - g.lip.actual).natAbs)

/-- A computation in RUNNING is judged by the move state (R127). `moved` says that D_target has changed: a computation
that gives the same D_target starts nothing (R125; log 20). That a cancelled wait leaves its start and length as they are is
DESIGN CHOICE, unsafe (log 46). -/
def Program.judge (now : BitVec 48) (e : ProgramEntry) (moved : Bool) (g : Program) : Program :=
  match g.lip.move with
  | .none => if moved && g.beyond e then g.startMove now e else g
  | .waiting => if g.beyond e then g else g.withLip fun l => { l with move := .none }
  | .fadingOut => g
  | .fadingIn =>
    if g.beyond e then if moved then g.withLip fun l => { l with pendingMove := true } else g
    else g.withLip fun l => { l with pendingMove := false }

/-- The new D_target is handed to the rule that moves D_actual in the program's state (R125, R126, R127). -/
def Program.follow (now : BitVec 48) (e : ProgramEntry) (moved : Bool) (g : Program) : Program :=
  match g.state with
  | .free => g.withLip fun l => { l with actual := 0 }
  | .stopped => g.withLip fun l => { l with actual := l.target }
  | .filling | .stopping => if moved then g.jumpTo g.lip.target else g
  | .running => g.judge now e moved

/-- Lip-Sync Alignment computes a program again and acts on it (R125). A change of AUDIO_LATE or DELAY_CLAMP sets the
changed flag (R135). -/
def State.recompute (p : Fin 16) (s : State) : State :=
  let g := s.programs[p]
  let l := s.alignment p g.lip
  let flagged := l.audioLate != g.lip.audioLate || l.delayClamp != g.lip.delayClamp
  let g' := { g with lip := l, changed := g.changed || flagged }
  s.modifyProgram p fun _ => g'.follow s.house.count (s.activeEntry p) (decide (l.target ≠ g.lip.target))

/-- Every program is computed again. -/
def State.recomputeAll (s : State) : State := forEach 16 State.recompute s

/-- The programs whose active entry's chain names a Latency Table entry are computed again (R117, R118, R120). -/
def State.recomputeNaming (i : Fin 64) (s : State) : State :=
  forEach 16 (fun p t => if i ∈ (t.activeEntry p).chain then t.recompute p else t) s

/-- The end of a fade-out: the state passes through DOWN and the jump is made in the same act (R96, R129). -/
def Program.fadeOutEnd (g : Program) : Program :=
  if g.corr.dip = .fadeOut ∧ Config.dipSamples ≤ g.corr.dipCount then
    let down := g.withCorr fun c => { c with dip := .down }
    let jumped := down.jumpTo down.lip.target
    { jumped with
      corr := { jumped.corr with dip := .fadeIn, dipCount := 0 }
      lip := { jumped.lip with move := .fadingIn, pendingMove := false } }
  else g

/-- The end of a fade-in: the move is complete, or the pending one starts (R96, R130). The dip count of
REST is log 8. -/
def Program.fadeInEnd (now : BitVec 48) (e : ProgramEntry) (g : Program) : Program :=
  if g.corr.dip = .fadeIn ∧ Config.dipSamples ≤ g.corr.dipCount then
    let rested := g.withCorr fun c => { c with dip := .rest, dipCount := 0 }
    if rested.lip.pendingMove then rested.startMove now e
    else rested.withLip fun l => { l with move := .none }
  else g

/-- The quiet wait has run out (R131); what its start and length then hold is log 46. -/
def Program.quietWaitExpiry (now : BitVec 48) (g : Program) : Program :=
  if g.state = .running ∧ g.lip.move = .waiting ∧ g.lip.waitLength ≤ since now g.lip.waitStart then
    g.requestFadeOut
  else g

/-- A meter update ends the wait of a quiet program (R131); what its start and length then hold is log 46. -/
def Program.quietMove (g : Program) : Program :=
  if g.lip.move = .waiting ∧ g.meter.quiet then g.requestFadeOut else g

/-- A move ends with a STOP: the wait and the pending mark are dropped, and D_actual takes D_target (R132). The start
and length of the wait keep their values: DESIGN CHOICE, unsafe (log 46). -/
def Program.endMoveAtStop (g : Program) : Program :=
  (g.withLip fun l =>
    { l with move := if l.move = .waiting then .none else l.move, pendingMove := false }).jumpTo g.lip.target

/-- A move ends when the program becomes STOPPED or FREE (R132), and at a START (section 7.4). The start and length of a wait
keep their values: DESIGN CHOICE, unsafe (log 46). -/
def LipSync.noMove (l : LipSync) : LipSync := { l with move := .none, pendingMove := false }

/-! ### Fallback (R54, R56, R64) -/

/-- The condition of R54. -/
def State.wantsFallback (s : State) (p : Fin 16) : Bool :=
  decide (0 < s.programs[p].votes.fallback) && (s.activeEntry p).fallback.isSome

/-- The filter states of the members whose effective slot differs are zeroed (R58, R64). DESIGN CHOICE, unsafe (log 39): so
are those of a member place that one of the two lists only has. That an entry that is not valid zeroes them too is log 41. -/
def Meter.zeroChanged (old new : List (Fin 128)) (m : Meter) : Meter :=
  { m with
    filters := .ofFn fun k => if old[k.val]? = new[k.val]? then m.filters[k] else .zero }

/-- Program Control tests the fallback condition; a change switches the effective lanes, sets the changed flag, zeroes
the filter states of the changed members and has the target computed again (R56, R58, R64). -/
def State.syncFallback (p : Fin 16) (s : State) : State :=
  let want := s.wantsFallback p
  if want = s.programs[p].fallbackInUse then s
  else
    let e := s.activeEntry p
    (s.modifyProgram p fun g =>
      { g with
        fallbackInUse := want
        changed := true
        meter := g.meter.zeroChanged (effectiveSlots e g.fallbackInUse) (effectiveSlots e want) }).recompute p

/-! ### Reports from the link (R117, R118) -/

/-- What a report does to the entry it matches (R117). -/
def LatencyEntry.report (micros : Nat) (e : LatencyEntry) : LatencyEntry :=
  let value := min micros Config.latencyLimit
  if e.lock then
    match e.latency with
    | some _ => { e with state := .fresh, age := 0 }
    | none => { e with age := 0 }
  else
    { e with
      latency := some value, origin := .captured, state := .fresh, age := 0
      changed := e.changed || decide (e.latency ≠ some value) }

/-- The contents a learned entry takes (R118). -/
def LatencyEntry.learned (reporter : BitVec 32) (micros : Nat) : LatencyEntry where
  valid := true
  reporter := reporter
  latency := some (min micros Config.latencyLimit)
  origin := .captured
  lock := false
  ignore := false
  state := .fresh
  age := 0
  changed := true

/-- A latency report, matched against the valid entries, or learned, or ignored with UNKNOWN_REPORTER (R117, R118). -/
def State.latencyReport (reporter : BitVec 32) (micros : Nat) (s : State) : State :=
  match (List.finRange 64).find? fun i => s.latencies[i].valid && decide (s.latencies[i].reporter = reporter) with
  | some i =>
    let t := s.modifyLatency i (·.report micros)
    if t.latencies[i].latency = s.latencies[i].latency then t else t.recomputeNaming i
  | none =>
    match (List.finRange 64).find? fun i => !s.latencies[i].valid with
    | some i =>
      if s.settings.learn then
        (s.modifyLatency i fun _ => .learned reporter micros).recomputeNaming i
      else s.flagUnknownReporter
    | none => s.flagUnknownReporter

/-! ### Ageing (R119) -/

/-- The age of a valid entry rises by 1 at each house sample (R116, R119). -/
def LatencyEntry.older (e : LatencyEntry) : LatencyEntry := if e.valid then { e with age := e.age + 1 } else e

/-- A FRESH entry whose age has reached the stale timeout becomes STALE (R119). -/
def LatencyEntry.expire (timeout : Nat) (e : LatencyEntry) : LatencyEntry :=
  if e.state = .fresh ∧ timeout * Config.houseRate ≤ e.age then { e with state := .stale } else e

/-! ### Writes (R120) -/

/-- The entry after an accepted write (R120; log 24 for the age). -/
def LatencyEntry.written (w : LatencyWrite) (e : LatencyEntry) : LatencyEntry :=
  let value := if w.valid then w.latency else none
  { valid := w.valid, reporter := w.reporter, latency := value, origin := .set, lock := w.lock, ignore := w.ignore
    state := if value.isSome then .fresh else .absent
    age := if w.valid && value.isNone then e.age else 0
    changed := e.changed || decide (value ≠ e.latency) }

/-- Whether a write conflicts with another valid entry's reporter id (R120). -/
def State.latencyConflict (s : State) (i : Fin 64) (w : LatencyWrite) : Bool :=
  w.valid && (List.finRange 64).any fun j =>
    decide (j ≠ i) && s.latencies[j].valid && decide (s.latencies[j].reporter = w.reporter)

/-- An accepted write to a Latency Table entry; the programs whose chain names it are computed again where its
contribution changed (R120). -/
def State.writeLatency (i : Fin 64) (w : LatencyWrite) (s : State) : State :=
  let t := s.modifyLatency i (·.written w)
  if t.latencies[i].contribution = s.latencies[i].contribution then t else t.recomputeNaming i

/-! ### The part's own report (R133, R164) -/

/-- L_out in microseconds (R133). -/
def outgoingMicros (audio : Int) (actual : Nat) : Nat := (Int.fdiv ((audio + actual) * 1000 + 24) 48).toNat

/-- The position of the newest queued report of a program. -/
def newestReport (p : Fin 16) (q : List LatencyReport) : Option Nat :=
  ((List.range q.length).filter fun k => (q[k]?).any fun r => decide (r.program = p)).getLast?

/-- A report is offered to the latency report queue (R164). -/
def State.offerReport (r : LatencyReport) (s : State) : State :=
  if s.reportQueue.length < Config.reportPlaces then { s with reportQueue := s.reportQueue ++ [r] }
  else
    match newestReport r.program s.reportQueue with
    | some k => { s with reportQueue := s.reportQueue.set k r }
    | none => s.flagReportsDropped

/-- At a meter update: a report is handed to Egress if the value differs from the last one or the send flag is set
(R133). -/
def State.reportLatency (p : Fin 16) (s : State) : State :=
  let l := s.programs[p].lip
  let micros := outgoingMicros l.audio l.actual
  if l.lastReported = some micros ∧ l.sendFlag = false then s
  else
    (s.modifyProgram p fun g =>
      { g with lip := { g.lip with lastReported := some micros, sendFlag := false }, changed := true }).offerReport
      ⟨p, s.egressTable[p].reporter, micros⟩

end Sys2Proof.Machine
end

