-- ==== Sys2Proof/Machine/Alarm.lean ====
section
/-! DEFINITION. The Alarm Unit (chapter 8): condition kinds, the evaluation, trigger steps, votes, notices and trigger
writes. -/

namespace Sys2Proof.Machine

/-! ### Conditions (Table 8-2, R139 to R141) -/

def contextCode : ContextState → Int
  | .empty => 0
  | .acquire => 1
  | .track => 2
  | .locked => 3
  | .holdover => 4
  | .lost => 5

/-- Whether a chain index is counted stale (R135, R140). -/
def LatencyEntry.countsStale (e : LatencyEntry) : Bool :=
  !e.ignore && (!e.valid || decide (e.state = .stale) || decide (e.state = .absent))

/-- The number of chain indices counted stale (R140). -/
def State.staleCount (s : State) (p : Fin 16) : Nat :=
  ((s.activeEntry p).chain.filter fun i => s.latencies[i].countsStale).length

/-- The at-limit mark (R100). -/
def atLimit (e : ProgramEntry) (gain : Int) : Bool :=
  decide (e.mode = .track) && (decide (gain = -e.maxCut) || decide (gain = e.maxBoost))

/-- The truth and the measured value of a stream kind (R139). -/
def streamCondition (c : Context) (kind : Condition) (parameter : Int) : Bool × Int :=
  let r : Bool × Int :=
    match kind with
    | .streamLost => (decide (c.state = .lost), contextCode c.state)
    | .streamHoldover => (decide (c.state = .holdover), contextCode c.state)
    | .streamUnlocked => (decide (c.state = .track) || decide (c.state = .holdover), contextCode c.state)
    | .ratioLimit => (decide ((c.correction.natAbs : Int) = Config.loopBound), c.correction)
    | .ratioDeviation => (decide (parameter ≤ c.correction.natAbs), c.correction)
    | .underrun => (decide (1 ≤ c.underrunCount), c.underrunCount)
    | .format => (decide (1 ≤ c.formatCount), c.formatCount)
    | _ => (false, 0)
  (r.1 && decide (c.state ≠ .empty), r.2)

/-- The truth and the measured value of a program kind (R140). -/
def State.programCondition (s : State) (p : Fin 16) (kind : Condition) (parameter : Int) : Bool × Int :=
  let g := s.programs[p]
  let error : Int := (g.lip.unclamped - g.lip.actual).natAbs
  let r : Bool × Int :=
    match kind with
    | .silence => (g.meter.momentary.any fun m => decide (m < parameter), g.meter.momentary.getD Config.loudnessFloor)
    | .overload => (g.meter.shortTerm.any fun m => decide (parameter < m), g.meter.shortTerm.getD Config.loudnessFloor)
    | .clip => (decide (max parameter 1 ≤ g.corr.clips), g.corr.clips)
    | .gainAtLimit => (atLimit (s.activeEntry p) g.corr.gain, g.corr.gain)
    | .delayClamp => (g.lip.delayClamp, g.lip.unclamped)
    | .audioLate => (g.lip.audioLate, g.lip.unclamped)
    | .lipsyncError => (decide (parameter < error), error)
    | .chainStale => (decide (1 ≤ s.staleCount p), s.staleCount p)
    | _ => (false, 0)
  (r.1 && g.state.fed, r.2)

/-- The truth and the measured value of an entry's condition, read from the state before the evaluation changes it
(R139 to R143). -/
def State.condition (s : State) (e : TriggerEntry) : Bool × Int :=
  match e.condition with
  | .houseRefAbsent =>
    (decide (s.house.reference = .absent), if s.house.reference = .absent then 1 else 0)
  | .poolLow => (decide ((s.freeList.length : Int) < e.parameter), s.freeList.length)
  | .streamLost | .streamHoldover | .streamUnlocked | .ratioLimit | .ratioDeviation | .underrun | .format =>
    streamCondition s.streams[Fin.ofNat 32 e.object].ctx e.condition e.parameter
  | .silence | .overload | .clip | .gainAtLimit | .delayClamp | .audioLate | .lipsyncError | .chainStale =>
    s.programCondition (Fin.ofNat 16 e.object) e.condition e.parameter

/-! ### Votes (R148, R149) -/

/-- ACTIVE and CLEARING: the states in which a trigger holds its votes. -/
def TriggerState.holds : TriggerState → Bool
  | .active | .clearing => true
  | .off | .watching | .pending => false

/-- Whether a trigger votes on a program with a response (R148). -/
def Trigger.votesFor (p : Fin 16) (response : Responses → Bool) (t : Trigger) : Bool :=
  t.status.state.holds && decide (t.entry.target = some p) && response t.entry.responses

def State.countVotes (s : State) (p : Fin 16) (response : Responses → Bool) : Nat :=
  s.triggers.toList.countP (Trigger.votesFor p response)

/-- The four counts of a program, which R148 says equal the numbers of its triggers (log 23). -/
def State.votesOf (s : State) (p : Fin 16) : Votes :=
  ⟨s.countVotes p (·.mute), s.countVotes p (·.freezeGain), s.countVotes p (·.holdIntegration),
    s.countVotes p (·.fallback)⟩

/-- The vote counts take their new values and are handed to the blocks that act on them; Program Control switches
fallback in the same act (R56, R148, R149). -/
def State.applyVotes (s : State) : State :=
  forEach 16 (fun p t => (t.modifyProgram p fun g => { g with votes := s.votesOf p }).syncFallback p) s

/-! ### Notices (R151, R152) -/

/-- A notice offered to the notice queue (R152). -/
def State.offerNotice (n : Notice) (s : State) : State :=
  if s.notices.length < Config.noticePlaces then { s with notices := s.notices ++ [n] }
  else { s.flagNoticesLost with lostCount := saturating Config.sat16 (s.lostCount + 1) }

/-- A notice of a trigger, with the fields of `e` (Table 8-5). -/
def State.triggerNotice (s : State) (kind : NoticeKind) (i : Fin 48) (e : TriggerEntry) (measured : Int) : Notice where
  kind := kind
  trigger := some i
  level := if e.level2 then 2 else 1
  condition := e.condition
  object := e.object
  target := e.target
  measured := measured
  responses := e.responses
  stamp := stampOf s.house.count

/-! ### A trigger's step (R145, R147) -/

/-- The state and count of Table 8-3, for the row "true" or "false" of WATCHING and PENDING and the bare condition of
ACTIVE and CLEARING (R145). -/
def stepState (e : TriggerEntry) (truth armed : Bool) (st : TriggerState) (count : Nat) : TriggerState × Nat :=
  let rises := truth && (armed || !e.level2)
  match st with
  | .off => (.off, 0)
  | .watching => if rises then if e.fireCount ≤ 1 then (.active, 0) else (.pending, 1) else (.watching, 0)
  | .pending =>
    if rises then if e.fireCount ≤ count + 1 then (.active, 0) else (.pending, count + 1) else (.watching, 0)
  | .active => if truth then (.active, 0) else if e.clearCount ≤ 1 then (.watching, 0) else (.clearing, 1)
  | .clearing =>
    if truth then (.active, 0) else if e.clearCount ≤ count + 1 then (.watching, 0) else (.clearing, count + 1)

/-- Whether a step goes ACTIVE from a state without votes (R147). -/
def goesActive (before after : TriggerState) : Bool := !before.holds && after.holds

/-- Whether a step leaves ACTIVE or CLEARING (R147). -/
def leaves (before after : TriggerState) : Bool := before.holds && !after.holds

/-- One step of a trigger whose condition and measured value are `read` (R145, R147). A trigger that is OFF takes none
(R144). -/
def Trigger.step (read : Bool × Int) (t : Trigger) : Trigger :=
  if t.status.state = .off then t
  else
    let next := stepState t.entry read.1 t.status.armed t.status.state t.status.count
    let latch := leaves t.status.state next.1 && t.entry.latch
    { t with
      status := { t.status with
        state := next.1
        count := next.2
        lastCondition := read.1
        lastMeasured := read.2
        latched := t.status.latched || latch
        fireTotal :=
          if goesActive t.status.state next.1 then saturating Config.sat16 (t.status.fireTotal + 1)
          else t.status.fireTotal
        changed := t.status.changed || decide (next.1 ≠ t.status.state) || (latch && !t.status.latched) } }

/-! ### Arming (R146) -/

/-- Whether the arming trigger is ACTIVE or CLEARING, at whatever level it now stands (R146). -/
def State.armingHolds (s : State) (e : TriggerEntry) : Bool :=
  match e.arming with
  | some a => s.triggers[a].status.state.holds
  | none => false

/-- Whether the arming trigger is a level-1 trigger (R146). -/
def State.armingIsLevel1 (s : State) (e : TriggerEntry) : Bool :=
  match e.arming with
  | some a => !s.triggers[a].entry.level2
  | none => false

/-- Part 2 of the evaluation for one trigger: the armed finding, which needs an arming trigger of level 1, and the window,
which the arming trigger sets at either level, or else counted down (R146). -/
def State.arm (s : State) (t : Trigger) : Trigger :=
  if t.entry.level2 then
    let holds := s.armingHolds t.entry
    let armed := s.armingIsLevel1 t.entry && (holds || decide (0 < t.status.windowRemaining))
    { t with
      status := { t.status with
        armed := armed
        windowRemaining := if holds then t.entry.armWindow else t.status.windowRemaining - 1
        changed := t.status.changed || decide (t.status.armed ≠ armed) } }
  else { t with status := { t.status with armed := false } }

/-! ### The evaluation (R142 to R144) -/

/-- Every event count is set to 0 in the act of reading it (R142). -/
def State.zeroEventCounts (s : State) : State :=
  { s with
    streams := s.streams.map fun t => { t with ctx := { t.ctx with formatCount := 0, underrunCount := 0 } }
    programs := s.programs.map fun g => g.withCorr fun c => { c with clips := 0 } }

/-- Parts 1 to 3 of R144 on the triggers, judged on the sources read from `s`. -/
def State.stepTriggers (s : State) : State :=
  let level1 := { s with
    triggers := s.triggers.map fun (t : Trigger) => if t.entry.level2 then t else t.step (s.condition t.entry) }
  let armed := { s with triggers := level1.triggers.map level1.arm }
  { s with
    triggers := armed.triggers.map fun (t : Trigger) => if t.entry.level2 then t.step (s.condition t.entry) else t }

/-- The notice a step of trigger `i` made, from its status before and after (R147). -/
def State.stepNotice (s : State) (before after : Trigger) (i : Fin 48) : Option Notice :=
  if after.entry.responses.notice then
    if goesActive before.status.state after.status.state then
      some (s.triggerNotice .fired i after.entry after.status.lastMeasured)
    else if leaves before.status.state after.status.state then
      some (s.triggerNotice .cleared i after.entry after.status.lastMeasured)
    else none
  else none

/-- The notices of one evaluation, in increasing order of trigger index (R144). -/
def State.offerStepNotices (before : Vector Trigger 48) (s : State) : State :=
  (List.finRange 48).foldl
    (fun t i => match t.stepNotice before[i] t.triggers[i] i with
      | some n => t.offerNotice n
      | none => t) s

/-- The evaluation, when it is due (R143, R144). -/
def State.evaluate (s : State) : State :=
  if s.evaluationDue then
    (({ s with triggers := s.stepTriggers.triggers, evaluationDue := false }).zeroEventCounts.applyVotes).offerStepNotices
      s.triggers
  else s

/-- ALARM_EVALUATION (R143). -/
def execAlarmEvaluation (s : State) : Answer State := .next s.evaluate

/-! ### Writes and ACKNOWLEDGE (R137, R138, R150) -/

/-- The tests of R137 that look beyond the entry's own fields. -/
def State.triggerRefused (s : State) (i : Fin 48) (e : TriggerEntry) : Bool :=
  (e.level2 && match e.arming with
    | none => true
    | some a => decide (a = i) || s.triggers[a].entry.level2)
  || ((e.responses.mute || e.responses.freezeGain || e.responses.holdIntegration || e.responses.fallback)
    && e.target.isNone)

/-- The status of a trigger after a write (R138, step 3). -/
def TriggerStatus.restarted (enable : Bool) : TriggerStatus :=
  { TriggerStatus.reset with state := if enable then .watching else .off, changed := true }

/-- Step 4 of R138: a dependent of the written trigger loses its arming (log 25). -/
def Trigger.disarm (written : Fin 48) (t : Trigger) : Trigger :=
  if t.entry.level2 ∧ t.entry.arming = some written then
    { t with status := { t.status with windowRemaining := 0 } }
  else t

/-- An accepted write to a Trigger Table entry (R138). -/
def State.writeTrigger (i : Fin 48) (e : TriggerEntry) (s : State) : State :=
  let old := s.triggers[i]
  let noted :=
    if old.status.state.holds && old.entry.responses.notice then
      s.offerNotice (s.triggerNotice .withdrawn i old.entry old.status.lastMeasured)
    else s
  let stored := { noted with
    triggers := (noted.triggers.set i ⟨e, .restarted e.enable⟩).map (Trigger.disarm i) }
  stored.applyVotes

/-- ACKNOWLEDGE of one trigger, or of all (R150). -/
def State.acknowledge (which : Option (Fin 48)) (s : State) : State :=
  match which with
  | some i => s.modifyTrigger i fun t => { t with status := t.status.acknowledge }
  | none => { s with triggers := s.triggers.map fun t => { t with status := t.status.acknowledge } }

end Sys2Proof.Machine
end

