-- ==== Sys2Proof/Machine/Egress.lean ====
section
/-! DEFINITION. Egress (chapter 9): building frames, replies and their places, packets, the arbiter and the link. -/

namespace Sys2Proof.Machine

/-! ### Building frames (R159, R163 to R166, R180 to R182) -/

/-- Kind codes of the part header (Table 11-1). -/
def kindMedia : Nat := 1
def kindOrder : Nat := 2
def kindReply : Nat := 3
def kindLatency : Nat := 4
def kindNotice : Nat := 5

/-- The source address of every frame the part builds: 02:00:00:00:00 and the unit number (R166). -/
def sourceMac (c : Settings) : List Byte := [0x02#8, 0#8, 0#8, 0#8, 0#8, c.unit]

/-- Zero bytes up to 60 (R159, R165). -/
def padded (bs : List Byte) : List Byte := bs ++ List.replicate (60 - bs.length) 0

/-- The part header and its content (Table 11-1). -/
def withHeader (kind : Nat) (key : BitVec 16) (content : List Byte) : List Byte :=
  [1#8, BitVec.ofNat 8 kind] ++ natToBytes 2 key.toNat ++ content

def rawFrame (c : Settings) (destination : BitVec 48) (payload : List Byte) : List Byte :=
  padded (natToBytes 6 destination.toNat ++ sourceMac c ++ natToBytes 2 c.partEtherType.toNat ++ payload)

/-- The ones' complement sum of a header's 16-bit words, each carry added back at the lowest bit (R181). -/
def headerSum : List Byte → Nat
  | a :: b :: rest =>
    let n := a.toNat * 256 + b.toNat + headerSum rest
    n % 65536 + n / 65536
  | [a] => a.toNat * 256
  | [] => 0

/-- The IPv4 header of R181 with `checksum` in its checksum field. -/
def ipv4Header (source destination : BitVec 32) (payloadLength checksum : Nat) : List Byte :=
  [0x45#8, 0#8] ++ natToBytes 2 (28 + payloadLength) ++ [0#8, 0#8, 0x40#8, 0#8, 64#8, 17#8]
    ++ natToBytes 2 checksum ++ natToBytes 4 source.toNat ++ natToBytes 4 destination.toNat

def udpFrame (c : Settings) (mac : BitVec 48) (ip : BitVec 32) (sourcePort destinationPort : BitVec 16)
    (payload : List Byte) : List Byte :=
  let checksum := 65535 - headerSum (ipv4Header c.ipv4 ip payload.length 0)
  padded (natToBytes 6 mac.toNat ++ sourceMac c ++ [0x08#8, 0x00#8]
    ++ ipv4Header c.ipv4 ip payload.length checksum
    ++ natToBytes 2 sourcePort.toNat ++ natToBytes 2 destinationPort.toNat ++ natToBytes 2 (8 + payload.length) ++ [0#8, 0#8]
    ++ payload)

/-- A sample in the upper 24 bits of its 32-bit container (R159, R182). -/
def containerBytes (x : Sample) : List Byte := natToBytes 3 x.toNat ++ [0#8]

/-- The content of a media packet (R158, R159, Table 11-2). -/
def mediaContent (sequence : BitVec 16) (members packetSize : Nat) (stamp : BitVec 32) (samples : List (List Sample)) :
    List Byte :=
  natToBytes 2 sequence.toNat ++ [1#8] ++ natToBytes 1 members ++ [2#8] ++ natToBytes 1 packetSize
    ++ natToBytes 4 stamp.toNat ++ samples.flatten.flatMap containerBytes

/-- The media frame of a program, in the carrier of its Egress Table entry (R159). -/
def mediaFrame (c : Settings) (e : EgressEntry) (members : Nat) (x : ProgramEgress) : List Byte :=
  let payload := withHeader kindMedia e.key (mediaContent x.sequence members e.packetSize x.stamp x.progress)
  match e.carrier with
  | .raw => rawFrame c e.mac payload
  | .udp => udpFrame c e.mac e.ipv4 e.port e.port payload

/-- A latency report frame, built at its choice (R164, R165). It carries the reporter id that the report recorded, also
where the Egress Table entry has been rewritten since: DEDUCED, unsafe (log 40). -/
def reportFrame (c : Settings) (r : LatencyReport) : List Byte :=
  rawFrame c c.reportMac
    (withHeader kindLatency c.reportKey
      (natToBytes 1 c.unit.toNat ++ natToBytes 4 r.reporter.toNat ++ natToBytes 4 r.micros))

/-- A notice frame, built at its choice with the lost count of that instant (R151, R165, R182). -/
def noticeFrame (c : Settings) (lost : Nat) (n : Notice) : List Byte :=
  rawFrame c c.noticeMac
    (withHeader kindNotice c.noticeKey
      (natToBytes 1 c.unit.toNat ++ codeByte noticeCodes n.kind ++ indexOrNone n.trigger ++ natToBytes 1 n.level
        ++ codeByte conditionCodes n.condition ++ natToBytes 1 n.object ++ indexOrNone n.target ++ natToBytes 2 lost
        ++ intToBytes 4 n.measured ++ natToBytes 4 n.stamp.toNat ++ responsesByte n.responses))

/-! ### Replies (R163, R168, R170, R177) -/

/-- Statuses (Table 10-1), with the codes of Table 11-4. -/
inductive Status where
  | done | illegal | range | sequence | state | busy | noSpace
  deriving DecidableEq, Repr

def statusCodes : List Status := [.done, .illegal, .range, .sequence, .state, .busy, .noSpace]

/-- A reply frame, built as it is placed (R163, R170): `held` orders stand in the queue once the answered one has left. -/
def replyFrame (c : Settings) (o : Order) (table : Byte) (status : Status) (held : Nat) (data : List Byte) : List Byte :=
  let payload := withHeader kindReply c.managementKey
    (natToBytes 1 c.unit.toNat ++ [o.tag, o.kind] ++ codeByte statusCodes status
      ++ natToBytes 1 (Config.orderPlaces - held) ++ [table] ++ natToBytes 2 data.length ++ data)
  match o.path.carrier with
  | .raw => rawFrame c o.path.sourceMac payload
  | .udp => udpFrame c o.path.sourceMac o.path.sourceIp o.path.destinationPort o.path.sourcePort payload

/-- The number of orders in progress, each of which has a reply place reserved (R163). -/
def State.inProgress (s : State) : Nat := (s.orders.filter (·.inProgress)).length

/-- Whether a place of the reply queue is free: neither reserved nor filled (R163). -/
def State.replyPlaceFree (s : State) : Bool := decide (s.replyQueue.length + s.inProgress < Config.replyPlaces)

/-- Takes the answered order out of the queue and places its reply (R168, R170). `orders` is the queue without it. -/
def State.answer (o : Order) (orders : List Order) (table : Byte) (status : Status) (data : List Byte)
    (resetsPart : Bool) (s : State) : State :=
  { s with
    orders := orders
    replyQueue :=
      s.replyQueue ++ [⟨replyFrame s.settings o table status orders.length data, resetsPart⟩] }

/-- The work of a deferred order has ended: its DONE reply is placed and the order leaves the queue (R177). Once a RESET
PART has been taken the reply is not placed and the order stays (R179). -/
def State.completeDeferred (mine : Order → Bool) (s : State) : State :=
  if s.resetPhase = .none then
    match s.orders.find? fun o => o.inProgress && mine o with
    | some o => s.answer o (s.orders.eraseP fun o => o.inProgress && mine o) o.table .done [] false
    | none => s
  else s

/-- Order kinds (Table 11-4). -/
def kindSwap : Byte := 6#8
def kindStop : Byte := 8#8

def State.completeSwap (s : State) : State := s.completeDeferred fun o => decide (o.kind = kindSwap)

def State.completeStop (p : Fin 16) (s : State) : State :=
  s.completeDeferred fun o => decide (o.kind = kindStop) && decide (o.index = p.val)

/-! ### Media packets (R51, R158, R160) -/

/-- The output samples of one house sample join the packet in progress (R158). The stamp is the count of the house
sample whose samples stand first; while the packet is empty it keeps its last value, a DESIGN CHOICE (log 46). -/
def ProgramEgress.gather (count : BitVec 48) (samples : List Sample) (x : ProgramEgress) : ProgramEgress :=
  { x with
    progress := x.progress ++ [samples]
    stamp := if x.progress = [] then stampOf count else x.stamp }

/-- Whether the content index has brought a packet of the program to its end (R158). -/
def State.packetEnds (s : State) (p : Fin 16) : Bool :=
  decide (s.programs[p].egress.progress ≠ [])
    && decide (s.programs[p].content.toNat % s.egressTable[p].packetSize = 0)

/-- A built frame is placed in the packet queue; a full queue loses its oldest frame (R160). -/
def Program.queueMedia (frame : List Byte) (g : Program) : Program :=
  if g.egress.queue.length < Config.packetPlaces then
    g.withEgress fun x => { x with queue := x.queue ++ [frame] }
  else (g.withEgress fun x => { x with queue := x.queue.drop 1 ++ [frame] }).flagDrop

/-- A program becomes STOPPED at the end of STOPPING (R51, R88, R132). -/
def Program.endStopping (g : Program) : Program :=
  { (g.enter .stopped) with corr := g.corr.atRest, lip := { g.lip.noMove with actual := g.lip.target } }

/-- The packet of a program completes (R158); in STOPPING, the one that holds the 480th ramp sample ends STOPPING
(R51). -/
def State.packetComplete (p : Fin 16) (s : State) : State :=
  if s.packetEnds p then
    let frame := mediaFrame s.settings s.egressTable[p] (s.activeEntry p).members.length s.programs[p].egress
    let built := s.modifyProgram p fun g =>
      (g.queueMedia frame).withEgress fun x => { x with progress := [], sequence := x.sequence + 1 }
    if s.programs[p].state = .stopping ∧ Config.rampSamples ≤ s.programs[p].corr.stop then
      (built.modifyProgram p (·.endStopping)).completeStop p
    else built
  else s

/-! ### The arbiter and the link (R161, R162) -/

/-- The programs in the order in which a media choice looks at them (R162). -/
def programsAfter (last : Fin 16) : List (Fin 16) := (List.finRange 16).map fun k => last + 1 + k

/-- The classes in the order in which a choice looks at them (R162). -/
def EgressClass.after : EgressClass → List EgressClass
  | .replies => [.reports, .notices, .passThrough, .replies]
  | .reports => [.notices, .passThrough, .replies, .reports]
  | .notices => [.passThrough, .replies, .reports, .notices]
  | .passThrough => [.replies, .reports, .notices, .passThrough]

/-- The head of a class's queue as the frame it is sent as, and the state without it (R162, R164, R165). A notice takes
the lost count, which becomes 0 (R152). -/
def State.takeHead (s : State) : EgressClass → Option (Sending × State)
  | .replies =>
    match s.replyQueue with
    | r :: rest => some (⟨r.bytes, r.resetsPart⟩, { s with replyQueue := rest })
    | [] => none
  | .reports =>
    match s.reportQueue with
    | r :: rest => some (⟨reportFrame s.settings r, false⟩, { s with reportQueue := rest })
    | [] => none
  | .notices =>
    match s.notices with
    | n :: rest => some (⟨noticeFrame s.settings s.lostCount n, false⟩, { s with notices := rest, lostCount := 0 })
    | [] => none
  | .passThrough =>
    match s.passQueue with
    | f :: rest => some (⟨f, false⟩, { s with passQueue := rest })
    | [] => none

/-- The media frame a choice takes (R162). -/
def State.chooseMedia (s : State) : Option State :=
  match (programsAfter s.lastProgram).find? fun p => decide (s.programs[p].egress.queue ≠ []) with
  | some p =>
    some { s.modifyProgram p fun g => g.withEgress fun x => { x with queue := x.queue.drop 1 } with
      lastProgram := p
      sending := some ⟨s.programs[p].egress.queue.headD [], false⟩ }
  | none => none

/-- The other frame a choice takes (R162). -/
def State.chooseOther (s : State) : Option State :=
  s.lastClass.after.findSome? fun c =>
    (s.takeHead c).map fun r => { r.2 with lastClass := c, sending := some r.1 }

/-- The arbiter's choice: with the link idle, ready held and a frame queued, media first (R161, R162). Nothing is chosen
between the end of a RESET PART's reply and its reset (R166). -/
def State.egressChoice (s : State) : State :=
  if s.sending = none ∧ s.ready = true ∧ s.resetPhase ≠ .due then
    match s.chooseMedia with
    | some t => t
    | none => s.chooseOther.getD s
  else s

/-- The last byte of the frame in sending is taken, and the link becomes idle (R161). The end of a RESET PART's reply
makes the reset due (R166). -/
def State.frameEnd (s : State) : State :=
  match s.sending with
  | some f =>
    if s.ready then
      { s with sending := none, resetPhase := if f.resetsPart then .due else s.resetPhase }
    else s
  | none => s

/-- PACKET_COMPLETE (R158). -/
def execPacketComplete (program : Nat) (s : State) : Answer State := .next (atIndex 16 program State.packetComplete s)

/-- EGRESS_CHOICE (R162). -/
def execEgressChoice (s : State) : Answer State := .next s.egressChoice

/-- READY_WITHDRAWN: the frame in sending pauses (R161). -/
def execReadyWithdrawn (s : State) : Answer State := .next { s with ready := false }

/-- READY_RETURN: a paused frame resumes (R161). -/
def execReadyReturn (s : State) : Answer State := .next { s with ready := true }

/-- EGRESS_FRAME_END (R161). -/
def execEgressFrameEnd (s : State) : Answer State := .next s.frameEnd

end Sys2Proof.Machine
end

