-- ==== Sys2Proof/Machine/Streams.lean ====
section
/-! DEFINITION. Stream Intake and the Rate Converter: the elastic buffers, media packets (sections 1.4 to 1.7), the
conversion of a house sample and the ratio loop (sections 2.2 to 2.6). -/

namespace Sys2Proof.Machine

/-! ### The elastic buffer (R10, R11) -/

/-- floor(pos), counted modulo 2³² (R27). -/
def Context.position (c : Context) : BitVec 32 := (c.pos >>> 32).setWidth 32

/-- The fraction of pos, in units of 2⁻³². -/
def Context.fraction (c : Context) : Nat := c.pos.toNat % 4294967296

/-- The fill of R10. -/
def Context.fill (c : Context) : Nat :=
  match c.state with
  | .empty => 0
  | .acquire => c.writeIndex.toNat
  | .track | .locked | .holdover | .lost => (c.writeIndex - c.position).toNat

/-- The watermarks follow a change of fill (R11). -/
def Context.noteFill (c : Context) : Context :=
  { c with maxFill := max c.maxFill c.fill, minFill := min c.minFill c.fill }

/-- Frames below floor(pos) − 32 are released: the newest fill + 32 stay (R10). -/
def Context.release (c : Context) : Context :=
  { c with buffer := c.buffer.drop (c.buffer.length - (c.fill + Config.historyFrames)) }

/-- Frames join the buffer under the next write indices (R10). -/
def Context.append (frames : List (List Sample)) (c : Context) : Context :=
  if frames = [] then c
  else
    ({ c with buffer := c.buffer ++ frames, writeIndex := c.writeIndex + BitVec.ofNat 32 frames.length }).noteFill

/-- The measurement window is emptied (R33). -/
def Context.emptyWindow (c : Context) : Context := { c with windowSum := 0, windowCount := 0 }

/-- The buffer is flushed and the context left in `st` with fill 0 (R9, R16, R20). After a resync and a return from LOST pos
and the step keep their last values until the next entry into TRACK, which no rule says: DESIGN CHOICE, unsafe (log 46). -/
def Context.flushTo (st : ContextState) (c : Context) : Context :=
  (({ c with state := st, buffer := [], writeIndex := 0, lockCount := 0 }).emptyWindow.noteFill)

/-! ### The step and the entry into TRACK (R27, R40) -/

/-- The step of R27. -/
def stepOf (rate : Rate) (correction : Int) : Int :=
  rate.nominalStep + Int.fdiv (rate.nominalStep * correction) 16777216

/-- What every entry into TRACK resets: the window (R33), the lock count (R38, R40), and what concealment fades from (R31;
log 15). -/
def Context.enterTrack (c : Context) : Context :=
  { c.emptyWindow with state := .track, lockCount := 0, produced := [], stalled := 0 }

/-- The exit from ACQUIRE once the fill has reached T + N/2 (R19, R40). -/
def Context.acquireExit (e : StreamEntry) (c : Context) : Context :=
  if c.state = .acquire ∧ e.targetFill + e.taps / 2 ≤ c.fill then
    (({ c.enterTrack with
      pos := (c.writeIndex - BitVec.ofNat 32 e.targetFill).setWidth 64 <<< 32
      step := stepOf e.rate c.correction }).release).noteFill
  else c

/-! ### A context reset (R9) -/

/-- An accepted write, RESET STREAM and CLEAR ENTRY reset the context (R9, R27). The step stays until the next entry into
TRACK: DEDUCED, unsafe (log 38). The acceptance time, the last produced samples and the stall count stay too: DESIGN CHOICE,
unsafe (log 46). -/
def Context.restart (valid : Bool) (c : Context) : Context :=
  { (c.flushTo (if valid then .acquire else .empty)) with
    expected := none, last := none, pos := 0, integrator := 0, correction := 0, lastError := 0 }

/-! ### Media packets (R12 to R20) -/

/-- A media packet's fields and its bytes from the first sample on (Table 11-2). -/
structure MediaPacket where
  sequence : BitVec 16
  rate : Nat
  lanes : Nat
  format : Nat
  frames : Nat
  samples : List Byte
  deriving DecidableEq, Repr

/-- The fields after the part header; none where the frame is shorter than its fixed fields (R180). -/
def readMedia (content : List Byte) : Option MediaPacket :=
  if 10 ≤ content.length then
    some ⟨wordAt 16 content 0 2, fieldAt content 2 1, fieldAt content 3 1, fieldAt content 4 1, fieldAt content 5 1,
      content.drop 10⟩
  else none

/-- Bytes of one sample (R12). -/
def SampleFormat.bytes : SampleFormat → Nat
  | .s16 => 2
  | .s24 => 3

/-- The 24-bit value of a sample; a 16-bit one is multiplied by 256 (R10). -/
def SampleFormat.value (f : SampleFormat) (bs : List Byte) : Sample :=
  match f with
  | .s16 => BitVec.ofNat 24 (bytesToNat bs * 256)
  | .s24 => BitVec.ofNat 24 (bytesToNat bs)

/-- The format test of R12. -/
def MediaPacket.formatOk (e : StreamEntry) (m : MediaPacket) : Bool :=
  decide (rateCodes[m.rate]? = some e.rate) && decide (m.lanes = e.lanes)
    && decide (formatCodes[m.format]? = some e.format) && decide (1 ≤ m.frames)
    && decide (m.frames ≤ Config.packetFrames)
    && decide (m.frames * e.lanes * e.format.bytes ≤ m.samples.length)

/-- The packet's frames, each with one sample per lane (R10, R182). -/
def MediaPacket.decoded (e : StreamEntry) (m : MediaPacket) : List (List Sample) :=
  (List.range m.frames).map fun k =>
    (List.range e.lanes).map fun j =>
      e.format.value ((m.samples.drop ((k * e.lanes + j) * e.format.bytes)).take e.format.bytes)

/-- What every accepted packet does after its frames are written: s, the last packet, the acceptance time, and then the
exit from ACQUIRE or the return from HOLDOVER (R13, R19, R38). -/
def Context.accept (e : StreamEntry) (now : BitVec 48) (m : MediaPacket) (c : Context) : Context :=
  let frames := m.decoded e
  let taken := { c with
    expected := some (m.sequence + 1), last := some ⟨m.frames, frames.getLastD []⟩, acceptTime := now }
  match taken.state with
  | .holdover => taken.enterTrack
  | _ => taken.acquireExit e

/-- The d × n_last concealment frames of R14, no more than leave room for the packet. -/
def Context.concealment (e : StreamEntry) (missing room : Nat) (c : Context) : List (List Sample) :=
  let last := c.last.getD ⟨0, []⟩
  let frame := match e.concealment with
    | .zero => List.replicate e.lanes 0
    | .holdFade => last.lastFrame
  List.replicate (min (missing * last.frames) room) frame

/-- A packet at distance 0 to 32 (R14, R15; log 33). -/
def Context.inOrder (e : StreamEntry) (now : BitVec 48) (m : MediaPacket) (missing : Nat) (c : Context) : Context :=
  let seen := if missing = 0 then c else c.flagGap
  if c.fill + m.frames ≤ Config.usableFill then
    ((seen.append (c.concealment e missing (Config.usableFill - c.fill - m.frames))).append (m.decoded e)).accept e now m
  else { seen.flagOverrun with expected := some (m.sequence + 1) }

/-- A packet that has passed the format test (R13, Table 1-4). -/
def Context.sequenced (e : StreamEntry) (now : BitVec 48) (m : MediaPacket) (c : Context) : Context :=
  let first (c : Context) : Context := (c.append (m.decoded e)).accept e now m
  match c.state, c.expected with
  | .lost, _ => first (c.flushTo .acquire)
  | _, none => first c
  | _, some s =>
    let d := (m.sequence - s).toNat
    if d ≤ Config.gapPackets then c.inOrder e now m d
    else if d < 32768 then first (c.flushTo .acquire).flagResync
    else c.flagLate

/-- A MEDIA frame of a stream, handled whole; `content` is what follows the part header (R12 to R20). -/
def Stream.media (now : BitVec 48) (content : List Byte) (t : Stream) : Stream :=
  match readMedia content with
  | none => { t with ctx := t.ctx.flagFormat }
  | some m => { t with ctx := if m.formatOk t.entry then t.ctx.sequenced t.entry now m else t.ctx.flagFormat }

/-! ### Conversion (R28 to R31) -/

/-- TRACK, LOCKED and HOLDOVER: the states in which a context converts (section 2.3). -/
def ContextState.converting : ContextState → Bool
  | .track | .locked | .holdover => true
  | .empty | .acquire | .lost => false

/-- TRACK and LOCKED: the states in which the loop works (section 2.5). -/
def ContextState.looping : ContextState → Bool
  | .track | .locked => true
  | .empty | .acquire | .holdover | .lost => false

/-- Lane `j` of the frame that lies `back` frames before the write index (log 28). -/
def Context.laneAt (c : Context) (j back : Nat) : Int :=
  if back ≤ c.buffer.length then (((c.buffer.getD (c.buffer.length - back) []).getD j 0).toInt) else 0

/-- The `n` frames of lane `j` with write indices i − N/2 + 1 to i + N/2, in that order (R28). -/
def Context.laneFrames (c : Context) (n j : Nat) : List Int :=
  (List.range n).map fun k => c.laneAt j (c.fill + n / 2 - 1 - k)

/-- A sum of products in the order of the frames. -/
def weightedSum (coefficients frames : List Int) : Int := (List.zipWith (· * ·) coefficients frames).sum

/-- ((1024 − f) × A + f × B) ÷ 2³³, rounded half up and saturated (R28). -/
def interpolate (f : Nat) (a b : Int) : Int :=
  saturate24 (Int.fdiv ((1024 - (f : Int)) * a + f * b + 4294967296) 8589934592)

/-- The sample of one lane from its N frames, at the weight `f` between two coefficient sets (R28). -/
def convertLane (setA setB : List Int) (f : Nat) (frames : List Int) : Sample :=
  toSample (interpolate f (weightedSum setA frames) (weightedSum setB frames))

/-- One sample for each lane (R28). -/
def Context.convert (e : StreamEntry) (c : Context) : List Sample :=
  let n := e.taps
  let p := c.fraction / 67108864
  let f := c.fraction / 65536 % 1024
  let setA := romSet n p
  let setB := romSet n (p + 1)
  (List.range e.lanes).map fun j => convertLane setA setB f (c.laneFrames n j)

/-- Whether the filter's frames are all present: the newest lies at or beyond i + N/2 (R30). -/
def Context.hasFrames (e : StreamEntry) (c : Context) : Bool := decide (e.taps / 2 < c.fill)

/-- The fill joins the measurement window in TRACK and LOCKED (R33). -/
def Context.measure (c : Context) : Context :=
  if c.state.looping then { c with windowSum := c.windowSum + c.fill, windowCount := c.windowCount + 1 } else c

/-- pos advances by the step, and the frames it has passed are released (R29). -/
def Context.advance (c : Context) : Context :=
  (({ c with pos := c.pos + BitVec.ofInt 64 c.step }).release).noteFill

/-- The concealment of the k-th consecutive stalled house sample (R31). -/
def Context.concealed (e : StreamEntry) (k : Nat) (c : Context) : List Sample :=
  (List.range e.lanes).map fun j =>
    match e.concealment with
    | .zero => 0
    | .holdFade =>
      if k < Config.rampSamples then
        toSample (roundHalfUp (mkRat ((c.produced.getD j 0).toInt * (Config.rampSamples - k : Nat)) Config.rampSamples))
      else 0

/-- One house sample of a context: its lanes' samples and what it becomes (R28 to R31, R33). -/
def Stream.houseSample (t : Stream) : List Sample × Stream :=
  let c := t.ctx
  if c.state.converting then
    if c.hasFrames t.entry then
      let out := c.convert t.entry
      (out, { t with ctx := ({ c.advance with produced := out, stalled := 0 }).measure })
    else
      let k := min Config.rampSamples (c.stalled + 1)
      (c.concealed t.entry k, { t with ctx := ({ c.flagUnderrun with stalled := k }).measure })
  else ([], t)

/-- The samples of one stream are placed in its lane slots (R32). -/
def placeLanes (slots : Vector Sample 128) (first : Nat) (xs : List Sample) : Vector Sample 128 :=
  .ofFn fun k => if first ≤ k.val ∧ k.val < first + xs.length then xs.getD (k.val - first) 0 else slots[k]

/-- The Rate Converter's house sample: every stream converts, and every slot carries what its stream gives it, or 0
(R32). -/
def State.convertAll (s : State) : State :=
  { s with
    slots := s.streams.toList.foldl
      (fun v t => if t.entry.valid then placeLanes v t.entry.first t.houseSample.1 else v) (.replicate 128 0)
    streams := s.streams.map fun t => t.houseSample.2 }

/-! ### The ratio loop (R34, R35) -/

/-- The lock test of R35 with the error just formed. -/
def Context.lockTest (c : Context) : Context :=
  let near := decide (c.lastError.natAbs ≤ Config.lockWindow)
  let count := if near then c.lockCount + 1 else 0
  match c.state with
  | .track => { c with lockCount := count, state := if Config.lockUpdates ≤ count then .locked else .track }
  | .locked =>
    if Config.unlockWindow < c.lastError.natAbs then { c with state := .track, lockCount := 0 }
    else { c with lockCount := count }
  | _ => c

/-- The error of a window: the mean fill less T, clamped (R34, steps 1 and 2). -/
def loopError (targetFill sum : Nat) : Int :=
  clamp ((sum / Config.windowSamples : Nat) - (targetFill : Int)) (-Config.errorBound) Config.errorBound

/-- The loop update of R34, once the window holds 480 house samples (R33). -/
def Context.loopUpdate (e : StreamEntry) (c : Context) : Context :=
  if c.state.looping ∧ Config.windowSamples ≤ c.windowCount then
    let err := loopError e.targetFill c.windowSum
    let integrator := clamp (c.integrator + err * e.gi) (-Config.loopBound) Config.loopBound
    let correction := clamp (err * e.gp + integrator) (-Config.loopBound) Config.loopBound
    ({ c with
      lastError := err, integrator := integrator, correction := correction
      step := stepOf e.rate correction }).lockTest.emptyWindow
  else c

/-! ### HOLDOVER and LOST (R36, R39) -/

/-- No packet has been accepted for the gap timeout (R36). -/
def Context.gapTimeout (e : StreamEntry) (now : BitVec 48) (c : Context) : Context :=
  if c.state.looping ∧ e.gapTimeout * Config.houseMs ≤ since now c.acceptTime then
    { c.emptyWindow with state := .holdover, lockCount := 0, holdoverStart := now }
  else c

/-- HOLDOVER has lasted its limit, and the start of holdover is not kept in LOST (R39). That it then holds 0, and keeps its
value wherever else HOLDOVER is left, is a DESIGN CHOICE (log 43), and that LOST keeps the step, the last produced samples
and the stall count another (log 46). -/
def Context.holdoverLimit (e : StreamEntry) (now : BitVec 48) (c : Context) : Context :=
  if c.state = .holdover ∧ e.holdoverLimit * Config.subBlock ≤ since now c.holdoverStart then
    { c with state := .lost, holdoverStart := 0 }
  else c

def State.loopUpdate (i : Fin 32) (s : State) : State :=
  s.modifyContext i (·.loopUpdate s.streams[i].entry)

def State.gapTimeout (i : Fin 32) (s : State) : State :=
  s.modifyContext i (·.gapTimeout s.streams[i].entry s.house.count)

def State.holdoverLimit (i : Fin 32) (s : State) : State :=
  s.modifyContext i (·.holdoverLimit s.streams[i].entry s.house.count)

/-- LOOP_UPDATE (R34). -/
def execLoopUpdate (stream : Nat) (s : State) : Answer State := .next (atIndex 32 stream State.loopUpdate s)

/-- GAP_TIMEOUT (R36). -/
def execGapTimeout (stream : Nat) (s : State) : Answer State := .next (atIndex 32 stream State.gapTimeout s)

/-- HOLDOVER_LIMIT (R39). -/
def execHoldoverLimit (stream : Nat) (s : State) : Answer State := .next (atIndex 32 stream State.holdoverLimit s)

end Sys2Proof.Machine
end

