-- ==== Sys2Proof/Machine/Ingress.lean ====
section
/-! DEFINITION. The Frame Classifier (sections 1.1 and 1.2): carriers, classes and what each class does. -/

namespace Sys2Proof.Machine

/-! ### Carriers (R1, R180, R181) -/

/-- The part header of a frame: its version, kind and key, the bytes after it, and how an answer would go back. -/
structure PartHeader where
  version : Nat
  kind : Nat
  key : BitVec 16
  content : List Byte
  path : ReplyPath
  deriving DecidableEq, Repr

/-- The header that starts at byte `off`; none where the frame is too short to hold it whole (R1). -/
def headerAt (frame : List Byte) (off : Nat) (path : ReplyPath) : Option PartHeader :=
  if off + 4 ≤ frame.length then
    some ⟨fieldAt frame off 1, fieldAt frame (off + 1) 1, wordAt 16 frame (off + 2) 2, frame.drop (off + 4), path⟩
  else none

/-- Bytes of the IPv4 header of a frame, from its stated length (R181). -/
def ipHeaderLength (frame : List Byte) : Nat := fieldAt frame 14 1 % 16 * 4

/-- Whether an IPv4 destination is the part's own address, which 0.0.0.0 never is, or a multicast one (R1). -/
def destinationTaken (own : BitVec 32) (dest : Nat) : Bool :=
  (decide (own ≠ 0) && decide (dest = own.toNat)) || (decide (0xE0000000 ≤ dest) && decide (dest ≤ 0xEFFFFFFF))

/-- The UDP carrier test of R1, on a frame long enough for a fixed IPv4 header. -/
def udpTest (own : BitVec 32) (frame : List Byte) : Bool :=
  decide (34 ≤ frame.length) && decide (fieldAt frame 12 2 = 0x0800) && decide (fieldAt frame 14 1 / 16 = 4)
    && decide (20 ≤ ipHeaderLength frame) && decide (fieldAt frame 23 1 = 17)
    && decide (fieldAt frame 20 2 / 0x2000 % 2 = 0) && decide (fieldAt frame 20 2 % 0x2000 = 0)
    && destinationTaken own (fieldAt frame 30 4)

/-- The carrier tests of R1: the part header, or none for a frame that fails them or is too short. -/
def partHeader (c : Settings) (frame : List Byte) : Option PartHeader :=
  let mac := wordAt 48 frame 6 6
  if frame.length < 14 then none
  else if wordAt 16 frame 12 2 = c.partEtherType then headerAt frame 14 ⟨.raw, mac, 0, 0, 0⟩
  else if udpTest c.ipv4 frame then
    let udp := 14 + ipHeaderLength frame
    headerAt frame (udp + 8) ⟨.udp, mac, wordAt 32 frame 26 4, wordAt 16 frame udp 2, wordAt 16 frame (udp + 2) 2⟩
  else none

/-! ### Classes (R2 to R4) -/

/-- The valid Stream Table entry that holds a stream key; at most one does (R3, R8). -/
def State.streamOf (s : State) (key : BitVec 16) : Option (Fin 32) :=
  (List.finRange 32).find? fun i => s.streams[i].entry.valid && decide (s.streams[i].entry.key = key)

/-- The classes of Table 1-1, and an order frame too short for the order header (R4). -/
inductive FrameClass where
  | order (o : Order) (broadcast : Bool)
  | shortOrder
  | orderElsewhere
  | latency (reporter : BitVec 32) (micros : Nat)
  | media (stream : Fin 32) (content : List Byte)
  | foreign
  | other
  deriving DecidableEq, Repr

/-- The order a frame carries (Table 11-3); its contents run to the frame's end (log 27). -/
def readOrder (h : PartHeader) : Order where
  path := h.path
  tag := wordAt 8 h.content 1 1
  kind := wordAt 8 h.content 2 1
  table := wordAt 8 h.content 3 1
  bank := wordAt 8 h.content 4 1
  index := fieldAt h.content 5 2
  contents := h.content.drop 7
  inProgress := false

/-- The tests of an order frame, in the order of R4. -/
def classifyOrder (c : Settings) (h : PartHeader) : FrameClass :=
  let unit := wordAt 8 h.content 0 1
  if h.content.length < 7 then .shortOrder
  else if unit = c.unit then if h.key = c.managementKey then .order (readOrder h) false else .other
  else if unit = 255 then if h.key = c.managementKey then .order (readOrder h) true else .orderElsewhere
  else .orderElsewhere

/-- The class of a frame (R1 to R4). -/
def State.classify (s : State) (frame : List Byte) : FrameClass :=
  match partHeader s.settings frame with
  | none => .other
  | some h =>
    if h.version ≠ 1 then .other
    else
      match h.kind with
      | 1 =>
        match s.streamOf (h.key &&& s.settings.keyMask) with
        | some i => .media i h.content
        | none => .foreign
      | 2 => classifyOrder s.settings h
      | 4 => if 9 ≤ h.content.length then .latency (wordAt 32 h.content 1 4) (fieldAt h.content 5 4) else .other
      | _ => .other

/-! ### What each class does (R3 to R5) -/

/-- A frame offered to the pass-through queue (R5). -/
def State.offerPass (frame : List Byte) (s : State) : State :=
  if s.passQueue.length < Config.passPlaces then { s with passQueue := s.passQueue ++ [frame] } else s.flagPassDropped

/-- An order offered to the order queue (R4, R168). -/
def State.offerOrder (o : Order) (s : State) : State :=
  if s.orders.length < Config.orderPlaces then { s with orders := s.orders ++ [o] } else s.flagOrdersDropped

/-- A frame of a class whose passing a switch decides (R3). -/
def State.passIf (switch : Bool) (frame : List Byte) (s : State) : State := if switch then s.offerPass frame else s

/-- The action of Table 1-1. -/
def State.receive (frame : List Byte) (s : State) : State :=
  match s.classify frame with
  | .order o broadcast => (s.offerOrder o).passIf broadcast frame
  | .shortOrder => s.flagOrdersDropped
  | .orderElsewhere => s.offerPass frame
  | .latency reporter micros => (s.latencyReport reporter micros).passIf s.settings.latencyPass frame
  | .media i content => s.modifyStream i (·.media s.house.count content)
  | .foreign => s.passIf s.settings.foreignPass frame
  | .other => s.passIf s.settings.otherPass frame

/-- INGRESS_FRAME (R1). -/
def execIngressFrame (frame : List Byte) (s : State) : Answer State := .next (s.receive frame)

end Sys2Proof.Machine
end

