-- ==== Sys2Proof/Machine/Metering.lean ====
section
/-! DEFINITION. The Loudness Meter (chapter 4): K-weighting, sub-blocks, the short-window values, the gating histogram, the
meter update and what it hands on. -/

namespace Sys2Proof.Machine

/-! ### K-weighting (R63) -/

/-- The output of one stage, in the order of operations of R63. -/
def stageOutput (c : Config.Coefficients) (s : StageState) (x : F64) : F64 :=
  let t1 := fadd (fmul (roundF64 c.b0) x) (fmul (roundF64 c.b1) s.x1)
  let t2 := fadd t1 (fmul (roundF64 c.b2) s.x2)
  let t3 := fsub t2 (fmul (roundF64 c.a1) s.y1)
  fsub t3 (fmul (roundF64 c.a2) s.y2)

/-- The stage after a sample: x1 moves into x2, x into x1, y1 into y2 and the output into y1 (R63). -/
def stageNext (s : StageState) (x y : F64) : StageState := ⟨x, s.x1, y, s.y1⟩

/-- One sample through both stages: the K-weighted sample and the filter's new states (R63). -/
def kWeight (f : FilterState) (x : Sample) : F64 × FilterState :=
  let full : F64 := (x.toInt : Rat) / 8388608
  let y1 := stageOutput Config.shelf f.shelf full
  let y2 := stageOutput Config.highPass f.highPass y1
  (y2, ⟨stageNext f.shelf full y1, stageNext f.highPass y1 y2⟩)

/-- The magnitude of a sample (R79). -/
def magnitude (x : Sample) : Nat := x.toInt.natAbs

/-- The meter takes one sample of each member: filter, sum of squares and peak (R60, R65, R79). -/
def Meter.feed (xs : List Sample) (m : Meter) : Meter :=
  { m with
    filters := .ofFn fun k =>
      match xs[k.val]? with
      | some x => (kWeight m.filters[k] x).2
      | none => m.filters[k]
    sums := .ofFn fun k =>
      match xs[k.val]? with
      | some x =>
        let y := (kWeight m.filters[k] x).1
        fadd m.sums[k] (fmul y y)
      | none => m.sums[k]
    peaks := .ofFn fun k =>
      match xs[k.val]? with
      | some x => max m.peaks[k] (magnitude x)
      | none => m.peaks[k] }

/-! ### Sub-blocks (R66 to R70) -/

/-- Table 4-3. -/
def Role.weight : Role → F64
  | .front => 1
  | .surround => roundF64 Config.surroundWeight
  | .lfe => 0

/-- E of the sub-block that has ended (R66). DESIGN CHOICE, unsafe (log 37): each division by 4800 is
rounded to nearest with ties to even, which no rule states. -/
def subBlockEnergy (roles : List Role) (sums : Vector F64 8) : F64 :=
  (roles.zip sums.toList).foldl
    (fun e r => fadd e (fmul (fdiv r.2 (Config.subBlock : Nat)) r.1.weight)) 0

/-- The energies added in order and divided by their number (R68, R69). DESIGN CHOICE, unsafe (log 37):
the division is rounded to nearest with ties to even, which no rule states. -/
def meanEnergy (energies : List F64) : F64 :=
  fdiv (energies.foldl fadd 0) (energies.length : Nat)

/-- The newest `n` of a list that keeps its oldest first. -/
def newest {α : Type} (n : Nat) (l : List α) : List α := l.drop (l.length - n)

/-- M, where the history holds at least 4 energies (R68). -/
def momentaryOf (energies : List F64) : Option Int :=
  if 4 ≤ energies.length then some (loudness (meanEnergy (newest 4 energies))) else none

/-! ### The gating histogram (R71, R72, R74, R75) -/

/-- The centre of a bin in hundredths (R71). -/
def binCentre (b : Nat) : Int := -6995 + 10 * (b : Int)

/-- The bin of an admitted value (R72). -/
def binOf (m : Int) : Fin 750 :=
  ⟨min 749 (Int.fdiv (m + 7000) 10).toNat, Nat.lt_of_le_of_lt (Nat.min_le_left _ _) (by decide)⟩

/-- An admission, saturating at 4,294,967,295 (R71). -/
def admitBin (m : Int) (h : Vector Nat 750) : Vector Nat 750 :=
  h.set (binOf m) (saturating Config.sat32 (h[binOf m] + 1))

/-- The bins in use, as (centre, count). -/
def binsInUse (h : Vector Nat 750) : List (Int × Nat) :=
  ((h.toList.zipIdx).filter fun n => decide (n.1 ≠ 0)).map fun n => (binCentre n.2, n.1)

/-- Γ and I of a histogram (R74, R75). -/
def gatedLoudness (h : Vector Nat 750) : Option Int × Option Int :=
  let bins := binsInUse h
  if bins = [] then (none, none)
  else
    let gate := meanLoudness bins - 1000
    (some gate, some (meanLoudness (bins.filter fun b => decide (gate ≤ b.1))))

/-- RESET INTEGRATION: the bins become 0, and Γ and I lose their values (R77). -/
def Meter.resetIntegration (m : Meter) : Meter :=
  { m with histogram := .replicate 750 0, gate := none, integrated := none }

/-- What an accepted START sets (R62, Table 4-1): all but the peaks. -/
def Meter.started (m : Meter) : Meter := { Meter.reset with peaks := m.peaks }

/-! ### The meter update (R65 to R78) -/

/-- Whether a momentary value produced at an update is one of RUNNING under no hold vote (R72, R78). -/
def admissible (processedIn : ProgramState) (v : Votes) : Bool :=
  decide (processedIn = .running) && decide (v.hold = 0)

/-- The meter's own part of an update (R65 to R75). -/
def Meter.update (e : ProgramEntry) (admits : Bool) (m : Meter) : Meter :=
  let energies := newest Config.historyEnergies
    (m.energies ++ [subBlockEnergy (e.members.map (·.role)) m.sums])
  let momentary := momentaryOf energies
  let histogram :=
    match momentary with
    | some v => if admits && decide (Config.absoluteGate ≤ v) then admitBin v m.histogram else m.histogram
    | none => m.histogram
  { m with
    sums := .replicate 8 0
    energies := energies
    subBlocks := saturating Config.sat32 (m.subBlocks + 1)
    momentary := momentary
    shortTerm := some (loudness (meanEnergy energies))
    quiet := match momentary with
      | some v => decide (v < e.quietThreshold)
      | none => false
    histogram := histogram
    gate := (gatedLoudness histogram).1
    integrated := (gatedLoudness histogram).2
    due := none }

/-- Correction's part of an update: the admitted value enters the window ring, Lw is computed, and the gain law runs
(R78, R82, R83, R85). -/
def Program.correctionUpdate (e : ProgramEntry) (admits : Bool) (g : Program) : Program :=
  let ringed :=
    match g.meter.momentary with
    | some v => if admits then g.withCorr (·.enterRing (e.window * 10) v) else g
    | none => g
  (ringed.withCorr (·.measureWindow)).gainLaw e g.meter.momentary

/-- What the meter and Correction do at an update (R65, R78). -/
def Program.update (e : ProgramEntry) (processedIn : ProgramState) (g : Program) : Program :=
  let admits := admissible processedIn g.votes
  (g.withMeter (·.update e admits)).correctionUpdate e admits

/-- The meter update of one program, handed to Correction and to Lip-Sync Alignment (R65, R78, R131, R133). A program that
no longer processes house samples makes none (R65). -/
def State.meterUpdate (p : Fin 16) (s : State) : State :=
  match s.programs[p].meter.due with
  | none => s
  | some processedIn =>
    if s.programs[p].state.processing then
      ((s.modifyProgram p (·.update (s.activeEntry p) processedIn)).reportLatency p).modifyProgram p (·.quietMove)
    else s

/-- METER_UPDATE (R65). -/
def execMeterUpdate (program : Nat) (s : State) : Answer State := .next (atIndex 16 program State.meterUpdate s)

/-- QUIET_WAIT_EXPIRY (R131). -/
def execQuietWaitExpiry (program : Nat) (s : State) : Answer State :=
  .next (atIndex 16 program (fun p t => t.modifyProgram p (·.quietWaitExpiry t.house.count)) s)

/-- The end of a fade-out; a meter update of the same instant is made first, with the D_actual from before the jump
(R129, R133; log 22). -/
def State.fadeOutEnd (p : Fin 16) (s : State) : State :=
  if s.programs[p].corr.dip = .fadeOut ∧ Config.dipSamples ≤ s.programs[p].corr.dipCount then
    (s.meterUpdate p).modifyProgram p (·.fadeOutEnd)
  else s

/-- FADE_OUT_END (R96, R129). -/
def execFadeOutEnd (program : Nat) (s : State) : Answer State := .next (atIndex 16 program State.fadeOutEnd s)

/-- FADE_IN_END (R96, R130). -/
def execFadeInEnd (program : Nat) (s : State) : Answer State :=
  .next (atIndex 16 program (fun p t => t.modifyProgram p (·.fadeInEnd t.house.count (t.activeEntry p))) s)

/-- ENTRY_STALE (R119). -/
def execEntryStale (entry : Nat) (s : State) : Answer State :=
  .next (atIndex 64 entry (fun i t => t.modifyLatency i (·.expire t.settings.staleTimeout)) s)

end Sys2Proof.Machine
end

