-- ==== Sys2Proof/Machine/Programs.lean ====
section
/-! DEFINITION. Program Control and Delay Memory: a program's house sample (R49, R50, R110), START and STOP (R48, R51),
allocation and release of delay (R103 to R108), a new entry coming into force (R46, R57, R58), and the swap boundary
(R25, R26, R52, R55, R57). -/

namespace Sys2Proof.Machine

/-! ### One house sample of a program (R49) -/

/-- A FILLING program whose read index is 0 or above becomes RUNNING (R50). -/
def Program.fillingToRunning (g : Program) : Program :=
  if g.state = .filling ∧ 0 ≤ g.readIndex then g.enter .running else g

/-- Step 4 of R49: the indices and the places rise by 1 (R109). The read index is taken modulo 2⁴⁸ from above, like the
content index (log 26). -/
def Program.advanceIndices (g : Program) : Program :=
  { g with
    content := g.content + 1
    readIndex := if g.readIndex + 1 = 281474976710656 then 0 else g.readIndex + 1
    delay := { g.delay with
      writePlace := (g.delay.writePlace + 1) % g.delay.ringLength
      readPlace := (g.delay.readPlace + 1) % g.delay.ringLength } }

/-- The end of a sub-block: the content index stands at a positive multiple of 4800 after a house sample processed in
FILLING or RUNNING (R65). -/
def Program.markSubBlock (g : Program) : Program :=
  if g.state.fed ∧ g.content ≠ 0 ∧ g.content.toNat % Config.subBlock = 0 then
    g.withMeter fun m => { m with due := some g.state }
  else g

/-- The samples step 3 of R49 hands to the output stage: those of the read place, or 0 while the read index is below 0. -/
def ringSamples (m : Memory) (g : Program) (members : Nat) : List Sample :=
  if 0 ≤ g.readIndex then (g.delay.rings.take members).map (readRing m g.delay.readPlace)
  else List.replicate members 0

/-- The output stage's house sample, handed to Egress (R93 to R97, R158). -/
def Program.outputStage (e : ProgramEntry) (count : BitVec 48) (ys : List Sample) (g : Program) : Program :=
  let factors := g.corr.advanceFactors (muteInForce e g.votes) (decide (g.state = .stopping))
  let out := factors.output ys
  { g with corr := out.2, egress := g.egress.gather count out.1 }

/-- Program Control carries one program a house sample forward (R49, R50, R90). -/
def State.programSample (p : Fin 16) (s : State) : State :=
  if s.programs[p].state.processing then
    let e := s.activeEntry p
    let g := s.programs[p].fillingToRunning
    let xs := (effectiveSlots e g.fallbackInUse).map fun k => s.slots[k]
    let memory := writeRings g.delay.rings g.delay.writePlace xs s.memory
    let fed := if g.state.fed then g.withMeter (·.feed xs) else g
    let ys := ringSamples memory g xs.length
    { s with
      memory := memory
      programs := s.programs.set p
        ((fed.outputStage e s.house.count ys).advanceIndices.takeUpGain.markSubBlock) }
  else s

/-! ### START and STOP (R48, R51) -/

/-- What an accepted START sets (R48, R62, R92, R109, R126, R133, R158); the stamp of the emptied packet, and the start and
length of an earlier wait, are log 46. -/
def Program.started (e : ProgramEntry) (g : Program) : Program :=
  let zeroed := { g.enter .filling with
    content := 0, readIndex := -(g.lip.target : Int)
    meter := g.meter.started
    corr := g.corr.started e g.votes
    lip := { g.lip.noMove with actual := g.lip.target, lastReported := none }
    delay := { g.delay with writePlace := 0 }
    egress := { g.egress with sequence := 0, progress := [] } }
  { zeroed with delay := { zeroed.delay with readPlace := zeroed.delay.placeBehind g.lip.target } }

/-- START PROGRAM (R48): its status and its effect. -/
def State.startProgram (p : Fin 16) (s : State) : Status × State :=
  let g := s.programs[p]
  match g.state with
  | .stopped =>
    if g.delay.blocks = 0 then (.state, s)
    else (.done, (s.syncFallback p).modifyProgram p (·.started (s.activeEntry p)))
  | .stopping => (.busy, s)
  | .free | .filling | .running => (.state, s)

/-- STOP PROGRAM (R51, R132): none where it is accepted and its reply deferred, else its status. -/
def State.stopProgram (p : Fin 16) (s : State) : Option Status × State :=
  match s.programs[p].state with
  | .filling | .running =>
    (none, s.modifyProgram p fun g =>
      ((g.enter .stopping).withCorr fun c => { c with stop := 0 }).endMoveAtStop)
  | .stopping => (some .busy, s)
  | .free | .stopped => (some .state, s)

/-! ### ALLOCATE DELAY and RELEASE DELAY (R103 to R108) -/

/-- B for a requested delay (R104). -/
def blocksFor (request : Nat) : Nat := ceilDiv (request + 1) Config.blockSamples

/-- Rings of `b` blocks for `members` members, taken in order from the head of a list (R105). -/
def ringsFrom (list : List Nat) (b members : Nat) : List (List Nat) :=
  (List.range members).map fun m => (list.drop (m * b)).take b

/-- A program's blocks go back to the free list, and the new capacity is handed to Lip-Sync Alignment (R106 to R108). -/
def State.release (p : Fin 16) (s : State) : State := (s.releaseBlocks p).recompute p

/-- RELEASE DELAY (R106). -/
def State.releaseDelay (p : Fin 16) (s : State) : Status × State :=
  if s.programs[p].state.processing then (.state, s) else (.done, s.release p)

/-- The blocks an allocation needs, and those it can draw on (R104). -/
def State.allocationNeed (s : State) (p : Fin 16) (request : Nat) : Nat :=
  blocksFor request * (s.activeEntry p).members.length

def State.allocationSupply (s : State) (p : Fin 16) : Nat :=
  s.freeList.length + s.programs[p].delay.rings.flatten.length

/-- An accepted allocation (R105, R108). -/
def State.allocate (p : Fin 16) (request : Nat) (s : State) : State :=
  let b := blocksFor request
  let n := (s.activeEntry p).members.length
  let t := s.releaseBlocks p
  ({ t with
    freeList := t.freeList.drop (b * n)
    programs := t.programs.set p
      { t.programs[p] with delay := ⟨b, ringsFrom t.freeList b n, 0, 0⟩ } }).recompute p

/-- ALLOCATE DELAY (R103, R104): its status, its reply data and its effect. -/
def State.allocateDelay (p : Fin 16) (request : Nat) (s : State) : Status × List Byte × State :=
  if Config.delayLimit < request then (.range, [], s)
  else if s.programs[p].state ≠ .stopped then (.state, [], s)
  else
    let need := s.allocationNeed p request
    let supply := s.allocationSupply p
    if supply < need then (.noSpace, natToBytes 2 need ++ natToBytes 2 supply, s)
    else
      let t := s.allocate p request
      (.done,
        natToBytes 1 t.programs[p].delay.blocks ++ natToBytes 4 t.programs[p].delay.capacity
          ++ natToBytes 2 t.freeList.length, t)

/-! ### A new entry comes into force (R46, R57, R58) -/

/-- A program becomes STOPPED or FREE at once, with the ramps, fades, waits and the packet in progress ended (R46, R52,
R57, R88, R132). The stamp of that packet, and the start and length of a wait, keep their values (log 46). -/
def Program.halt (st : ProgramState) (g : Program) : Program :=
  { g.enter st with
    corr := if st = .free then g.corr.freed else g.corr.atRest
    lip := g.lip.noMove
    egress := { g.egress with progress := [] } }

/-- The state outcome of Table 3-4 and of R46, for the entry replaced and the entry brought in. -/
def Program.outcome (old new : ProgramEntry) (g : Program) : Program :=
  if new.valid then
    if g.state = .free then g.enter .stopped
    else if g.state.processing ∧ old.members.length ≠ new.members.length then g.halt .stopped
    else g
  else if g.state = .free then g
  else g.halt .free

/-- A changed member count restarts the peaks beyond the new count (R79). -/
def Meter.trimPeaks (old new : Nat) (m : Meter) : Meter :=
  if old = new then m
  else { m with peaks := .ofFn fun k => if k.val < new then m.peaks[k] else 0 }

/-- Whether the rings a program holds are released by a new entry (R46, R107). -/
def ringsReleased (new : ProgramEntry) (g : Program) : Bool :=
  new.valid && decide (g.delay.rings ≠ []) && decide (g.delay.rings.length ≠ new.members.length)

/-- A program takes in the entry that has just come into force in place of `old`, at a boundary or by a write into the
active bank (R46, R57, R58, R64, R79, R87, R88, R107, R125). DESIGN CHOICE, unsafe (log 41): the filters of the members
whose slot differs are zeroed under an entry that is not valid too, where R58 and R61 speak against it and R64 for it. -/
def State.bringIn (old : ProgramEntry) (p : Fin 16) (s : State) : State :=
  let new := s.activeEntry p
  let oldSlots := effectiveSlots old s.programs[p].fallbackInUse
  let t := s.modifyProgram p (·.outcome old new)
  let t := if ringsReleased new t.programs[p] then t.releaseBlocks p else t
  let want := t.wantsFallback p
  let t := t.modifyProgram p fun g =>
    { g with
      fallbackInUse := want
      changed := g.changed || decide (g.fallbackInUse ≠ want)
      meter := (g.meter.zeroChanged oldSlots (effectiveSlots new want)).trimPeaks old.members.length new.members.length }
  (t.modifyProgram p (·.loudnessFields new)).recompute p

/-- A write to a Program Table entry (R44 to R46), the ranges having been tested. -/
def State.writeProgram (which : Bank) (p : Fin 16) (e : ProgramEntry) (s : State) : Status × State :=
  if which = s.activeBank then
    if s.programs[p].state.processing then (.state, s)
    else (.done, (s.setBankEntry which p e).bringIn (s.activeEntry p) p)
  else (.done, s.setBankEntry which p e)

/-! ### The swap boundary (R52, R55, R57, R58) -/

/-- Whether a pending swap cuts a program (Table 3-4). -/
def State.willCut (s : State) (p : Fin 16) : Bool :=
  let new := (s.bank s.activeBank.other)[p]
  s.programs[p].state.processing
    && (!new.valid || decide ((s.activeEntry p).members.length ≠ new.members.length))

/-- Before a cut, the sub-block and the packet that ended with the house sample are dealt with (R65, R158; log 21). -/
def State.finishDue (p : Fin 16) (s : State) : State :=
  if s.willCut p then (s.meterUpdate p).packetComplete p else s

/-- A pending swap takes effect: the inactive bank becomes active, every program takes in its new entry, the SWAP is
answered, and then the STOP of each program cut in STOPPING, in increasing order (R52, R55, R57). -/
def State.swapBanks (s : State) : State :=
  let t := forEach 16 State.finishDue s
  let stopCut := fun p : Fin 16 => t.willCut p && decide (t.programs[p].state = .stopping)
  let switched := { t with activeBank := t.activeBank.other, swapPending := false }
  let brought := forEach 16 (fun p u => u.bringIn (t.activeEntry p) p) switched
  forEach 16 (fun p u => if stopCut p then u.completeStop p else u) brought.completeSwap

/-- House Timing hands a swap boundary to Program Control: at most one for a house sample (R25, R55). -/
def State.handBoundary (s : State) : State :=
  if s.house.boundaryMade then s
  else
    let t := { s with house := { s.house with boundaryMade := true } }
    if t.swapPending then t.swapBanks else t

/-- A boundary at the present count, recorded as the last boundary (R25, R26). -/
def State.boundary (pulse : Presence) (s : State) : State :=
  ({ s with house := { s.house with pulse := pulse, lastBoundary := s.house.count } }).handBoundary

/-- FRAME_PULSE: the boundary at the end of the pulse's house sample (R25; log 5). -/
def execFramePulse (s : State) : Answer State := .next (s.boundary .present)

/-- 9600 house samples without a pulse: the pulse state becomes ABSENT and the first boundary of the part's own is made
(R25, R26). -/
def State.pulseAbsent (s : State) : State :=
  if s.house.pulse = .present ∧ Config.pulseTimeout ≤ since s.house.count s.house.lastBoundary then
    s.boundary .absent
  else s

/-- In ABSENT, a boundary every 1920 house samples (R26). -/
def State.synthesizedBoundary (s : State) : State :=
  if s.house.pulse = .absent ∧ Config.boundaryPeriod ≤ since s.house.count s.house.lastBoundary then
    s.boundary .absent
  else s

/-- PULSE_ABSENT (R26). -/
def execPulseAbsent (s : State) : Answer State := .next s.pulseAbsent

/-- SYNTHESIZED_BOUNDARY (R26). -/
def execSynthesizedBoundary (s : State) : Answer State := .next s.synthesizedBoundary

end Sys2Proof.Machine
end

