-- ==== Sys2Proof/Machine/Tables.lean ====
section
/-! DEFINITION. The tables that orders reach (Table 10-3): their sizes and access, what a reading of each shows (R174,
R178, R184) and what it changes (Table 10-4), and the writes of each (R175). -/

namespace Sys2Proof.Machine

/-! ### Sizes and access (Table 10-3) -/

def Table.size : Table → Nat
  | .settings => 1
  | .stream => 32
  | .program => 16
  | .egress => 16
  | .latency => 64
  | .trigger => 48
  | .streamStatus => 32
  | .programStatus => 16
  | .triggerStatus => 48
  | .partStatus => 1
  | .pool => 2065
  | .histogram => 12000

def Table.writable : Table → Bool
  | .settings | .stream | .program | .egress | .latency | .trigger => true
  | .streamStatus | .programStatus | .triggerStatus | .partStatus | .pool | .histogram => false

/-- The bytes a write to the table carries (Table 11-6); 0 for a table that is not written. -/
def Table.writeLength : Table → Nat
  | .settings => 41
  | .stream => 18
  | .program => 72
  | .egress => 20
  | .latency => 19
  | .trigger => 18
  | .streamStatus | .programStatus | .triggerStatus | .partStatus | .pool | .histogram => 0

/-! ### Status entries (R184) -/

/-- R21, then R41. DESIGN CHOICE, unsafe: the lock count takes 4 bytes (log 19), and one above 4,294,967,295, for which R35
gives no bound and R41 and R184 no form, is sent as its low 32 bits (log 45). -/
def streamStatusBytes (c : Context) : List Byte :=
  flagByte c.flags.late ++ flagByte c.flags.gap ++ flagByte c.flags.resync ++ flagByte c.flags.overrun
    ++ flagByte c.flags.format ++ flagByte c.flags.underrun
    ++ codeByte contextCodes c.state ++ natToBytes 2 c.fill ++ natToBytes 2 c.maxFill ++ natToBytes 2 c.minFill
    ++ intToBytes 4 c.integrator ++ intToBytes 4 c.correction ++ intToBytes 4 c.lastError
    ++ natToBytes 4 c.lockCount ++ intToBytes 8 c.step

/-- Program Control's items (R59). -/
def programControlBytes (e : ProgramEntry) (g : Program) : List Byte :=
  codeByte programCodes g.state ++ natToBytes 6 g.content.toNat ++ intToBytes 8 g.readIndex
    ++ flagByte g.fallbackInUse ++ natToBytes 1 e.members.length ++ natToBytes 1 g.delay.rings.length
    ++ flagByte g.changed

/-- The meter's items (R80); peak places beyond the member count read as 0 (R79). -/
def meterBytes (e : ProgramEntry) (m : Meter) : List Byte :=
  markedLoudness m.momentary ++ markedLoudness m.shortTerm ++ markedLoudness m.integrated ++ markedLoudness m.gate
    ++ flagByte m.quiet ++ natToBytes 4 m.subBlocks
    ++ (m.peaks.toList.zipIdx).flatMap fun x => natToBytes 4 (if x.2 < e.members.length then x.1 else 0)

/-- Correction's items (R100). -/
def correctionBytes (e : ProgramEntry) (v : Votes) (c : Correction) : List Byte :=
  intToBytes 4 c.gain ++ intToBytes 4 c.outputGain ++ natToBytes 1 c.schedule.length
    ++ markedLoudness c.window ++ markedLoudness c.windowGate ++ natToBytes 2 c.ring.length
    ++ flagByte (muteInForce e v) ++ natToBytes 2 c.mute ++ codeByte dipCodes c.dip ++ flagByte (atLimit e c.gain)

/-- Lip-Sync Alignment's items (R135); `free` stands beside the mark of an absent last report (log 18). -/
def lipSyncBytes (free : BitVec 32) (l : LipSync) : List Byte :=
  intToBytes 4 l.videoMicros ++ intToBytes 4 l.video ++ intToBytes 2 l.audio ++ intToBytes 4 l.unclamped
    ++ natToBytes 4 l.target ++ natToBytes 4 l.actual ++ flagByte l.audioLate ++ flagByte l.delayClamp
    ++ codeByte moveCodes l.move ++ flagByte l.pendingMove ++ flagByte l.sendFlag ++ markedMicros free l.lastReported

/-- R59, R80, R100, R115, R135, the vote counts of R155, R167. -/
def State.programStatusBytes (s : State) (p : Fin 16) : List Byte :=
  let e := s.activeEntry p
  let g := s.programs[p]
  programControlBytes e g ++ meterBytes e g.meter ++ correctionBytes e g.votes g.corr
    ++ natToBytes 1 g.delay.blocks ++ natToBytes 4 g.delay.capacity
    ++ lipSyncBytes (Config.noValueNumber s.freeCount) g.lip
    ++ natToBytes 1 g.votes.mute ++ natToBytes 1 g.votes.freeze ++ natToBytes 1 g.votes.hold
    ++ natToBytes 1 g.votes.fallback
    ++ flagByte g.egress.drop ++ natToBytes 2 g.egress.sequence.toNat ++ natToBytes 1 g.egress.queue.length

/-- R154. -/
def triggerStatusBytes (t : TriggerStatus) : List Byte :=
  codeByte triggerCodes t.state ++ natToBytes 2 t.count ++ flagByte t.armed ++ natToBytes 2 t.windowRemaining
    ++ flagByte t.lastCondition ++ intToBytes 4 t.lastMeasured ++ flagByte t.latched ++ natToBytes 2 t.fireTotal
    ++ flagByte t.changed

/-- R178, with R155 and R167 in their places. The reading order has left the queue of `s`. -/
def State.partStatusBytes (s : State) : List Byte :=
  natToBytes 6 s.house.count.toNat ++ codeByte presenceCodes s.house.reference
    ++ codeByte presenceCodes s.house.pulse ++ flagByte s.swapPending ++ codeByte bankCodes s.activeBank
    ++ flagByte s.flags.ordersDropped ++ flagByte s.flags.passDropped ++ flagByte s.flags.unknownReporter
    ++ flagByte s.flags.noticesLost ++ flagByte s.flags.reportsDropped
    ++ natToBytes 1 s.notices.length ++ natToBytes 2 s.lostCount
    ++ natToBytes 1 (s.triggers.toList.countP fun t => t.status.latched)
    ++ natToBytes 1 (s.triggers.toList.countP fun t => t.status.state.holds)
    ++ natToBytes 1 s.replyQueue.length ++ natToBytes 1 s.reportQueue.length ++ natToBytes 1 s.passQueue.length
    ++ flagByte s.ready ++ natToBytes 1 s.orders.length ++ natToBytes 1 s.inProgress

/-! ### POOL (Table 6-3) -/

/-- A block number, or none. -/
def blockBytes : Option Nat → List Byte
  | some b => natToBytes 2 b
  | none => natToBytes 2 0xFFFF

def State.poolSummary (s : State) : List Byte :=
  natToBytes 2 s.freeList.length ++ natToBytes 2 (Config.poolBlocks - s.freeList.length)
    ++ blockBytes s.freeList.head? ++ blockBytes s.freeList.getLast?

def poolProgram (d : DelayLine) : List Byte :=
  natToBytes 1 d.rings.length ++ natToBytes 1 d.blocks ++ natToBytes 4 d.capacity
    ++ natToBytes 2 (d.rings.length * d.blocks) ++ natToBytes 4 d.writePlace ++ natToBytes 4 d.readPlace

/-- Where a block is held: program, member and its place in the ring. -/
def State.holder (s : State) (blk : Nat) : Option (Nat × Nat × Nat) :=
  (s.programs.toList.zipIdx).findSome? fun g =>
    (g.1.delay.rings.zipIdx).findSome? fun r => (r.1.idxOf? blk).map fun k => (g.2, r.2, k)

/-- The entry of one delay block (R114, R184). All five items are sent; those that do not apply, the list position of a HELD
block and the program, member and ring block of a FREE one, are sent as 0xFFFF and 255, which is the model's choice
(log 35). -/
def State.poolBlock (s : State) (blk : Nat) : List Byte :=
  match s.holder blk with
  | some h =>
    natToBytes 1 1 ++ blockBytes none ++ natToBytes 1 h.1 ++ natToBytes 1 h.2.1 ++ natToBytes 1 h.2.2
  | none =>
    natToBytes 1 0 ++ blockBytes (s.freeList.idxOf? blk) ++ natToBytes 1 255 ++ natToBytes 1 255 ++ natToBytes 1 255

def State.poolBytes (s : State) (i : Nat) : List Byte :=
  if i = 0 then s.poolSummary
  else if i ≤ 16 then poolProgram s.programs[Fin.ofNat 16 (i - 1)].delay
  else s.poolBlock (i - 17)

/-- Entry program × 750 + b is the count of bin b (R81). -/
def State.histogramBytes (s : State) (i : Nat) : List Byte :=
  natToBytes 4 s.programs[Fin.ofNat 16 (i / 750)].meter.histogram[Fin.ofNat 750 (i % 750)]

/-! ### Reading (R174, Table 10-4) -/

/-- The entry `i` of a table as a reading shows it. The index lies in the table. -/
def State.entryBytes (s : State) (t : Table) (which : Bank) (i : Nat) : List Byte :=
  match t with
  | .settings => settingsBytes s
  | .stream => streamBytes s.streams[Fin.ofNat 32 i].entry
  | .program => programBytes (s.bank which)[Fin.ofNat 16 i]
  | .egress => egressBytes s.egressTable[Fin.ofNat 16 i]
  | .latency => latencyBytes (Config.noValueNumber s.freeCount) s.latencies[Fin.ofNat 64 i]
  | .trigger => triggerBytes s.triggers[Fin.ofNat 48 i].entry
  | .streamStatus => streamStatusBytes s.streams[Fin.ofNat 32 i].ctx
  | .programStatus => s.programStatusBytes (Fin.ofNat 16 i)
  | .triggerStatus => triggerStatusBytes s.triggers[Fin.ofNat 48 i].status
  | .partStatus => s.partStatusBytes
  | .pool => s.poolBytes i
  | .histogram => s.histogramBytes i

/-- Reading STREAM STATUS clears the six flags and restarts both watermarks at the present fill (R11, R21). -/
def Context.afterReading (c : Context) : Context :=
  { c with flags := .clear, maxFill := c.fill, minFill := c.fill }

/-- Whether a reading shows the number beside a no-value mark of a latency in microseconds (log 18). -/
def State.showsFree (s : State) (t : Table) (i : Nat) : Bool :=
  match t with
  | .latency => s.latencies[Fin.ofNat 64 i].latency.isNone
  | .programStatus => s.programs[Fin.ofNat 16 i].lip.lastReported.isNone
  | .settings | .stream | .program | .egress | .trigger | .streamStatus | .triggerStatus | .partStatus | .pool
  | .histogram => false

/-- The effects of a reading (Table 10-4). -/
def State.readEffect (s : State) (t : Table) (i : Nat) : State :=
  match t with
  | .latency => s.modifyLatency (Fin.ofNat 64 i) fun e => { e with changed := false }
  | .streamStatus => s.modifyContext (Fin.ofNat 32 i) (·.afterReading)
  | .programStatus =>
    s.modifyProgram (Fin.ofNat 16 i) (·.afterReading (s.activeEntry (Fin.ofNat 16 i)).members.length)
  | .triggerStatus =>
    s.modifyTrigger (Fin.ofNat 48 i) fun x => { x with status := { x.status with changed := false } }
  | .partStatus => { s with flags := .clear }
  | .settings | .stream | .program | .egress | .trigger | .pool | .histogram => s

/-- A reading as one act: its effects after its content is fixed (R174). -/
def State.afterReading (s : State) (t : Table) (i : Nat) : State :=
  { s.readEffect t i with freeCount := if s.showsFree t i then s.freeCount + 1 else s.freeCount }

/-! ### Writing (R175) -/

/-- Whether two valid Stream Table entries conflict: the same key, or a shared lane slot (R8). -/
def StreamEntry.conflicts (e f : StreamEntry) : Bool :=
  e.valid && f.valid
    && (decide (e.key = f.key) || (decide (e.first < f.first + f.lanes) && decide (f.first < e.first + e.lanes)))

/-- The tests of R8 that look beyond the fields' own ranges. -/
def State.streamRefused (s : State) (i : Fin 32) (e : StreamEntry) : Bool :=
  decide (127 < e.first + e.lanes - 1)
    || (List.finRange 32).any fun j => decide (j ≠ i) && e.conflicts s.streams[j].entry

/-- An accepted write to a Stream Table entry: the entry is stored, the context reset, and every program computed again
(R9, R42, R125). -/
def State.storeStream (i : Fin 32) (e : StreamEntry) (s : State) : State :=
  (s.modifyStream i fun t => ⟨e, t.ctx.restart e.valid⟩).recomputeAll

def State.writeStream (i : Fin 32) (e : StreamEntry) (s : State) : Status × State :=
  if s.streamRefused i e then (.range, s) else (.done, s.storeStream i e)

/-- R157. -/
def State.writeEgress (p : Fin 16) (e : EgressEntry) (s : State) : Status × State :=
  if s.programs[p].state.processing then (.state, s)
  else (.done, ({ s with egressTable := s.egressTable.set p e }).recompute p)

/-- R176. -/
def State.writeSettings (c : Settings) (s : State) : Status × State := (.done, { s with settings := c })

def State.tryLatency (i : Fin 64) (w : LatencyWrite) (s : State) : Status × State :=
  if s.latencyConflict i w then (.range, s) else (.done, s.writeLatency i w)

def State.tryTrigger (i : Fin 48) (e : TriggerEntry) (s : State) : Status × State :=
  if s.triggerRefused i e then (.range, s) else (.done, s.writeTrigger i e)

/-- What a write puts into an entry. -/
inductive NewEntry where
  | settings (c : Settings)
  | stream (e : StreamEntry)
  | program (e : ProgramEntry)
  | egress (e : EgressEntry)
  | latency (w : LatencyWrite)
  | trigger (e : TriggerEntry)
  deriving DecidableEq, Repr

/-- The entry that an order's contents give for a table; none where a field lies outside its range or the table is not
written. -/
def readEntry (t : Table) (contents : List Byte) : Option NewEntry :=
  match t with
  | .settings => (readSettings contents).map .settings
  | .stream => (readStream contents).map .stream
  | .program => (readProgram contents).map .program
  | .egress => (readEgress contents).map .egress
  | .latency => (readLatency contents).map .latency
  | .trigger => (readTrigger contents).map .trigger
  | .streamStatus | .programStatus | .triggerStatus | .partStatus | .pool | .histogram => none

/-- The power-on contents that CLEAR ENTRY writes (R175, R176). -/
def State.clearedEntry (s : State) (t : Table) (i : Nat) : Option NewEntry :=
  match t with
  | .settings => some (.settings (.powerOn s.straps))
  | .stream => some (.stream .powerOn)
  | .program => some (.program .powerOn)
  | .egress => some (.egress (.powerOn (Fin.ofNat 16 i)))
  | .latency => some (.latency ⟨false, 0, none, false, false⟩)
  | .trigger => some (.trigger .powerOn)
  | .streamStatus | .programStatus | .triggerStatus | .partStatus | .pool | .histogram => none

/-- The owning block tests the write, and stores it whole or refuses it whole (R175). -/
def State.writeEntry (which : Bank) (i : Nat) (n : NewEntry) (s : State) : Status × State :=
  match n with
  | .settings c => s.writeSettings c
  | .stream e => s.writeStream (Fin.ofNat 32 i) e
  | .program e => s.writeProgram which (Fin.ofNat 16 i) e
  | .egress e => s.writeEgress (Fin.ofNat 16 i) e
  | .latency w => s.tryLatency (Fin.ofNat 64 i) w
  | .trigger e => s.tryTrigger (Fin.ofNat 48 i) e

end Sys2Proof.Machine
end

