-- ==== Sys2Proof/Machine/Orders.lean ====
section
/-! DEFINITION. The Management Unit (chapter 10): the taking of an order, the cursor, and the sixteen order kinds. -/

namespace Sys2Proof.Machine

/-! ### Taking (R168, R169) -/

/-- The oldest waiting order (R168). -/
def firstWaiting (orders : List Order) : Option Order := orders.find? fun o => !o.inProgress

/-- The queue once the oldest waiting order has left it. -/
def withoutWaiting (orders : List Order) : List Order := orders.eraseP fun o => !o.inProgress

/-- The queue once the oldest waiting order is in progress (R177). -/
def startWaiting : List Order → List Order
  | [] => []
  | o :: rest => if o.inProgress then o :: startWaiting rest else { o with inProgress := true } :: rest

/-- The order that the Management Unit can take now: no RESET PART awaits its reset and a reply place is free (R169). -/
def State.takeable (s : State) : Option Order :=
  if s.resetPhase = .none ∧ s.replyPlaceFree = true then firstWaiting s.orders else none

/-- The order leaves the queue, its reply is placed, and the cursor becomes `cursor` (R168, R170, R173). -/
def State.reply (o : Order) (table : Byte) (status : Status) (data : List Byte) (cursor : Option Cursor)
    (s : State) : State :=
  ({ s with cursor := cursor }).answer o s.orders table status data false

/-- The queue without the order being handled (R170, R178). -/
def State.withoutTaken (s : State) : State := { s with orders := withoutWaiting s.orders }

/-- Orders of unknown kind at the front are taken and refused, whichever order command comes (R171; log 16). -/
def State.takeUnknown : Nat → State → State
  | 0, s => s
  | n + 1, s =>
    match s.takeable with
    | some o =>
      if 16 ≤ o.kind.toNat then (s.withoutTaken.reply o o.table .illegal [] none).takeUnknown n else s
    | none => s

/-- The taking of the oldest waiting order by the command of its kind. A command whose kind is not that of the order
changes nothing (log 2). -/
def State.take (kind : Nat) (handle : Order → State → State) (s : State) : State :=
  let t := s.takeUnknown Config.orderPlaces
  match t.takeable with
  | some o => if o.kind.toNat = kind then handle o t else t
  | none => t

/-- An order answered at once that clears the cursor (R173): `act` gives the status, the data and the effect. -/
def State.immediate (act : Order → State → Status × List Byte × State) (o : Order) (s : State) : State :=
  let r := act o s.withoutTaken
  r.2.2.reply o o.table r.1 r.2.1 none

/-- An order whose work has been started: it stays in the queue, in progress, with its reply place reserved, and the
cursor is cleared (R163, R173, R177). -/
def State.deferOrder (s : State) : State := { s with orders := startWaiting s.orders, cursor := none }

/-! ### The tests of R172 -/

/-- The table an order names: step 1 (R172). -/
def Order.tableOf (o : Order) (writing : Bool) : Option Table :=
  match tableCodes[o.table.toNat]? with
  | some t => if writing && !t.writable then none else some t
  | none => none

/-- The bank an order names, which only PROGRAM reads: a part of step 2 (R172). -/
def Order.bankOf (o : Order) (t : Table) : Option Bank :=
  if t = .program then bankCodes[o.bank.toNat]? else some .a

/-- The table, bank and index an order reaches, or the status of the first failing test of steps 1 and 2 (R172). -/
def Order.place (o : Order) (writing : Bool) : Except Status (Table × Bank × Nat) :=
  match o.tableOf writing with
  | none => .error .illegal
  | some t =>
    match o.bankOf t with
    | none => .error .range
    | some which => if o.index < t.size then .ok (t, which, o.index) else .error .range

/-- Step 3 of R172: the length, the ranges and the owning block's tests, and the write where all pass. -/
def State.tryWrite (t : Table) (which : Bank) (i : Nat) (contents : List Byte) (s : State) : Status × State :=
  if contents.length < t.writeLength then (.range, s)
  else
    match readEntry t contents with
    | some n => s.writeEntry which i n
    | none => (.range, s)

/-- The program an order names by its index (R171). -/
def Order.program (o : Order) : Option (Fin 16) := if h : o.index < 16 then some ⟨o.index, h⟩ else none

/-! ### The order kinds -/

/-- NOP is always answered DONE and leaves the cursor (R173). -/
def State.nop (o : Order) (s : State) : State := s.withoutTaken.reply o o.table .done [] s.cursor

/-- READ ENTRY (R172 to R174). -/
def State.readEntry (o : Order) (s : State) : State :=
  let t := s.withoutTaken
  match o.place false with
  | .error status => t.reply o o.table status [] none
  | .ok (table, which, i) =>
    (t.afterReading table i).reply o o.table .done (t.entryBytes table which i) (some ⟨false, table, which, i + 1⟩)

/-- READ NEXT (R172 to R174; the table id of its replies is log 17). -/
def State.readNext (o : Order) (s : State) : State :=
  let t := s.withoutTaken
  match s.cursor with
  | some ⟨false, table, which, i⟩ =>
    if i < table.size then
      (t.afterReading table i).reply o (BitVec.ofNat 8 (tableCodes.idxOf table)) .done (t.entryBytes table which i)
        (some ⟨false, table, which, i + 1⟩)
    else t.reply o (BitVec.ofNat 8 (tableCodes.idxOf table)) .range [] none
  | _ => t.reply o o.table .sequence [] none

/-- WRITE ENTRY (R172, R173, R175). -/
def State.writeEntryOrder (o : Order) (s : State) : State :=
  let t := s.withoutTaken
  match o.place true with
  | .error status => t.reply o o.table status [] none
  | .ok (table, which, i) =>
    let r := t.tryWrite table which i o.contents
    r.2.reply o o.table r.1 [] (some ⟨true, table, which, i + 1⟩)

/-- WRITE NEXT (R172, R173, R175). -/
def State.writeNext (o : Order) (s : State) : State :=
  let t := s.withoutTaken
  match s.cursor with
  | some ⟨true, table, which, i⟩ =>
    if i < table.size then
      let r := t.tryWrite table which i o.contents
      r.2.reply o (BitVec.ofNat 8 (tableCodes.idxOf table)) r.1 [] (some ⟨true, table, which, i + 1⟩)
    else t.reply o (BitVec.ofNat 8 (tableCodes.idxOf table)) .range [] none
  | _ => t.reply o o.table .sequence [] none

/-- CLEAR ENTRY: a write of the power-on contents (R175). -/
def clearAct (o : Order) (s : State) : Status × List Byte × State :=
  match o.place true with
  | .error status => (status, [], s)
  | .ok (table, which, i) =>
    match s.clearedEntry table i with
    | some n => ((s.writeEntry which i n).1, [], (s.writeEntry which i n).2)
    | none => (.illegal, [], s)

/-- SWAP PROGRAM BANK (R55, R177). -/
def State.swapOrder (o : Order) (s : State) : State :=
  if s.swapPending then s.withoutTaken.reply o o.table .busy [] none
  else { s.deferOrder with swapPending := true }

/-- An order that names a program: an index outside 0 to 15 is RANGE (R171). -/
def onProgram (act : Fin 16 → State → Status × List Byte × State) (o : Order) (s : State) :
    Status × List Byte × State :=
  match o.program with
  | some p => act p s
  | none => (.range, [], s)

/-- START PROGRAM (R48). -/
def startAct (p : Fin 16) (s : State) : Status × List Byte × State := ((s.startProgram p).1, [], (s.startProgram p).2)

/-- STOP PROGRAM (R51, R177). -/
def State.stopOrder (o : Order) (s : State) : State :=
  match o.program with
  | none => s.withoutTaken.reply o o.table .range [] none
  | some p =>
    match s.stopProgram p with
    | (some status, _) => s.withoutTaken.reply o o.table status [] none
    | (none, t) => t.deferOrder

/-- ALLOCATE DELAY; contents shorter than R's 4 bytes are RANGE (R103, R171, R183). -/
def allocateAct (o : Order) (s : State) : Status × List Byte × State :=
  if o.contents.length < 4 then (.range, [], s)
  else onProgram (fun p t => t.allocateDelay p (fieldAt o.contents 0 4)) o s

/-- RELEASE DELAY, with the free count as its data (R106, R183). -/
def releaseAct (p : Fin 16) (s : State) : Status × List Byte × State :=
  match s.releaseDelay p with
  | (.done, t) => (.done, natToBytes 2 t.freeList.length, t)
  | (status, t) => (status, [], t)

/-- RESET STREAM: an accepted rewrite of the entry with its present contents (R171). -/
def resetStreamAct (o : Order) (s : State) : Status × List Byte × State :=
  if h : o.index < 32 then (.done, [], s.storeStream ⟨o.index, h⟩ s.streams[o.index].entry) else (.range, [], s)

/-- RESET INTEGRATION (R77). -/
def resetIntegrationAct (p : Fin 16) (s : State) : Status × List Byte × State :=
  (.done, [], s.modifyProgram p fun g => g.withMeter (·.resetIntegration))

/-- ACKNOWLEDGE: a trigger index, or 0xFFFF for all (R150, R183). -/
def acknowledgeAct (o : Order) (s : State) : Status × List Byte × State :=
  if o.index = 0xFFFF then (.done, [], s.acknowledge none)
  else if h : o.index < 48 then (.done, [], s.acknowledge (some ⟨o.index, h⟩))
  else (.range, [], s)

/-- SEND LATENCY (R134). -/
def sendLatencyAct (p : Fin 16) (s : State) : Status × List Byte × State :=
  (.done, [], s.modifyProgram p fun g => g.withLip fun l => { l with sendFlag := true })

/-- RESET PART: the reply is placed, a pending swap ends, and the reset waits for the reply to be sent (R179). -/
def State.resetPartOrder (o : Order) (s : State) : State :=
  let t := { s.withoutTaken with cursor := none, swapPending := false, resetPhase := .awaiting }
  t.answer o t.orders o.table .done [] true

/-! ### The order commands -/

/-- What the taking of an order of kind `kind` does, once the order is at the front (Table 11-4). -/
def handleNop (s : State) : State := s.take 0 State.nop
def handleReadEntry (s : State) : State := s.take 1 State.readEntry
def handleReadNext (s : State) : State := s.take 2 State.readNext
def handleWriteEntry (s : State) : State := s.take 3 State.writeEntryOrder
def handleWriteNext (s : State) : State := s.take 4 State.writeNext
def handleClearEntry (s : State) : State := s.take 5 (State.immediate clearAct)
def handleSwap (s : State) : State := s.take 6 State.swapOrder
def handleStart (s : State) : State := s.take 7 (State.immediate (onProgram startAct))
def handleStop (s : State) : State := s.take 8 State.stopOrder
def handleAllocate (s : State) : State := s.take 9 (State.immediate allocateAct)
def handleRelease (s : State) : State := s.take 10 (State.immediate (onProgram releaseAct))
def handleResetStream (s : State) : State := s.take 11 (State.immediate resetStreamAct)
def handleResetIntegration (s : State) : State := s.take 12 (State.immediate (onProgram resetIntegrationAct))
def handleAcknowledge (s : State) : State := s.take 13 (State.immediate acknowledgeAct)
def handleSendLatency (s : State) : State := s.take 14 (State.immediate (onProgram sendLatencyAct))
def handleResetPart (s : State) : State := s.take 15 State.resetPartOrder

/-- The taking of whichever order stands at the front. -/
def State.takeAny (s : State) : State :=
  let t := s.takeUnknown Config.orderPlaces
  match t.takeable with
  | none => t
  | some o =>
    match o.kind.toNat with
    | 0 => handleNop t
    | 1 => handleReadEntry t
    | 2 => handleReadNext t
    | 3 => handleWriteEntry t
    | 4 => handleWriteNext t
    | 5 => handleClearEntry t
    | 6 => handleSwap t
    | 7 => handleStart t
    | 8 => handleStop t
    | 9 => handleAllocate t
    | 10 => handleRelease t
    | 11 => handleResetStream t
    | 12 => handleResetIntegration t
    | 13 => handleAcknowledge t
    | 14 => handleSendLatency t
    | 15 => handleResetPart t
    | _ => t

/-- Every order that can be taken is taken; the queue holds at most 8 (R168, R169). -/
def State.takeAll : Nat → State → State
  | 0, s => s
  | n + 1, s => s.takeAny.takeAll n

/-- NOP. -/
def execNop (s : State) : Answer State := .next (handleNop s)

/-- READ ENTRY (R174). -/
def execReadEntry (s : State) : Answer State := .next (handleReadEntry s)

/-- READ NEXT (R173, R174). -/
def execReadNext (s : State) : Answer State := .next (handleReadNext s)

/-- WRITE ENTRY (R175). -/
def execWriteEntry (s : State) : Answer State := .next (handleWriteEntry s)

/-- WRITE NEXT (R173, R175). -/
def execWriteNext (s : State) : Answer State := .next (handleWriteNext s)

/-- CLEAR ENTRY (R175). -/
def execClearEntry (s : State) : Answer State := .next (handleClearEntry s)

/-- SWAP PROGRAM BANK (R55). -/
def execSwapProgramBank (s : State) : Answer State := .next (handleSwap s)

/-- START PROGRAM (R48). -/
def execStartProgram (s : State) : Answer State := .next (handleStart s)

/-- STOP PROGRAM (R51). -/
def execStopProgram (s : State) : Answer State := .next (handleStop s)

/-- ALLOCATE DELAY (R103 to R105). -/
def execAllocateDelay (s : State) : Answer State := .next (handleAllocate s)

/-- RELEASE DELAY (R106). -/
def execReleaseDelay (s : State) : Answer State := .next (handleRelease s)

/-- RESET STREAM (R9, R171). -/
def execResetStream (s : State) : Answer State := .next (handleResetStream s)

/-- RESET INTEGRATION (R77). -/
def execResetIntegration (s : State) : Answer State := .next (handleResetIntegration s)

/-- ACKNOWLEDGE (R150). -/
def execAcknowledge (s : State) : Answer State := .next (handleAcknowledge s)

/-- SEND LATENCY (R134). -/
def execSendLatency (s : State) : Answer State := .next (handleSendLatency s)

/-- RESET PART (R179). -/
def execResetPart (s : State) : Answer State := .next (handleResetPart s)

end Sys2Proof.Machine
end

