-- ==== Sys2Proof/Machine/Reset.lean ====
section
/-! DEFINITION. The two resets (R6, R166, R176, R179): a RESET PART once its reply has been sent, and power-on. -/

namespace Sys2Proof.Machine

/-- Every block takes its reset values. The ready line is a pin (log 9), the delay blocks keep what they hold (log 11),
and the commands still waiting stay (log 1). -/
def State.resetKeeping (settings : Settings) (straps : Byte) (s : State) : State :=
  { State.reset with
    settings := settings, straps := straps
    ready := s.ready, memory := s.memory, freeCount := s.freeCount, pending := s.pending }

/-- A RESET PART whose reply has been sent acts: the Settings record is kept (R166, R179). -/
def State.partReset (s : State) : State :=
  if s.resetPhase = .due then s.resetKeeping s.settings s.straps else s

/-- A power-on reset acts at once and sets the Settings record to its power-on contents (R6, R166, R176, R179). -/
def State.powerOn (straps : Byte) (s : State) : State := s.resetKeeping (.powerOn straps) straps

/-- PART_RESET_ACTS (R166, R179). -/
def execPartResetActs (s : State) : Answer State := .next s.partReset

/-- POWER_ON_RESET (R6, R166, R179). -/
def execPowerOnReset (straps : Byte) (s : State) : Answer State := .next (s.powerOn straps)

end Sys2Proof.Machine
end

