-- ==== Sys2Proof/Machine/Timing.lean ====
section
/-! DEFINITION. House Timing (sections 2.1 and 2.2): the end of a house sample in each of its three ways, the work of a
house sample, and the part's own events that are made before it. -/

namespace Sys2Proof.Machine

/-- The part's own events that are due and have not been commanded are made before a house sample begins, in this order
(log 3). A RESET PART that is due is alone made. -/
def State.settle (s : State) : State :=
  if s.resetPhase = .due then s.partReset
  else
    let streams := forEach 32 (fun i t => ((t.loopUpdate i).gapTimeout i).holdoverLimit i) s
    let entries := forEach 64 (fun i t => t.modifyLatency i (·.expire t.settings.staleTimeout)) streams
    let programs := forEach 16 (fun p t =>
      ((((t.meterUpdate p).packetComplete p).fadeOutEnd p).modifyProgram p
        (·.fadeInEnd t.house.count (t.activeEntry p))).modifyProgram p (·.quietWaitExpiry t.house.count)) entries
    ((programs.pulseAbsent.synthesizedBoundary.evaluate.takeAll Config.orderPlaces).egressChoice).takeAll
      Config.orderPlaces

/-- Ages rise at each house sample (R119). -/
def State.ageEntries (s : State) : State := { s with latencies := s.latencies.map (·.older) }

/-- The count rises, and the evaluation comes due where it reaches a multiple of 4800 (R22, R143). -/
def State.countSample (s : State) : State :=
  let count := s.house.count + 1
  { s with
    house := { s.house with count := count, boundaryMade := false }
    evaluationDue := decide (count ≠ 0) && decide (count.toNat % Config.evaluationPeriod = 0) }

/-- The work of one house sample, in this order (R28, R49, R56, R119; log 7). -/
def State.processSample (s : State) : State :=
  (forEach 16 State.programSample (forEach 16 State.syncFallback s.convertAll.ageEntries)).countSample

/-- One whole house sample, ended in one of the ways of R23 and R24. -/
def State.houseSample (s : State) : State := s.settle.processSample

/-- An accepted word clock edge ends the house sample and makes the reference PRESENT (R23, R24). -/
def execWordClockEdge (s : State) : Answer State :=
  let t := s.houseSample
  .next { t with house := { t.house with reference := .present } }

/-- A bridged house sample ends, which happens in PRESENT only (R23). -/
def execBridgedSample (s : State) : Answer State :=
  .next (if s.house.reference = .present then s.houseSample else s)

/-- 1 ms without an accepted edge: the reference becomes ABSENT (R23; oscillator time is log 6). -/
def execReferenceAbsent (s : State) : Answer State :=
  .next { s with house := { s.house with reference := .absent } }

/-- A free-running house sample ends, which happens in ABSENT only (R24). -/
def execFreeRunSampleEnd (s : State) : Answer State :=
  .next (if s.house.reference = .absent then s.houseSample else s)

end Sys2Proof.Machine
end

