-- ==== Sys2Proof/Machine/Dispatch.lean ====
section
/-! DEFINITION. One arm for each command, each one call of its meaning. -/

namespace Sys2Proof.Machine

/-- The effect of a command on everything but the queue. -/
def exec (i : Instr) (s : State) : Host.Outcome State Fault Refusal :=
  match i with
  | .ingressFrame frame => Sys2Proof.Machine.execIngressFrame frame s
  | .wordClockEdge => Sys2Proof.Machine.execWordClockEdge s
  | .bridgedSample => Sys2Proof.Machine.execBridgedSample s
  | .referenceAbsent => Sys2Proof.Machine.execReferenceAbsent s
  | .freeRunSampleEnd => Sys2Proof.Machine.execFreeRunSampleEnd s
  | .framePulse => Sys2Proof.Machine.execFramePulse s
  | .pulseAbsent => Sys2Proof.Machine.execPulseAbsent s
  | .synthesizedBoundary => Sys2Proof.Machine.execSynthesizedBoundary s
  | .loopUpdate stream => Sys2Proof.Machine.execLoopUpdate stream s
  | .gapTimeout stream => Sys2Proof.Machine.execGapTimeout stream s
  | .holdoverLimit stream => Sys2Proof.Machine.execHoldoverLimit stream s
  | .meterUpdate program => Sys2Proof.Machine.execMeterUpdate program s
  | .quietWaitExpiry program => Sys2Proof.Machine.execQuietWaitExpiry program s
  | .fadeOutEnd program => Sys2Proof.Machine.execFadeOutEnd program s
  | .fadeInEnd program => Sys2Proof.Machine.execFadeInEnd program s
  | .entryStale entry => Sys2Proof.Machine.execEntryStale entry s
  | .alarmEvaluation => Sys2Proof.Machine.execAlarmEvaluation s
  | .packetComplete program => Sys2Proof.Machine.execPacketComplete program s
  | .egressChoice => Sys2Proof.Machine.execEgressChoice s
  | .readyWithdrawn => Sys2Proof.Machine.execReadyWithdrawn s
  | .readyReturn => Sys2Proof.Machine.execReadyReturn s
  | .egressFrameEnd => Sys2Proof.Machine.execEgressFrameEnd s
  | .nop => Sys2Proof.Machine.execNop s
  | .readEntry => Sys2Proof.Machine.execReadEntry s
  | .readNext => Sys2Proof.Machine.execReadNext s
  | .writeEntry => Sys2Proof.Machine.execWriteEntry s
  | .writeNext => Sys2Proof.Machine.execWriteNext s
  | .clearEntry => Sys2Proof.Machine.execClearEntry s
  | .swapProgramBank => Sys2Proof.Machine.execSwapProgramBank s
  | .startProgram => Sys2Proof.Machine.execStartProgram s
  | .stopProgram => Sys2Proof.Machine.execStopProgram s
  | .allocateDelay => Sys2Proof.Machine.execAllocateDelay s
  | .releaseDelay => Sys2Proof.Machine.execReleaseDelay s
  | .resetStream => Sys2Proof.Machine.execResetStream s
  | .resetIntegration => Sys2Proof.Machine.execResetIntegration s
  | .acknowledge => Sys2Proof.Machine.execAcknowledge s
  | .sendLatency => Sys2Proof.Machine.execSendLatency s
  | .resetPart => Sys2Proof.Machine.execResetPart s
  | .partResetActs => Sys2Proof.Machine.execPartResetActs s
  | .powerOnReset straps => Sys2Proof.Machine.execPowerOnReset straps s

end Sys2Proof.Machine
end

