-- ==== Sys2Proof/Safety.lean ====
section
/-! DEFINITION. What a sound state of the part is: the laws the spec states of every moment, one predicate each, and the
shapes of state that the statements about single commands speak of. -/

namespace Sys2Proof.Machine

/-! ### Laws of every moment -/

/-- The bounds of the queues: orders (R168), replies with their reserved places (R163), pass-through (R5), latency
reports (R164), notices (R152), media frames (R160). -/
structure State.QueuesBounded (s : State) : Prop where
  orders : s.orders.length ≤ 8
  replies : s.replyQueue.length + s.inProgress ≤ 8
  passThrough : s.passQueue.length ≤ 16
  reports : s.reportQueue.length ≤ 16
  notices : s.notices.length ≤ 32
  media : ∀ p : Fin 16, s.programs[p].egress.queue.length ≤ 2

/-- Every block number that is somewhere: on the free list, or in a ring of a program. -/
def State.blocksHeld (s : State) : List Nat :=
  s.freeList ++ s.programs.toList.flatMap fun g => g.delay.rings.flatten

/-- Each delay block is at one place, on the free list or in one ring (R101). -/
def State.PoolPartitioned (s : State) : Prop := s.blocksHeld.Perm (List.range 2048)

/-- The fields of a Stream Table entry lie in the ranges of Table 1-3. -/
structure StreamEntry.InRange (e : StreamEntry) : Prop where
  lanes : 1 ≤ e.lanes ∧ e.lanes ≤ 16
  first : e.first ≤ 127
  targetFill : 64 ≤ e.targetFill ∧ e.targetFill ≤ 1536
  gapTimeout : 5 ≤ e.gapTimeout ∧ e.gapTimeout ≤ 500
  holdoverLimit : 1 ≤ e.holdoverLimit ∧ e.holdoverLimit ≤ 100
  gp : e.gp ≤ 64
  gi : e.gi ≤ 16

/-- A context within its bounds: the fill (R10), the loop (R34), a step no greater than three frames, and an empty buffer
while the expected sequence number is not set (R9). -/
structure Context.Bounded (c : Context) : Prop where
  fill : c.fill ≤ 2016
  integrator : -16777 ≤ c.integrator ∧ c.integrator ≤ 16777
  correction : -16777 ≤ c.correction ∧ c.correction ≤ 16777
  step : 0 ≤ c.step ∧ c.step ≤ 12884901888
  unset : c.expected = none → c.fill = 0

/-- Every stream's entry lies in its ranges and its context within its bounds. -/
def State.StreamsBounded (s : State) : Prop :=
  ∀ i : Fin 32, s.streams[i].entry.InRange ∧ s.streams[i].ctx.Bounded

/-- No two valid Stream Table entries share a key or a lane slot (R8), and no two valid Latency Table entries a reporter
id (R116). -/
structure State.NamesUnique (s : State) : Prop where
  keys : ∀ i j : Fin 32, i ≠ j → s.streams[i].entry.valid = true → s.streams[j].entry.valid = true →
    s.streams[i].entry.key ≠ s.streams[j].entry.key
  slots : ∀ (i j : Fin 32) (k : Nat), i ≠ j → s.streams[i].entry.covers k = true → s.streams[j].entry.covers k = false
  reporters : ∀ i j : Fin 64, i ≠ j → s.latencies[i].valid = true → s.latencies[j].valid = true →
    s.latencies[i].reporter ≠ s.latencies[j].reporter

/-- A trigger in ACTIVE or CLEARING that names program `p` and carries a response (R148). -/
def State.activeFor (s : State) (p : Fin 16) (response : Responses → Bool) (i : Fin 48) : Bool :=
  (decide (s.triggers[i].status.state = .active) || decide (s.triggers[i].status.state = .clearing))
    && decide (s.triggers[i].entry.target = some p) && response s.triggers[i].entry.responses

/-- Each vote count equals the number of the triggers that hold the vote (R148). -/
structure State.VotesCounted (s : State) : Prop where
  mute : ∀ p : Fin 16, s.programs[p].votes.mute = (List.finRange 48).countP (s.activeFor p (·.mute))
  freeze : ∀ p : Fin 16, s.programs[p].votes.freeze = (List.finRange 48).countP (s.activeFor p (·.freezeGain))
  hold : ∀ p : Fin 16, s.programs[p].votes.hold = (List.finRange 48).countP (s.activeFor p (·.holdIntegration))
  fallback : ∀ p : Fin 16, s.programs[p].votes.fallback = (List.finRange 48).countP (s.activeFor p (·.fallback))

/-- A program is FREE exactly while its active entry is not valid (R47), and fallback is in use exactly while its vote
count is above 0 and its active entry holds a fallback list (R54). -/
structure State.FollowsEntries (s : State) : Prop where
  free : ∀ p : Fin 16, s.programs[p].state = .free ↔ (s.activeEntry p).valid = false
  fallback : ∀ p : Fin 16, s.programs[p].fallbackInUse = true ↔
    0 < s.programs[p].votes.fallback ∧ (s.activeEntry p).fallback ≠ none

/-- The gain fields of a Program Table entry lie in the ranges of Table 3-1. -/
structure ProgramEntry.GainInRange (e : ProgramEntry) : Prop where
  maxBoost : 0 ≤ e.maxBoost
  maxCut : 0 ≤ e.maxCut
  preset : -e.maxCut ≤ e.preset ∧ e.preset ≤ e.maxBoost

/-- Every field of a Program Table entry lies in its range (Table 3-1, R44). -/
structure ProgramEntry.InRange (e : ProgramEntry) : Prop extends e.GainInRange where
  members : 1 ≤ e.members.length ∧ e.members.length ≤ 8
  fallback : ∀ l, e.fallback = some l → l.length = e.members.length
  target : -3600 ≤ e.target ∧ e.target ≤ -1000
  greatest : e.maxBoost ≤ 1200 ∧ e.maxCut ≤ 2400
  slew : 1 ≤ e.slew ∧ e.slew ≤ 100
  freezeThreshold : -7000 ≤ e.freezeThreshold ∧ e.freezeThreshold ≤ -2000
  window : 3 ≤ e.window ∧ e.window ≤ 120
  quietThreshold : -7000 ≤ e.quietThreshold ∧ e.quietThreshold ≤ -1000
  chain : e.chain.length ≤ 4 ∧ e.chain.Nodup
  offset : -100000 ≤ e.offset ∧ e.offset ≤ 1000000
  trim : -4800 ≤ e.trim ∧ e.trim ≤ 4800
  tolerance : e.tolerance ≤ 4800
  quietWait : 1 ≤ e.quietWait ∧ e.quietWait ≤ 600

/-- G lies within the limits of the active entry, and is 0 for a FREE program (R84). -/
structure State.GainsLimited (s : State) : Prop where
  entries : ∀ (which : Bank) (p : Fin 16), (s.bank which)[p].GainInRange
  gain : ∀ p : Fin 16, -(s.activeEntry p).maxCut ≤ s.programs[p].corr.gain ∧
    s.programs[p].corr.gain ≤ (s.activeEntry p).maxBoost
  free : ∀ p : Fin 16, s.programs[p].state = .free → s.programs[p].corr.gain = 0

/-- A program that is not FREE holds no ring or one for each member (R102), neither D_target nor D_actual exceeds the
smaller of its capacity and 96,000 (R124), and while a program processes house samples its read place is the write place
less the actual delay, modulo the ring length (R109). -/
structure State.DelaysHeld (s : State) : Prop where
  rings : ∀ p : Fin 16, s.programs[p].state ≠ .free →
    s.programs[p].delay.rings = [] ∨ s.programs[p].delay.rings.length = (s.activeEntry p).members.length
  target : ∀ p : Fin 16, s.programs[p].lip.target ≤ min s.programs[p].delay.capacity 96000
  actual : ∀ p : Fin 16, s.programs[p].lip.actual ≤ min s.programs[p].delay.capacity 96000
  places : ∀ p : Fin 16, s.programs[p].state.processing = true →
    s.programs[p].delay.writePlace < s.programs[p].delay.blocks * 1024 ∧
    (s.programs[p].delay.readPlace : Int) =
      ((s.programs[p].delay.writePlace : Int) - s.programs[p].lip.actual) % (s.programs[p].delay.blocks * 1024 : Nat)

/-! ### Shapes of state -/

/-- `o` is the oldest waiting order, of the kind `kind`, with the orders `before` it in progress, and the Management Unit
can take it: a reply place is free and no RESET PART awaits its reset (R163, R169). -/
structure State.OrderReady (s : State) (before : List Order) (o : Order) (after : List Order) (kind : Nat) : Prop where
  queue : s.orders = before ++ o :: after
  older : ∀ x ∈ before, x.inProgress = true
  waiting : o.inProgress = false
  ofKind : o.kind.toNat = kind
  place : s.replyQueue.length + s.inProgress < 8
  phase : s.resetPhase = .none

/-- `s` once the order between `before` and `after` has been answered: it has left the queue, the cursor is `cursor`, and
a reply that shows the other orders in its credit stands at the end of the reply queue (R168, R170). -/
def State.answered (s : State) (before : List Order) (o : Order) (after : List Order) (table : Byte) (status : Status)
    (data : List Byte) (cursor : Option Cursor) : State :=
  { s with
    orders := before ++ after
    cursor := cursor
    replyQueue := s.replyQueue ++
      [⟨replyFrame s.settings o table status (before.length + after.length) data, false⟩] }

/-- `o` names entry `i` of a table by its table id, its bank and its index (steps 1 and 2 of R172). Only PROGRAM reads the
bank; the other tables stand under the bank A here. -/
def Order.Names (o : Order) (table : Table) (which : Bank) (i : Nat) : Prop :=
  tableCodes[o.table.toNat]? = some table ∧ o.index = i ∧ i < table.size ∧
  (table = .program → bankCodes[o.bank.toNat]? = some which) ∧ (table ≠ .program → which = .a)

/-- The Management Unit takes `o` by the command `c` as a write of `n` into entry `i` of a table, and leaves `cursor`: a
WRITE ENTRY that names the entry, a WRITE NEXT that finds a write cursor there, or a CLEAR ENTRY that names it (R172,
R173, R175). The contents hold every field in its range. -/
inductive State.Writes (s : State) (before : List Order) (o : Order) (after : List Order) (table : Table) (which : Bank)
    (i : Nat) (n : NewEntry) : Instr → Option Cursor → Prop where
  | entry : s.OrderReady before o after 3 → o.Names table which i → table.writeLength ≤ o.contents.length →
      Machine.readEntry table o.contents = some n →
      s.Writes before o after table which i n .writeEntry (some ⟨true, table, which, i + 1⟩)
  | next : s.OrderReady before o after 4 → s.cursor = some ⟨true, table, which, i⟩ → i < table.size →
      table.writeLength ≤ o.contents.length → Machine.readEntry table o.contents = some n →
      s.Writes before o after table which i n .writeNext (some ⟨true, table, which, i + 1⟩)
  | clear : s.OrderReady before o after 5 → o.Names table which i → s.clearedEntry table i = some n →
      s.Writes before o after table which i n .clearEntry none

/-- `s` with one program replaced. -/
def State.putProgram (s : State) (p : Fin 16) (g : Program) : State := { s with programs := s.programs.set p g }

/-- `s` with the context of one stream replaced. -/
def State.putContext (s : State) (i : Fin 32) (c : Context) : State :=
  { s with streams := s.streams.set i ⟨s.streams[i].entry, c⟩ }

/-- None of the part's own events is due, the arbiter has nothing to choose, and no order waits. -/
structure State.NothingDue (s : State) : Prop where
  phase : s.resetPhase = .none
  orders : s.orders = []
  evaluation : s.evaluationDue = false
  windows : ∀ i : Fin 32, s.streams[i].ctx.state ≠ .track ∧ s.streams[i].ctx.state ≠ .locked ∧
    s.streams[i].ctx.state ≠ .holdover
  entries : ∀ i : Fin 64, s.latencies[i].valid = false ∧ s.latencies[i].state = .absent
  programs : ∀ p : Fin 16, s.programs[p].state = .free ∧ s.programs[p].meter.due = none ∧
    s.programs[p].egress.progress = [] ∧ s.programs[p].egress.queue = [] ∧ s.programs[p].corr.dip = .rest ∧
    s.programs[p].fallbackInUse = false ∧ s.programs[p].votes.fallback = 0
  boundary : s.house.pulse = .absent ∧ since s.house.count s.house.lastBoundary < 1920
  egress : s.replyQueue = [] ∧ s.reportQueue = [] ∧ s.notices = [] ∧ s.passQueue = []

/-- A part in service between its events: none of its own events is due, no order can be taken, the arbiter has nothing to
choose, and every program's fallback follows its condition. -/
structure State.Undisturbed (s : State) : Prop where
  phase : s.resetPhase ≠ .due
  orders : s.resetPhase = .awaiting ∨ (∀ o ∈ s.orders, o.inProgress = true) ∨ 8 ≤ s.replyQueue.length + s.inProgress
  evaluation : s.evaluationDue = false
  windows : ∀ i : Fin 32, s.streams[i].ctx.state = .track ∨ s.streams[i].ctx.state = .locked →
    s.streams[i].ctx.windowCount < 480 ∧
    since s.house.count s.streams[i].ctx.acceptTime < s.streams[i].entry.gapTimeout * 48
  holdover : ∀ i : Fin 32, s.streams[i].ctx.state = .holdover →
    since s.house.count s.streams[i].ctx.holdoverStart < s.streams[i].entry.holdoverLimit * 4800
  entries : ∀ i : Fin 64, s.latencies[i].state = .fresh → s.latencies[i].age < s.settings.staleTimeout * 48000
  subBlocks : ∀ p : Fin 16, s.programs[p].state.processing = true → s.programs[p].meter.due = none
  packets : ∀ p : Fin 16, s.programs[p].egress.progress = [] ∨
    s.programs[p].content.toNat % s.egressTable[p].packetSize ≠ 0
  dips : ∀ p : Fin 16, s.programs[p].corr.dip = .fadeOut ∨ s.programs[p].corr.dip = .fadeIn →
    s.programs[p].corr.dipCount < 240
  waits : ∀ p : Fin 16, s.programs[p].state = .running → s.programs[p].lip.move = .waiting →
    since s.house.count s.programs[p].lip.waitStart < s.programs[p].lip.waitLength
  fallback : ∀ p : Fin 16, s.programs[p].fallbackInUse = true ↔
    0 < s.programs[p].votes.fallback ∧ (s.activeEntry p).fallback ≠ none
  boundary : since s.house.count s.house.lastBoundary < if s.house.pulse = .present then 9600 else 1920
  egress : s.sending ≠ none ∨ s.ready = false ∨ ((∀ p : Fin 16, s.programs[p].egress.queue = []) ∧
    s.replyQueue = [] ∧ s.reportQueue = [] ∧ s.notices = [] ∧ s.passQueue = [])

end Sys2Proof.Machine
end

