-- ==== Sys2Proof/Certificates/Slice0/Obligations.lean ====
section
/-! DEFINITION. The statements about the part, for the provers. Each one's docstring names the rule or section of spec/ it
rests on; "log <n>" names a choice of the model's own. -/

open Sys2Proof Sys2Proof.Machine

/-! ### The machine -/

/-- One step runs the command at the front of the queue on the state with the queue's rest; an empty queue idles, which is
the model's own choice (log 4). -/
def Obligations.StepRunsFrontCommand : Prop :=
  (∀ (s : State) (c : Instr) (rest : List Instr), s.pending = c :: rest →
    step s = exec c { s with pending := rest }) ∧
  ∀ s : State, s.pending = [] → step s = .next s

/-- Every command ends in a next state and leaves the commands that wait as they were (logs 1 and 31). -/
def Obligations.CommandsLeaveQueueAlone : Prop :=
  ∀ (c : Instr) (s : State), ∃ t, exec c s = .next t ∧ t.pending = s.pending

/-- The power-on contents of the configuration tables, field by field: of a Stream Table entry (Table 1-3, R7), a Program Table
entry (Table 3-1, R43), a Latency Table entry (Table 7-1, R116), a Trigger Table entry (Table 8-1, R136), the Egress Table
entry `k` (Table 9-1, R156), and the Settings record under a strap value (Tables 1-2, 9-4 and 10-5, R6, R176). -/
def EntriesAtPowerOn : Prop :=
  StreamEntry.powerOn =
    { valid := false, key := 0x0000, rate := .r48, lanes := 1, first := 0, format := .s24, targetFill := 256,
      filter := .normal, concealment := .zero, gapTimeout := 20, holdoverLimit := 20, gp := 8, gi := 1 } ∧
  ProgramEntry.powerOn =
    { valid := false, members := [⟨0, .front⟩], fallback := none, mode := .measure, target := -2300, maxBoost := 600,
      maxCut := 1200, slew := 20, freezeThreshold := -5000, window := 30, preset := 0, quietThreshold := -6000,
      chain := [], offset := 0, trim := 0, tolerance := 240, moveMode := .dip, quietWait := 30 } ∧
  LatencyEntry.powerOn =
    { valid := false, reporter := 0, latency := none, origin := .set, lock := false, ignore := false, state := .absent,
      age := 0, changed := false } ∧
  TriggerEntry.powerOn =
    { enable := false, level2 := false, arming := none, armWindow := 0, condition := .streamLost, object := 0,
      parameter := 0, fireCount := 1, clearCount := 1, latch := false,
      responses :=
        { notice := false, mute := false, freezeGain := false, holdIntegration := false, fallback := false },
      target := none } ∧
  (∀ k : Fin 16, EgressEntry.powerOn k =
    { carrier := .raw, mac := 0xFFFFFFFFFFFF, ipv4 := 0, port := 0, key := 0x0000, packetSize := 48,
      reporter := BitVec.ofNat 32 k.val }) ∧
  ∀ straps : Byte, Settings.powerOn straps =
    { unit := if straps = 255 then 0 else straps, managementKey := 0xFF00, partEtherType := 0x9A30, ipv4 := 0,
      keyMask := 0xFFFF, foreignPass := true, otherPass := true, latencyPass := true, learn := true, staleTimeout := 5,
      noticeMac := 0xFFFFFFFFFFFF, noticeKey := 0xFF01, reportMac := 0xFFFFFFFFFFFF, reportKey := 0xFF01 }

/-- What CLEAR ENTRY writes into an entry of each table: the power-on contents, those of Settings under the strap value the
part took last, and in a Latency Table entry the fields that a write carries (R6, R7, R43, R116, R136, R156, R175). The
six tables that no order writes have nothing to clear (Table 10-3). -/
def EntriesCleared : Prop :=
  ∀ s : State,
    s.clearedEntry .settings 0 = some (.settings (.powerOn s.straps)) ∧
    (∀ i : Fin 32, s.clearedEntry .stream i.val = some (.stream .powerOn)) ∧
    (∀ p : Fin 16, s.clearedEntry .program p.val = some (.program .powerOn)) ∧
    (∀ k : Fin 16, s.clearedEntry .egress k.val = some (.egress (.powerOn k))) ∧
    (∀ i : Fin 64, s.clearedEntry .latency i.val =
      some (.latency { valid := false, reporter := 0, latency := none, lock := false, ignore := false })) ∧
    (∀ i : Fin 48, s.clearedEntry .trigger i.val = some (.trigger .powerOn)) ∧
    ∀ t ∈ [Table.streamStatus, .programStatus, .triggerStatus, .partStatus, .pool, .histogram], ∀ i : Nat,
      s.clearedEntry t i = none

/-- What reset leaves of a stream: the power-on entry (R7) and an EMPTY context with an empty buffer, s not set, no last
accepted packet, its loop at rest, an empty measurement window, its flags clear, and its watermarks and event counts at 0
(R10, R11, R18, R21, Table 2-3). -/
def StreamAtReset (t : Stream) : Prop :=
  let c := t.ctx
  t.entry = .powerOn ∧ c.state = .empty ∧ c.expected = none ∧ c.last = none ∧ c.buffer = [] ∧ c.writeIndex = 0 ∧
  c.fill = 0 ∧ c.integrator = 0 ∧ c.correction = 0 ∧ c.lastError = 0 ∧ c.lockCount = 0 ∧ c.windowSum = 0 ∧
  c.windowCount = 0 ∧ c.maxFill = 0 ∧ c.minFill = 0 ∧
  c.flags =
    { late := false, gap := false, resync := false, overrun := false, format := false, underrun := false } ∧
  c.formatCount = 0 ∧ c.underrunCount = 0

/-- The meter as Table 4-1 gives it after reset (R61, R71, R79). -/
def MeterAtReset (m : Meter) : Prop :=
  (∀ k : Fin 8, m.filters[k] = ⟨⟨0, 0, 0, 0⟩, ⟨0, 0, 0, 0⟩⟩ ∧ m.sums[k] = 0 ∧ m.peaks[k] = 0) ∧
  m.energies = [] ∧ m.subBlocks = 0 ∧ m.momentary = none ∧ m.shortTerm = none ∧ m.quiet = false ∧
  (∀ b : Fin 750, m.histogram[b] = 0) ∧ m.gate = none ∧ m.integrated = none

/-- Correction's values as Table 5-1 gives them after reset (R82, R92, R95, R99). A ramp at rest has the count 480 and its
end value as its present one (R94). -/
def CorrectionAtReset (c : Correction) : Prop :=
  c.ring = [] ∧ c.window = none ∧ c.windowGate = none ∧ c.gain = 0 ∧ c.schedule = [] ∧ c.outputGain = 0 ∧
  c.ramp.present = 1 ∧ c.ramp.finish = 1 ∧ c.ramp.count = 480 ∧ c.mute = 480 ∧ c.dip = .rest ∧ c.stop = 0 ∧ c.clips = 0

/-- What reset leaves of a program: FREE, with the indices 0, no fallback in use and the changed flag clear (R47), its meter
and its correction, no blocks (Table 6-1, R101, R109), every delay value 0 with its flags clear (R124, R126), no move and no
pending one (R132), no last reported value (R133), the send flag clear (R134), no vote (R148), and the sequence number 0, no
packet in progress, an empty packet queue and EGRESS_DROP clear (R166). -/
def ProgramAtReset (g : Program) : Prop :=
  let l := g.lip
  g.state = .free ∧ g.content = 0 ∧ g.readIndex = 0 ∧ g.fallbackInUse = false ∧ g.changed = false ∧
  MeterAtReset g.meter ∧ CorrectionAtReset g.corr ∧
  g.delay = { blocks := 0, rings := [], writePlace := 0, readPlace := 0 } ∧ g.delay.capacity = 0 ∧
  l.videoMicros = 0 ∧ l.video = 0 ∧ l.audio = 0 ∧ l.unclamped = 0 ∧ l.target = 0 ∧ l.actual = 0 ∧
  l.audioLate = false ∧ l.delayClamp = false ∧ l.move = .none ∧ l.pendingMove = false ∧ l.sendFlag = false ∧
  l.lastReported = none ∧
  g.votes = { mute := 0, freeze := 0, hold := 0, fallback := 0 } ∧
  g.egress.sequence = 0 ∧ g.egress.progress = [] ∧ g.egress.queue = [] ∧ g.egress.drop = false

/-- What reset leaves of a trigger: the power-on entry (R136), OFF with the count and the window remaining 0 (R147), the
latched and the changed flag clear, and every other item of TRIGGER STATUS as a rewrite leaves it (R138, R154). -/
def TriggerAtReset (t : Trigger) : Prop :=
  t.entry = .powerOn ∧
  t.status =
    { state := .off, count := 0, armed := false, windowRemaining := 0, lastCondition := false, lastMeasured := 0,
      latched := false, fireTotal := 0, changed := false }

/-- The notice that reset queues: STARTED, with the stamp 0 and neither trigger fields nor a measured value (R151, R153); the
absent fields are held as R182 sends them. -/
def StartedNotice : Notice :=
  { kind := .started, trigger := none, level := 0, condition := .streamLost, object := 0, target := none, measured := 0,
    responses := { notice := false, mute := false, freezeGain := false, holdIntegration := false, fallback := false },
    stamp := 0 }

/-- What reset leaves, every value that the spec gives: the count, reference and pulse (R22, R24, R26), the Settings record
(R6, R176; the strap value of State.reset is log 10), the streams as `StreamAtReset` (R7, R18) and the lane slots (R32), both
banks, the active one and no pending swap (R43, R55), the programs as `ProgramAtReset` (R47, R61, R92), the pool (R101), the
Latency Table (R116), the triggers as `TriggerAtReset` (R136, R147, R154), the notices (R153), the Egress Table and every
queue, with nothing in sending (R156, R162, R166), the orders, the cursor and the five flags (R168, R173, R178). The fields of
each entry named here are `EntriesAtPowerOn`, and what CLEAR ENTRY writes is `EntriesCleared`. -/
def Obligations.ResetValues : Prop :=
  State.reset.house.count = 0 ∧ State.reset.house.reference = .absent ∧ State.reset.house.pulse = .absent ∧
  State.reset.house.lastBoundary = 0 ∧ State.reset.settings = .powerOn State.reset.straps ∧
  (∀ i : Fin 32, StreamAtReset State.reset.streams[i]) ∧
  (∀ k : Fin 128, State.reset.slots[k] = 0) ∧
  (∀ (which : Bank) (p : Fin 16), (State.reset.bank which)[p] = .powerOn) ∧
  State.reset.activeBank = .a ∧ State.reset.swapPending = false ∧
  (∀ p : Fin 16, ProgramAtReset State.reset.programs[p]) ∧ State.reset.freeList = List.range 2048 ∧
  (∀ i : Fin 64, State.reset.latencies[i] = .powerOn) ∧
  (∀ i : Fin 48, TriggerAtReset State.reset.triggers[i]) ∧
  State.reset.notices = [StartedNotice] ∧ State.reset.lostCount = 0 ∧
  (∀ p : Fin 16, State.reset.egressTable[p] = .powerOn p) ∧
  State.reset.passQueue = [] ∧ State.reset.replyQueue = [] ∧ State.reset.reportQueue = [] ∧
  State.reset.sending = none ∧ State.reset.lastProgram = 15 ∧ State.reset.lastClass = .passThrough ∧
  State.reset.orders = [] ∧ State.reset.cursor = none ∧ State.reset.resetPhase = .none ∧
  State.reset.flags =
    { ordersDropped := false, passDropped := false, unknownReporter := false, noticesLost := false,
      reportsDropped := false } ∧
  EntriesAtPowerOn ∧ EntriesCleared

/-! ### Codes and values in bytes (Tables 11-2, 11-4, 11-5 and 11-7) -/

/-- The code of an input context state (Tables 8-2 and 11-7). -/
def contextNumber : ContextState → Nat
  | .empty => 0
  | .acquire => 1
  | .track => 2
  | .locked => 3
  | .holdover => 4
  | .lost => 5

/-- The code of a program state (Table 11-7). -/
def programNumber : ProgramState → Nat
  | .free => 0
  | .stopped => 1
  | .filling => 2
  | .running => 3
  | .stopping => 4

/-- The code of a dip state (Table 11-7). -/
def dipNumber : DipState → Nat
  | .rest => 0
  | .fadeOut => 1
  | .down => 2
  | .fadeIn => 3

/-- The code of a move state (Table 11-7). -/
def moveNumber : MoveState → Nat
  | .none => 0
  | .waiting => 1
  | .fadingOut => 2
  | .fadingIn => 3

/-- The code of a trigger state (Table 11-7). -/
def triggerNumber : TriggerState → Nat
  | .off => 0
  | .watching => 1
  | .pending => 2
  | .active => 3
  | .clearing => 4

/-- The code of the reference and the pulse state (Table 11-7). -/
def presenceNumber : Presence → Nat
  | .present => 0
  | .absent => 1

/-- The code of a notice kind (Table 11-2). -/
def noticeNumber : NoticeKind → Nat
  | .started => 0
  | .fired => 1
  | .cleared => 2
  | .withdrawn => 3

/-- The code of a status (Table 11-4). -/
def statusNumber : Status → Nat
  | .done => 0
  | .illegal => 1
  | .range => 2
  | .sequence => 3
  | .state => 4
  | .busy => 5
  | .noSpace => 6

/-- The number of a condition kind, in the order of Table 8-2. -/
def conditionNumber : Condition → Nat
  | .streamLost => 0
  | .streamHoldover => 1
  | .streamUnlocked => 2
  | .ratioLimit => 3
  | .ratioDeviation => 4
  | .underrun => 5
  | .format => 6
  | .silence => 7
  | .overload => 8
  | .clip => 9
  | .gainAtLimit => 10
  | .delayClamp => 11
  | .audioLate => 12
  | .lipsyncError => 13
  | .chainStale => 14
  | .houseRefAbsent => 15
  | .poolLow => 16

/-- Two's complement in `n` bytes. -/
def signedBytes (n : Nat) (v : Int) : List Byte := natToBytes n (v % 256 ^ n).toNat

/-- A flag in a reply: 1 byte (Table 11-5). -/
def bitByte (b : Bool) : List Byte := [if b then 1 else 0]

/-! ### Ingress (chapters 1 and 11) -/

/-- The bytes of an order frame in the raw carrier (Tables 11-1 and 11-3). -/
def orderFrame (c : Settings) (destination source : BitVec 48) (unit tag kind table which : Byte)
    (index : BitVec 16) (contents : List Byte) : List Byte :=
  natToBytes 6 destination.toNat ++ natToBytes 6 source.toNat ++ natToBytes 2 c.partEtherType.toNat
    ++ [1#8, 2#8] ++ natToBytes 2 c.managementKey.toNat ++ [unit, tag, kind, table, which]
    ++ natToBytes 2 index.toNat ++ contents

/-- Where the part header of a frame starts: after the EtherType in the raw carrier, after the UDP header in the UDP
carrier; none for a frame that passes neither test or is too short to hold the header whole (R1). -/
def headerPlace (c : Settings) (frame : List Byte) : Option Nat :=
  let words := fieldAt frame 14 1 % 16
  let destination := fieldAt frame 30 4
  let whole (place : Nat) : Option Nat := if place + 4 ≤ frame.length then some place else none
  if fieldAt frame 12 2 = c.partEtherType.toNat then whole 14
  else if 34 ≤ frame.length ∧ fieldAt frame 12 2 = 0x0800 ∧ fieldAt frame 14 1 / 16 = 4 ∧ 5 ≤ words ∧
      fieldAt frame 23 1 = 17 ∧ fieldAt frame 20 2 % 0x4000 = 0 ∧
      ((c.ipv4 ≠ 0 ∧ destination = c.ipv4.toNat) ∨ (0xE0000000 ≤ destination ∧ destination ≤ 0xEFFFFFFF)) then
    whole (14 + 4 * words + 8)
  else none

/-- `s` once `frame` has been offered to the pass-through queue (R5). -/
def offered (frame : List Byte) (s : State) : State :=
  if s.passQueue.length < 16 then { s with passQueue := s.passQueue ++ [frame] }
  else { s with flags := { s.flags with passDropped := true } }

/-- An order frame to this unit joins the order queue with the fields of its header, and nothing else changes; one to unit
255 is offered to the pass-through queue as well (R4, R5). The same holds of every order frame in either carrier, with the
path its reply takes back: one under the management key to this unit or to unit 255 joins the queue or is dropped with
ORDERS_DROPPED, and one to another unit, or to unit 255 under another key, is offered to the pass-through queue (R1, R3,
R4). That an order's contents run to the end of its frame, padding included, is log 27. -/
def Obligations.OrderFrameJoinsQueue : Prop :=
  (∀ (s : State) (destination source : BitVec 48) (tag kind table which : Byte) (index : BitVec 16)
    (contents : List Byte),
    let o : Order := ⟨⟨.raw, source, 0, 0, 0⟩, tag, kind, table, which, index.toNat, contents, false⟩
    s.orders.length < 8 →
    (exec (.ingressFrame (orderFrame s.settings destination source s.settings.unit tag kind table which index contents)) s =
      .next { s with orders := s.orders ++ [o] }) ∧
    (s.settings.unit ≠ 255 → s.passQueue.length < 16 →
      let frame := orderFrame s.settings destination source 255 tag kind table which index contents
      exec (.ingressFrame frame) s = .next { s with orders := s.orders ++ [o], passQueue := s.passQueue ++ [frame] })) ∧
  ∀ (s : State) (frame : List Byte) (off : Nat),
    headerPlace s.settings frame = some off → fieldAt frame off 1 = 1 → fieldAt frame (off + 1) 1 = 2 →
    off + 11 ≤ frame.length →
    let key := wordAt 16 frame (off + 2) 2
    let unit := wordAt 8 frame (off + 4) 1
    let mac := wordAt 48 frame 6 6
    let path : ReplyPath := if off = 14 then ⟨.raw, mac, 0, 0, 0⟩
      else ⟨.udp, mac, wordAt 32 frame 26 4, wordAt 16 frame (off - 8) 2, wordAt 16 frame (off - 6) 2⟩
    let o : Order := ⟨path, wordAt 8 frame (off + 5) 1, wordAt 8 frame (off + 6) 1, wordAt 8 frame (off + 7) 1,
      wordAt 8 frame (off + 8) 1, fieldAt frame (off + 9) 2, frame.drop (off + 11), false⟩
    let joined : State := if s.orders.length < 8 then { s with orders := s.orders ++ [o] }
      else { s with flags := { s.flags with ordersDropped := true } }
    (unit = s.settings.unit → key = s.settings.managementKey → exec (.ingressFrame frame) s = .next joined) ∧
    (unit = 255 → unit ≠ s.settings.unit → key = s.settings.managementKey →
      exec (.ingressFrame frame) s = .next (offered frame joined)) ∧
    (unit ≠ s.settings.unit → unit ≠ 255 ∨ key ≠ s.settings.managementKey →
      exec (.ingressFrame frame) s = .next (offered frame s))

/-- An order frame that finds the order queue full, and one shorter than the order header, is dropped with ORDERS_DROPPED
and changes nothing else (R4). The short ones are given for both carriers, whatever unit number and key they hold as far as
they reach (R1, R180, R181); that padding counts to the length is log 27. -/
def Obligations.OrderFrameDropped : Prop :=
  (∀ (s : State) (destination source : BitVec 48),
    (∀ (tag kind table which : Byte) (index : BitVec 16) (contents : List Byte), 8 ≤ s.orders.length →
      exec (.ingressFrame (orderFrame s.settings destination source s.settings.unit tag kind table which index contents)) s =
        .next { s with flags := { s.flags with ordersDropped := true } }) ∧
    (∀ (key : BitVec 16) (short : List Byte), short.length < 7 →
      exec (.ingressFrame (natToBytes 6 destination.toNat ++ natToBytes 6 source.toNat
        ++ natToBytes 2 s.settings.partEtherType.toNat ++ [1#8, 2#8] ++ natToBytes 2 key.toNat ++ short)) s =
        .next { s with flags := { s.flags with ordersDropped := true } })) ∧
  ∀ (s : State) (frame : List Byte) (off : Nat),
    headerPlace s.settings frame = some off → fieldAt frame off 1 = 1 → fieldAt frame (off + 1) 1 = 2 →
    frame.length < off + 11 →
    exec (.ingressFrame frame) s = .next { s with flags := { s.flags with ordersDropped := true } }

/-- The frames of class OTHER: those in neither carrier, those of a version or kind the part does not use, latency reports
too short for their report, and orders to this unit under another key (R1, R2, R3, R4). -/
def IsOther (c : Settings) (frame : List Byte) : Prop :=
  ∀ off : Nat, headerPlace c frame = some off →
    fieldAt frame off 1 ≠ 1 ∨ fieldAt frame (off + 1) 1 ∉ [1, 2, 4] ∨
    (fieldAt frame (off + 1) 1 = 4 ∧ frame.length < off + 13) ∨
    (fieldAt frame (off + 1) 1 = 2 ∧ off + 11 ≤ frame.length ∧ wordAt 8 frame (off + 4) 1 = c.unit ∧
      wordAt 16 frame (off + 2) 2 ≠ c.managementKey)

/-- A frame of class OTHER, such as one in neither carrier, joins the pass-through queue unchanged with the other pass
switch on, or sets PASS_DROPPED where the queue holds 16 frames; with the switch off it is discarded. A FOREIGN frame, a
media frame whose masked key no valid stream holds, does the same under the foreign pass switch (R1, R2, R3, R5). -/
def Obligations.StrangeFramePassesOrVanishes : Prop :=
  ∀ (s : State) (frame : List Byte),
    (14 ≤ frame.length → wordAt 16 frame 12 2 ≠ s.settings.partEtherType → wordAt 16 frame 12 2 ≠ 0x0800#16 →
      exec (.ingressFrame frame) s =
        if s.settings.otherPass = true then
          if s.passQueue.length < 16 then .next { s with passQueue := s.passQueue ++ [frame] }
          else .next { s with flags := { s.flags with passDropped := true } }
        else .next s) ∧
    (IsOther s.settings frame →
      exec (.ingressFrame frame) s = .next (if s.settings.otherPass = true then offered frame s else s)) ∧
    ∀ off : Nat, headerPlace s.settings frame = some off → fieldAt frame off 1 = 1 → fieldAt frame (off + 1) 1 = 1 →
      (∀ i : Fin 32, s.streams[i].entry.valid = true →
        s.streams[i].entry.key ≠ wordAt 16 frame (off + 2) 2 &&& s.settings.keyMask) →
      exec (.ingressFrame frame) s = .next (if s.settings.foreignPass = true then offered frame s else s)

/-- The bytes of a latency report frame in the raw carrier (Tables 11-1 and 11-2). -/
def reportOf (c : Settings) (destination source : BitVec 48) (key : BitVec 16) (unit : Byte) (reporter micros : BitVec 32)
    (padding : List Byte) : List Byte :=
  natToBytes 6 destination.toNat ++ natToBytes 6 source.toNat ++ natToBytes 2 c.partEtherType.toNat
    ++ [1#8, 4#8] ++ natToBytes 2 key.toNat ++ [unit] ++ natToBytes 4 reporter.toNat ++ natToBytes 4 micros.toNat ++ padding

/-- A frame that reports `micros` for `reporter` refreshes the valid entry that holds the reporter id, as its lock field and
value decide; where the value differs after it, the programs whose chain names the entry have their target computed again,
and nothing else changes (R117, R125). Where no valid entry matches, the lowest entry that is not valid learns it, and the
programs whose chain names that entry have their target computed again; with the learn switch off, or with every entry
valid, UNKNOWN_REPORTER is set instead (R118). In each case the frame passes on as the latency pass switch says (R3, R5). -/
def ReportTaken (s : State) (frame : List Byte) (reporter micros : BitVec 32) : Prop :=
  let value := min micros.toNat 1000000
  let passed (u : State) : State := if s.settings.latencyPass = true then offered frame u else u
  (∀ i : Fin 64, s.latencies[i].valid = true → s.latencies[i].reporter = reporter →
    (∀ j : Fin 64, j < i → s.latencies[j].valid = true → s.latencies[j].reporter ≠ reporter) →
    let x := s.latencies[i]
    let y : LatencyEntry :=
      if x.lock = false then { x with
        latency := some value, origin := .captured, state := .fresh, age := 0
        changed := x.changed || decide (x.latency ≠ some value) }
      else if x.latency ≠ none then { x with state := .fresh, age := 0 }
      else { x with age := 0 }
    let refreshed : State := { s with latencies := s.latencies.set i y }
    ∃ t, exec (.ingressFrame frame) s = .next (passed t) ∧ t = { refreshed with programs := t.programs } ∧
      ∀ p : Fin 16, t.programs[p] =
        if y.latency ≠ x.latency ∧ i ∈ (s.activeEntry p).chain then (refreshed.recompute p).programs[p]
        else s.programs[p]) ∧
  ((∀ j : Fin 64, s.latencies[j].valid = true → s.latencies[j].reporter ≠ reporter) →
    (∀ i : Fin 64, s.settings.learn = true → s.latencies[i].valid = false →
      (∀ j : Fin 64, j < i → s.latencies[j].valid = true) →
      let entry : LatencyEntry := ⟨true, reporter, some value, .captured, false, false, .fresh, 0, true⟩
      let learned : State := { s with latencies := s.latencies.set i entry }
      ∃ t, exec (.ingressFrame frame) s = .next (passed t) ∧ t = { learned with programs := t.programs } ∧
        ∀ p : Fin 16, t.programs[p] =
          if i ∈ (s.activeEntry p).chain then (learned.recompute p).programs[p] else s.programs[p]) ∧
    (s.settings.learn = false ∨ (∀ j : Fin 64, s.latencies[j].valid = true) →
      exec (.ingressFrame frame) s = .next (passed { s with flags := { s.flags with unknownReporter := true } })))

/-- A latency report refreshes the valid entry that holds its reporter id, is learned by the lowest entry that is not
valid, or sets UNKNOWN_REPORTER, and passes on as the latency pass switch says, as `ReportTaken` gives (R3, R5, R117, R118,
R125). Every frame of version 1 and kind 4 that holds its report whole is one, in either carrier: the reporter id stands 5
bytes and the latency 9 bytes after the start of the part header (R1, R180, R182). -/
def Obligations.LatencyReportRefreshes : Prop :=
  (∀ (s : State) (destination source : BitVec 48) (key : BitVec 16) (unit : Byte) (reporter micros : BitVec 32)
    (padding : List Byte),
    ReportTaken s (reportOf s.settings destination source key unit reporter micros padding) reporter micros) ∧
  ∀ (s : State) (frame : List Byte) (off : Nat),
    headerPlace s.settings frame = some off → fieldAt frame off 1 = 1 → fieldAt frame (off + 1) 1 = 4 →
    off + 13 ≤ frame.length →
    ReportTaken s frame (wordAt 32 frame (off + 5) 4) (wordAt 32 frame (off + 9) 4)

/-- What a packet at distance 32768 to 65535 does, and that a repeat of the last accepted packet has distance 65535:
nothing but the LATE flag (R17). When a frame belongs to a stream, and what its bytes hold, is O10's `MediaFramesRead`. -/
def Obligations.LatePacketDiscarded : Prop :=
  (∀ (s : State) (frame content : List Byte) (i : Fin 32) (m : MediaPacket) (expected : BitVec 16),
    s.classify frame = .media i content → readMedia content = some m → m.formatOk s.streams[i].entry = true →
    s.streams[i].ctx.state ≠ .lost → s.streams[i].ctx.expected = some expected →
    32768 ≤ (m.sequence - expected).toNat →
    exec (.ingressFrame frame) s =
      .next (s.putContext i { s.streams[i].ctx with flags := { s.streams[i].ctx.flags with late := true } })) ∧
  ∀ expected : BitVec 16, (expected - 1 - expected).toNat = 65535

/-- What a packet at distance 33 to 32767 does: the buffer is flushed, the state becomes ACQUIRE, the packet's frames are
the first of the new fill, s is seq + 1, RESYNC is set and I_r, δ and e are kept (R16; the watermarks R11). When a frame
belongs to a stream, and what its bytes hold, is O10's `MediaFramesRead`. That the start of holdover keeps its value is
log 43, and that pos, the step, the last produced sample and the stall count do log 46. -/
def Obligations.ResyncRestartsAcquisition : Prop :=
  ∀ (s : State) (frame content : List Byte) (i : Fin 32) (m : MediaPacket) (expected : BitVec 16),
    let e := s.streams[i].entry
    let c := s.streams[i].ctx
    s.classify frame = .media i content → readMedia content = some m → m.formatOk e = true →
    64 ≤ e.targetFill → c.state ≠ .lost → c.expected = some expected →
    33 ≤ (m.sequence - expected).toNat → (m.sequence - expected).toNat ≤ 32767 →
    exec (.ingressFrame frame) s = .next (s.putContext i { c with
      state := .acquire, expected := some (m.sequence + 1), last := some ⟨m.frames, (m.decoded e).getLastD []⟩
      acceptTime := s.house.count, buffer := m.decoded e, writeIndex := BitVec.ofNat 32 m.frames
      lockCount := 0, windowSum := 0, windowCount := 0
      maxFill := max c.maxFill m.frames, minFill := 0, flags := { c.flags with resync := true } })

/-- What an accepted packet makes of a context: the frames of `concealed` and then the packet's own are written, s, the last
packet and the acceptance time follow, HOLDOVER ends, and ACQUIRE is left once the fill has reached T + N/2, with pos at the
write index less T, the step of the correction held, and the newest T + 32 frames (R10, R11, R13, R19, R27, R38, R40). That
the start of holdover keeps its value is log 43. -/
def accepted (e : StreamEntry) (now : BitVec 48) (m : MediaPacket) (concealed : List (List Sample)) (c : Context) : Context :=
  let fill := c.fill + concealed.length + m.frames
  let written : Context := { c with
    buffer := c.buffer ++ concealed ++ m.decoded e
    writeIndex := c.writeIndex + BitVec.ofNat 32 (concealed.length + m.frames)
    expected := some (m.sequence + 1), last := some ⟨m.frames, (m.decoded e).getLastD []⟩, acceptTime := now
    maxFill := max c.maxFill fill
    minFill := min c.minFill (if concealed = [] then fill else c.fill + concealed.length) }
  let entered : Context := { written with
    state := .track, lockCount := 0, windowSum := 0, windowCount := 0, produced := [], stalled := 0 }
  if c.state = .holdover then entered
  else if c.state = .acquire ∧ e.targetFill + e.taps / 2 ≤ fill then
    { entered with
      pos := (written.writeIndex - BitVec.ofNat 32 e.targetFill).setWidth 64 <<< 32
      step := e.rate.nominalStep + ⌊(e.rate.nominalStep * c.correction : ℚ) / 16777216⌋
      buffer := written.buffer.drop (written.buffer.length - (e.targetFill + 32))
      maxFill := max written.maxFill e.targetFill, minFill := min written.minFill e.targetFill }
  else written

/-- A media frame of version 1 belongs to the stream whose valid entry holds its masked key (the first such entry; R8 leaves
one), and what follows the part header is its content (R2, R3). The content's fields stand where Table 11-2 puts them, most
significant byte first, and the samples stand from byte 10 on (R180, R182). The format test compares the fields with the
entry and asks for all samples (R12). The decoded packet holds its frames in order, each with one sample for each lane in
lane order: a 24-bit number, or a 16-bit one times 256 (R10, R182). -/
def MediaFramesRead : Prop :=
  (∀ (s : State) (frame content : List Byte) (i : Fin 32),
    s.classify frame = .media i content ↔
      ∃ off : Nat, headerPlace s.settings frame = some off ∧ fieldAt frame off 1 = 1 ∧ fieldAt frame (off + 1) 1 = 1 ∧
        content = frame.drop (off + 4) ∧
        (let owns (j : Fin 32) : Prop := s.streams[j].entry.valid = true ∧
          s.streams[j].entry.key = wordAt 16 frame (off + 2) 2 &&& s.settings.keyMask
        owns i ∧ ∀ j : Fin 32, j < i → ¬ owns j)) ∧
  (∀ (content : List Byte) (m : MediaPacket),
    let byte (k : Nat) : Nat := (content.getD k 0).toNat
    readMedia content = some m ↔ 10 ≤ content.length ∧
      m = ⟨BitVec.ofNat 16 (256 * byte 0 + byte 1), byte 2, byte 3, byte 4, byte 5, content.drop 10⟩) ∧
  ∀ (e : StreamEntry) (m : MediaPacket),
    let rateCode : Nat := match e.rate with
      | .r44 => 0
      | .r48 => 1
      | .r88 => 2
      | .r96 => 3
    let formatCode : Nat := match e.format with
      | .s16 => 0
      | .s24 => 1
    let bytes : Nat := match e.format with
      | .s16 => 2
      | .s24 => 3
    (m.formatOk e = true ↔ m.rate = rateCode ∧ m.lanes = e.lanes ∧ m.format = formatCode ∧ 1 ≤ m.frames ∧ m.frames ≤ 64 ∧
      m.frames * e.lanes * bytes ≤ m.samples.length) ∧
    (m.formatOk e = true → m.decoded e = (List.range m.frames).map fun k => (List.range e.lanes).map fun j =>
      let byte (n : Nat) : Nat := (m.samples.getD ((k * e.lanes + j) * bytes + n) 0).toNat
      match e.format with
      | .s16 => BitVec.ofNat 24 ((256 * byte 0 + byte 1) * 256)
      | .s24 => BitVec.ofNat 24 (65536 * byte 0 + 256 * byte 1 + byte 2))

/-- A packet in order or after a gap of up to 32 packets: admitted where the fill leaves room, with the gap's concealment
before it as far as it fits, and refused with OVERRUN where it does not; a gap sets GAP in either case. Acceptance ends
HOLDOVER, and ACQUIRE once the fill has reached T + N/2. The first packet in ACQUIRE is accepted whatever its number, and
in LOST after a flush. A packet that fails the format test sets FORMAT, is counted, and does nothing else (R12, R13, R14,
R15, R19, R20, R38). When a frame belongs to a stream, and what its bytes hold, is `MediaFramesRead` (R2, R3, R10, R12,
R182). What TRACK begins with beside the lock count, the window, pos and the step is log 15; the count d of missing packets
is that of log 33; that the start of holdover keeps its value once HOLDOVER is left is log 43, and that after a flush pos, the
step, the last produced sample and the stall count stay until TRACK log 46. -/
def Obligations.InOrderPacketWritten : Prop :=
  MediaFramesRead ∧
  ∀ (s : State) (frame content : List Byte) (i : Fin 32),
    let e := s.streams[i].entry
    let c := s.streams[i].ctx
    let now := s.house.count
    s.classify frame = .media i content →
    (∀ m : MediaPacket, readMedia content = some m → m.formatOk e = true →
      (c.state = .acquire → e.targetFill ≤ 1536) →
      (∀ d : Nat, d ≤ 32 → c.expected = some (m.sequence - BitVec.ofNat 16 d) →
        c.state = .acquire ∨ c.state = .track ∨ c.state = .locked ∨ c.state = .holdover →
        let last := c.last.getD ⟨0, []⟩
        let concealment : List Sample := match e.concealment with
          | .zero => List.replicate e.lanes 0
          | .holdFade => last.lastFrame
        let seen : Context := { c with flags := { c.flags with gap := c.flags.gap || decide (d ≠ 0) } }
        (c.fill + m.frames ≤ 2016 → exec (.ingressFrame frame) s = .next (s.putContext i
          (accepted e now m (List.replicate (min (d * last.frames) (2016 - c.fill - m.frames)) concealment) seen))) ∧
        (2016 < c.fill + m.frames → exec (.ingressFrame frame) s = .next (s.putContext i { seen with
          expected := some (m.sequence + 1), flags := { seen.flags with overrun := true } }))) ∧
      (c.state = .acquire → c.expected = none → c.fill = 0 →
        exec (.ingressFrame frame) s = .next (s.putContext i (accepted e now m [] c))) ∧
      (c.state = .lost → e.targetFill ≤ 1536 →
        exec (.ingressFrame frame) s = .next (s.putContext i (accepted e now m [] { c with
          state := .acquire, buffer := [], writeIndex := 0, lockCount := 0, windowSum := 0, windowCount := 0
          minFill := 0 })))) ∧
    (let frames := fieldAt content 5 1
     let bytes : Nat := match e.format with
       | .s16 => 2
       | .s24 => 3
     content.length < 10 ∨ rateCodes[fieldAt content 2 1]? ≠ some e.rate ∨ fieldAt content 3 1 ≠ e.lanes ∨
         formatCodes[fieldAt content 4 1]? ≠ some e.format ∨ frames = 0 ∨ 64 < frames ∨
         content.length < 10 + frames * e.lanes * bytes →
      exec (.ingressFrame frame) s = .next (s.putContext i { c with
        flags := { c.flags with format := true }, formatCount := min 65535 (c.formatCount + 1) }))

/-! ### Rate conversion and house timing (chapter 2) -/

/-- Each coefficient of a set is the integer nearest to the raw value of R28 at its distance t, with the difference between
2²³ and the sum of the rounded values added at k = N/2 − 1, or at k = N/2 above phase 32. The model's raw values are
followed to a distance of 10^−30 from a tie (log 13). -/
def RomFilled : Prop :=
  ∀ taps ∈ ([16, 32, 64] : List Nat), ∀ phase : Nat, phase ≤ 64 → ∃ rounded : Nat → ℤ,
    (∀ k : Nat, k < taps →
      let t : ℝ := (k : ℝ) - (taps / 2 : Nat) + 1 - (phase : ℝ) / 64
      let angle : ℝ := Real.pi * t / ((taps / 2 : Nat) + 1)
      let quotient : ℝ := if t = 0 then 0.9 else Real.sin (0.9 * Real.pi * t) / (Real.pi * t)
      let raw : ℝ := 2 ^ 23 * quotient * (0.42 + 0.5 * Real.cos angle + 0.08 * Real.cos (2 * angle))
      |(rounded k : ℝ) - raw| ≤ 1 / 2 + 1 / 10 ^ 30) ∧
    romSet taps phase = (List.range taps).map fun k =>
      if k = (if phase ≤ 32 then taps / 2 - 1 else taps / 2) then
        rounded k + (8388608 - ((List.range taps).map rounded).sum)
      else rounded k

/-- The coefficient ROM is filled as `RomFilled` gives, and every set, the end set included, holds N coefficients that sum
to 2²³. A lane is converted to ((1024 − f) × A + f × B) ÷ 2³³, rounded half up and saturated, for the sums A and B of the
products of its frames with the two sets; a lane whose N frames all hold the same value produces exactly that value at every
phase and weight (R28). The precision of the raw coefficients is log 13. -/
def Obligations.ConstantLaneConvertsToItself : Prop :=
  RomFilled ∧
  (∀ (setA setB frames : List Int) (f : Nat),
    let sum (set : List Int) : Int := (List.zipWith (· * ·) set frames).sum
    convertLane setA setB f frames = BitVec.ofInt 24 (max (-8388608) (min 8388607
      ⌊(((1024 - (f : Int)) * sum setA + f * sum setB : Int) : ℚ) / 2 ^ 33 + 1 / 2⌋))) ∧
  (∀ taps ∈ [16, 32, 64], ∀ phase ≤ 64, (romSet taps phase).length = taps ∧ (romSet taps phase).sum = 8388608) ∧
  ∀ taps ∈ [16, 32, 64], ∀ phase < 64, ∀ weight < 1024, ∀ x : Sample,
    convertLane (romSet taps phase) (romSet taps (phase + 1)) weight (List.replicate taps x.toInt) = x

/-- The loop update and the lock test, at a full window (R34, R35, with the step of R27 and the emptied window of R33). That
the fall from LOCKED to TRACK keeps the last produced sample and the stall count is log 15. With the window below 480, or in
a state other than TRACK and LOCKED, the command changes nothing, which is log 2. -/
def Obligations.LoopUpdateResult : Prop :=
  ∀ (s : State) (i : Fin 32),
    let e := s.streams[i].entry
    let c := s.streams[i].ctx
    let err : Int := max (-1024) (min 1024 ((c.windowSum / 480 : Nat) - (e.targetFill : Int)))
    let integrator : Int := max (-16777) (min 16777 (c.integrator + err * e.gi))
    let correction : Int := max (-16777) (min 16777 (err * e.gp + integrator))
    let near : Bool := decide (err.natAbs ≤ 32)
    let count : Nat := if near then c.lockCount + 1 else 0
    let looped : Context := { c with
      lastError := err, integrator := integrator, correction := correction
      step := e.rate.nominalStep + ⌊(e.rate.nominalStep * correction : ℚ) / 16777216⌋
      windowSum := 0, windowCount := 0 }
    (480 ≤ c.windowCount →
      (c.state = .track →
        exec (.loopUpdate i.val) s = .next (s.putContext i { looped with
          lockCount := count, state := if 8 ≤ count then .locked else .track })) ∧
      (c.state = .locked →
        exec (.loopUpdate i.val) s = .next (s.putContext i
          (if 256 < err.natAbs then { looped with lockCount := 0, state := .track }
          else { looped with lockCount := count })))) ∧
    (c.windowCount < 480 ∨ (c.state ≠ .track ∧ c.state ≠ .locked) → exec (.loopUpdate i.val) s = .next s)

/-- A context in TRACK or LOCKED enters HOLDOVER once no packet has been accepted for the gap timeout, and one in HOLDOVER
enters LOST at its limit; before that, and in other states, the command changes nothing (R36, R39; log 2). The start of
holdover is not kept in LOST (R39); that it then holds 0 is log 43, and that the step, the last produced sample and the stall
count stay in LOST log 46. -/
def Obligations.HoldoverAndLost : Prop :=
  ∀ (s : State) (i : Fin 32),
    let e := s.streams[i].entry
    let c := s.streams[i].ctx
    (c.state = .track ∨ c.state = .locked → e.gapTimeout * 48 ≤ (s.house.count - c.acceptTime).toNat →
      exec (.gapTimeout i.val) s = .next (s.putContext i { c with
        state := .holdover, lockCount := 0, windowSum := 0, windowCount := 0, holdoverStart := s.house.count })) ∧
    ((c.state ≠ .track ∧ c.state ≠ .locked) ∨ (s.house.count - c.acceptTime).toNat < e.gapTimeout * 48 →
      exec (.gapTimeout i.val) s = .next s) ∧
    (c.state = .holdover → e.holdoverLimit * 4800 ≤ (s.house.count - c.holdoverStart).toNat →
      exec (.holdoverLimit i.val) s = .next (s.putContext i { c with state := .lost, holdoverStart := 0 })) ∧
    (c.state ≠ .holdover ∨ (s.house.count - c.holdoverStart).toNat < e.holdoverLimit * 4800 →
      exec (.holdoverLimit i.val) s = .next s)

/-- Each of the three ways in which a house sample ends raises the count by 1, a word clock edge makes the reference
PRESENT and the two others leave it; 1 ms without an edge makes it ABSENT and changes nothing else (R22 to R24). The rest
is the model's: a bridged sample ends in PRESENT only and a free-running one in ABSENT only, the undue one changing nothing
(log 2); a RESET PART that is due acts first, so that the count starts from 0 (log 3); the end of a house sample clears the
mark of a boundary handed over (log 5); and the millisecond is measured outside, its command reporting it (log 6). -/
def Obligations.HouseSampleCounts : Prop :=
  ∀ s : State,
    let from_ : BitVec 48 := if s.resetPhase = .due then 0 else s.house.count
    (∃ t, exec .wordClockEdge s = .next t ∧ t.house.count = from_ + 1 ∧ t.house.reference = .present ∧
      t.house.boundaryMade = false) ∧
    (s.house.reference = .present → ∃ t, exec .bridgedSample s = .next t ∧ t.house.count = from_ + 1 ∧
      (s.resetPhase ≠ .due → t.house.reference = .present)) ∧
    (s.house.reference = .absent → ∃ t, exec .freeRunSampleEnd s = .next t ∧ t.house.count = from_ + 1 ∧
      t.house.reference = .absent) ∧
    (s.house.reference = .absent → exec .bridgedSample s = .next s) ∧
    (s.house.reference = .present → exec .freeRunSampleEnd s = .next s) ∧
    exec .referenceAbsent s = .next { s with house := { s.house with reference := .absent } }

/-- Lane `j` of the frame with the write index `w` (R10); a frame that is not held reads as 0 (log 28). -/
def frameLane (c : Context) (w : BitVec 32) (j : Nat) : Int :=
  let back := (c.writeIndex - w).toNat
  if back ≤ c.buffer.length then ((c.buffer.getD (c.buffer.length - back) []).getD j 0).toInt else 0

/-- What a stream gives its lanes at one house sample, and the context it is left with: converted samples from the frames
i − N/2 + 1 to i + N/2 and an advance of pos where those frames are present, concealment and a count where they are not, and
nothing outside TRACK, LOCKED and HOLDOVER (R28 to R31, R33). The value of `convertLane` and the coefficients are O11's. -/
def sampleOf (e : StreamEntry) (c : Context) : List Sample × Context :=
  let n := e.taps
  let i : BitVec 32 := (c.pos >>> 32).setWidth 32
  let phase := c.pos.toNat / 67108864 % 64
  let weight := c.pos.toNat / 65536 % 1024
  let measured (x : Context) : Context := if c.state = .holdover then x
    else { x with windowSum := c.windowSum + x.fill, windowCount := c.windowCount + 1 }
  if c.state ≠ .track ∧ c.state ≠ .locked ∧ c.state ≠ .holdover then ([], c)
  else if n / 2 < c.fill then
    let out := (List.range e.lanes).map fun j => convertLane (romSet n phase) (romSet n (phase + 1)) weight
      ((List.range n).map fun k => frameLane c (i - BitVec.ofNat 32 (n / 2) + 1 + BitVec.ofNat 32 k) j)
    let pos := c.pos + BitVec.ofInt 64 c.step
    let fill := (c.writeIndex - (pos >>> 32).setWidth 32).toNat
    (out, measured { c with
      pos := pos, produced := out, stalled := 0, buffer := c.buffer.drop (c.buffer.length - (fill + 32))
      maxFill := max c.maxFill fill, minFill := min c.minFill fill })
  else
    let k := min 480 (c.stalled + 1)
    ((List.range e.lanes).map fun j => match e.concealment with
      | .zero => 0
      | .holdFade => BitVec.ofInt 24 ⌊((c.produced.getD j 0).toInt * (480 - k) : ℚ) / 480 + 1 / 2⌋,
    measured { c with
      flags := { c.flags with underrun := true }, stalled := k
      underrunCount := if c.stalled = 0 then min 65535 (c.underrunCount + 1) else c.underrunCount })

/-- What a house sample makes of `s` before the programs take theirs: each stream converts, advances, stalls or conceals,
each slot carries the sample of the stream that covers it, or 0, the ages of the valid Latency Table entries rise by 1, and
nothing else changes (R28 to R33, R119). -/
def SlotsFilled (s u : State) : Prop :=
  u = { s with streams := u.streams, slots := u.slots, latencies := u.latencies } ∧
  (∀ i : Fin 32, s.streams[i].ctx.fill ≤ 2016 →
    u.streams[i] = ⟨s.streams[i].entry, (sampleOf s.streams[i].entry s.streams[i].ctx).2⟩) ∧
  (∀ (k : Fin 128) (i : Fin 32), s.streams[i].ctx.fill ≤ 2016 → s.streams[i].entry.covers k.val = true →
    (∀ j : Fin 32, j ≠ i → s.streams[j].entry.covers k.val = false) →
    u.slots[k] = (sampleOf s.streams[i].entry s.streams[i].ctx).1.getD (k.val - s.streams[i].entry.first) 0) ∧
  (∀ k : Fin 128, (∀ j : Fin 32, s.streams[j].entry.covers k.val = false) → u.slots[k] = 0) ∧
  (∀ i : Fin 64, u.latencies[i] = if s.latencies[i].valid = true then { s.latencies[i] with age := s.latencies[i].age + 1 }
    else s.latencies[i])

/-- `s` after the commands `cs`, one after another. -/
def afterCommands (cs : List Instr) (s : State) : State :=
  cs.foldl (fun t c => match exec c t with
    | .next u => u
    | .fault _ | .refused _ => t) s

/-- The commands of the part's own events in the order in which a house sample that finds them due makes them: the
streams, the Latency Table, the programs, the boundary and the evaluation (log 3). One that is not due changes nothing
(log 2). -/
def eventCommands : List Instr :=
  (List.range 32).flatMap (fun i => [.loopUpdate i, .gapTimeout i, .holdoverLimit i])
    ++ (List.range 64).map .entryStale
    ++ (List.range 16).flatMap (fun p =>
      [.meterUpdate p, .packetComplete p, .fadeOutEnd p, .fadeInEnd p, .quietWaitExpiry p])
    ++ [.pulseAbsent, .synthesizedBoundary, .alarmEvaluation]

/-- The commands by which the Management Unit takes an order, in the order of their kinds (Table 11-4). -/
def orderCommands : List Instr :=
  [.nop, .readEntry, .readNext, .writeEntry, .writeNext, .clearEntry, .swapProgramBank, .startProgram, .stopProgram,
    .allocateDelay, .releaseDelay, .resetStream, .resetIntegration, .acknowledge, .sendLatency, .resetPart]

/-- `t` is `s` once the Management Unit has taken orders until it can take none: a RESET PART awaits its reset, none waits,
or no reply place is free (R169). An order of unknown kind goes by whichever of the commands comes (log 16). -/
def OrdersTaken (s t : State) : Prop :=
  (∃ cs : List Instr, (∀ c ∈ cs, c ∈ orderCommands) ∧ t = afterCommands cs s) ∧
  (t.resetPhase ≠ .none ∨ (∀ o ∈ t.orders, o.inProgress = true) ∨ 8 ≤ t.replyQueue.length + t.inProgress)

/-- A house sample that ends at `s` does its work on `w`: the slots are filled, fallback follows its condition, the programs
take their house sample, and the count rises (R22, R32, R49, R54, R143; logs 5 and 7). -/
def HouseSampleOn (s w : State) : Prop :=
  ∃ u : State, SlotsFilled w u ∧
    let counted (r : Presence) : State := { forEach 16 State.programSample (forEach 16 State.syncFallback u) with
      house := { w.house with count := w.house.count + 1, reference := r, boundaryMade := false }
      evaluationDue := decide (w.house.count + 1 ≠ 0) && decide ((w.house.count + 1).toNat % 4800 = 0) }
    exec .wordClockEdge s = .next (counted .present) ∧
    (s.house.reference = .present → exec .bridgedSample s = .next (counted w.house.reference)) ∧
    (s.house.reference = .absent → exec .freeRunSampleEnd s = .next (counted w.house.reference))

/-- A house sample that finds events due settles them before it does its work, in the model's order (log 3): the part's
own events as `eventCommands` lists them, the orders that can be taken, the arbiter's choice, and the orders that can be
taken after it. Where a RESET PART is due, it alone acts first. -/
def EventsSettledFirst : Prop :=
  (∀ s w : State, s.resetPhase = .due → exec .partResetActs s = .next w → HouseSampleOn s w) ∧
  ∀ s : State, s.resetPhase ≠ .due → ∃ t u w : State,
    OrdersTaken (afterCommands eventCommands s) t ∧ exec .egressChoice t = .next u ∧ OrdersTaken u w ∧ HouseSampleOn s w

/-- In an idle part (`NothingDue`: every program FREE, no stream that converts, no valid Latency Table entry) a house sample
raises the count, sets every lane slot to 0, has the evaluation come due at a positive multiple of 4800, and changes
nothing else (R22, R32, R143; log 5). In a part in service between its events (`Undisturbed`) each stream converts,
advances, stalls or conceals, each slot carries the sample of the stream that covers it, or 0, the ages of the valid
Latency Table entries rise by 1, and then the programs take their house sample in turn (R28 to R33, R119; that they come
last and in order is log 7, a frame not held log 28, the stall count log 29). In a part that finds events due it does its
work once they are settled, in the order of `EventsSettledFirst` (log 3). -/
def Obligations.QuietHouseSample : Prop :=
  EventsSettledFirst ∧
  (∀ s : State, s.NothingDue →
    let counted (r : Presence) : State := { s with
      house := { s.house with count := s.house.count + 1, reference := r, boundaryMade := false }
      slots := .replicate 128 0
      evaluationDue := decide (s.house.count + 1 ≠ 0) && decide ((s.house.count + 1).toNat % 4800 = 0) }
    exec .wordClockEdge s = .next (counted .present) ∧
    (s.house.reference = .present → exec .bridgedSample s = .next (counted .present)) ∧
    (s.house.reference = .absent → exec .freeRunSampleEnd s = .next (counted .absent))) ∧
  ∀ s : State, s.Undisturbed → ∃ u : State,
    SlotsFilled s u ∧
    let counted (r : Presence) : State := { forEach 16 State.programSample u with
      house := { s.house with count := s.house.count + 1, reference := r, boundaryMade := false }
      evaluationDue := decide (s.house.count + 1 ≠ 0) && decide ((s.house.count + 1).toNat % 4800 = 0) }
    exec .wordClockEdge s = .next (counted .present) ∧
    (s.house.reference = .present → exec .bridgedSample s = .next (counted .present)) ∧
    (s.house.reference = .absent → exec .freeRunSampleEnd s = .next (counted .absent))

/-- A boundary with no swap pending is recorded and changes nothing else: at a pulse, when 9600 house samples have passed
since the last pulse's boundary, and every 1920 house samples in ABSENT (R25, R26, R55). A second boundary of one house
sample is not handed over, even with a swap pending. That the two other commands change nothing while undue is
log 2; the count recorded, that of the command, and the mark of a boundary handed over are log 5. -/
def Obligations.BoundaryWithoutSwap : Prop :=
  ∀ s : State,
    let recorded (pulse : Presence) : State := { s with
      house := { s.house with pulse := pulse, lastBoundary := s.house.count, boundaryMade := true } }
    (s.swapPending = false ∨ s.house.boundaryMade = true → exec .framePulse s = .next (recorded .present)) ∧
    (s.swapPending = false ∨ s.house.boundaryMade = true → s.house.pulse = .present →
      9600 ≤ (s.house.count - s.house.lastBoundary).toNat →
      exec .pulseAbsent s = .next (recorded .absent)) ∧
    (s.swapPending = false ∨ s.house.boundaryMade = true → s.house.pulse = .absent →
      1920 ≤ (s.house.count - s.house.lastBoundary).toNat →
      exec .synthesizedBoundary s = .next (recorded .absent)) ∧
    (s.house.pulse = .absent ∨ (s.house.count - s.house.lastBoundary).toNat < 9600 →
      exec .pulseAbsent s = .next s) ∧
    (s.house.pulse = .present ∨ (s.house.count - s.house.lastBoundary).toNat < 1920 →
      exec .synthesizedBoundary s = .next s)

/-! ### Programs (chapter 3) -/

/-- The window gate Γw and the window loudness Lw of a ring, from the values at or above −7000 (R83). -/
def windowOf (ring : List Int) : Option Int × Option Int :=
  let passing := ring.filter fun v => decide (-7000 ≤ v)
  let mean (values : List Int) : Int := meanLoudness (values.map fun v => (v, 1))
  if ring.length < 30 ∨ passing = [] then (none, none)
  else
    let gate := mean passing - 1000
    (some gate, some (mean (passing.filter fun v => decide (gate ≤ v))))

/-- The command `c` makes a swap boundary, and the pulse state is `pulse` after it: a pulse, the end of the time after the
last pulse, or the time between boundaries in ABSENT (R25, R26). -/
def MakesBoundary (s : State) (c : Instr) (pulse : Presence) : Prop :=
  (c = .framePulse ∧ pulse = .present) ∨
  (c = .pulseAbsent ∧ pulse = .absent ∧ s.house.pulse = .present ∧
    9600 ≤ (s.house.count - s.house.lastBoundary).toNat) ∨
  (c = .synthesizedBoundary ∧ pulse = .absent ∧ s.house.pulse = .absent ∧
    1920 ≤ (s.house.count - s.house.lastBoundary).toNat)

/-- Whether the new entry cuts the program at a boundary (Table 3-4). -/
def cutBy (old new : ProgramEntry) (g : Program) : Bool :=
  g.state.processing && (!new.valid || decide (old.members.length ≠ new.members.length))

/-- Whether the new entry releases the program's rings (R107, Table 3-4). -/
def releasedBy (new : ProgramEntry) (g : Program) : Bool :=
  new.valid && decide (g.delay.rings ≠ [] ∧ g.delay.rings.length ≠ new.members.length)

/-- Correction's state `c` once a gain decided at the content index has its entry at the tail of the schedule, in place of
one less than 4800 below it, and the entries reached are taken up (R87, R89, R90). -/
def scheduled (gain : Int) (g : Program) (c : Correction) : Correction :=
  let content : Int := g.content.toNat
  let kept := match c.schedule.getLast? with
    | some last => if content < last.content + 4800 then c.schedule.dropLast else c.schedule
    | none => []
  ({ c with gain := gain, schedule := kept ++ [GainEntry.mk content gain] }).takeUp g.readIndex

/-- The program as the new entry leaves it, before its delay is computed again: its state by Table 3-4, with the move, the
ramps, the fades and the packet in progress ended where it is cut or becomes FREE, its fallback, the filters of the members
whose effective slot changed, its peaks, its gain, schedule and window ring, and no blocks where they are released (R52,
R54, R57, R58, R64, R79, R82, R87, R88, R107, R132). That an entry that is not valid zeroes filters too is log 41, and that it leaves the ring of a program that was FREE
already log 44; the start and length of a wait that ends, and the stamp of a packet that is dropped, are log 46. -/
def broughtIn (old new : ProgramEntry) (g : Program) : Program :=
  let state : ProgramState :=
    if new.valid = false then .free
    else if g.state = .free ∨ cutBy old new g = true then .stopped
    else g.state
  let halted : Bool := cutBy old new g || (!new.valid && decide (g.state ≠ .free))
  let fallback : Bool := decide (0 < g.votes.fallback) && new.fallback.isSome
  let slots := effectiveSlots old g.fallbackInUse
  let slots' := effectiveSlots new fallback
  let c : Correction := if halted then { g.corr with
      gain := if new.valid = true then g.corr.gain else 0
      schedule := [], ramp := { g.corr.ramp with present := g.corr.ramp.finish, count := 480 }
      dip := .rest, dipCount := 0, stop := 0 }
    else g.corr
  let gain : Int := match new.mode with
    | .measure => new.preset
    | .track => if c.gain < -new.maxCut then -new.maxCut else if new.maxBoost < c.gain then new.maxBoost else c.gain
  let gained : Correction :=
    if state.processing = true ∧ gain ≠ c.gain then scheduled gain g c else { c with gain := gain }
  let ring := g.corr.ring.drop (g.corr.ring.length - new.window * 10)
  { g with
    state := state
    changed := g.changed || decide (g.state ≠ state) || decide (g.fallbackInUse ≠ fallback)
    fallbackInUse := fallback
    meter := { g.meter with
      filters := .ofFn fun k => if slots[k.val]? = slots'[k.val]? then g.meter.filters[k] else ⟨⟨0, 0, 0, 0⟩, ⟨0, 0, 0, 0⟩⟩
      peaks := .ofFn fun k =>
        if old.members.length = new.members.length ∨ k.val < new.members.length then g.meter.peaks[k] else 0 }
    corr :=
      if state = .free then c
      else if new.window * 10 < g.corr.ring.length then
        { gained with ring := ring, window := (windowOf ring).2, windowGate := (windowOf ring).1 }
      else gained
    delay := if releasedBy new g = true then ⟨0, [], 0, 0⟩ else g.delay
    lip := if halted then { g.lip with move := .none, pendingMove := false } else g.lip
    egress := if halted then { g.egress with progress := [] } else g.egress }

/-- The order queue and the reply queue once the STOP orders in progress of the programs listed have been answered DONE in
turn (R52, R177). -/
def stopsAnswered (settings : Settings) : List (Fin 16) → List Order × List QueuedReply → List Order × List QueuedReply
  | [], queues => queues
  | p :: rest, (orders, replies) =>
    let mine (x : Order) : Bool := x.inProgress && decide (x.kind = 8#8 ∧ x.index = p.val)
    match orders.find? mine with
    | none => stopsAnswered settings rest (orders, replies)
    | some o => stopsAnswered settings rest (orders.eraseP mine,
        replies ++ [⟨replyFrame settings o o.table .done (orders.eraseP mine).length [], false⟩])

/-- A pending swap at a boundary of any of the three kinds, where no meter update and no packet of a program that is cut is
due: the other bank becomes active, every program takes in its new entry and has its delay computed again, the released
blocks go to the tail of the free list in increasing order of program, the SWAP is answered DONE, and after it the STOP of
each program cut in STOPPING, in increasing order (R52, R55, R57, R58, R87, R107, R125, R177). What is due of a program that
is cut is made first, which is log 21. The filters of a member place that one of the entries only has are log 39, and those
of a program that an entry that is not valid makes or leaves FREE log 41, its window ring log 44. -/
def SwapTakesEffect : Prop :=
  ∀ (s : State) (c : Instr) (pulse : Presence),
    MakesBoundary s c pulse → s.swapPending = true → s.house.boundaryMade = false →
    let next : Bank := if s.activeBank = .a then .b else .a
    let new (p : Fin 16) : ProgramEntry := (s.bank next)[p]
    let cut (p : Fin 16) : Bool := cutBy (s.activeEntry p) (new p) s.programs[p]
    let idle (p : Fin 16) : Prop := s.programs[p].meter.due = none ∧
      (s.programs[p].egress.progress = [] ∨ s.programs[p].content.toNat % s.egressTable[p].packetSize ≠ 0)
    (∀ (before after : List Order) (o : Order),
      s.resetPhase = .none → s.orders = before ++ o :: after → o.inProgress = true → o.kind = 6#8 →
      (∀ x ∈ before, x.inProgress = true → x.kind ≠ 6#8) → (∀ p, cut p = true → idle p) →
      let stops := (List.finRange 16).filter fun p => cut p && decide (s.programs[p].state = .stopping)
      let queues := stopsAnswered s.settings stops (before ++ after, s.replyQueue ++
        [⟨replyFrame s.settings o o.table .done (before.length + after.length) [], false⟩])
      let swapped : State := { s with
        activeBank := next, swapPending := false
        house := { s.house with pulse := pulse, lastBoundary := s.house.count, boundaryMade := true }
        freeList := s.freeList ++ (List.finRange 16).flatMap fun p =>
          if releasedBy (new p) s.programs[p] = true then s.programs[p].delay.rings.flatten else []
        orders := queues.1, replyQueue := queues.2 }
      ∃ t, exec c s = .next t ∧ t = { swapped with programs := t.programs } ∧
        ∀ p : Fin 16, t.programs[p] =
          ((swapped.putProgram p (broughtIn (s.activeEntry p) (new p) s.programs[p])).recompute p).programs[p]) ∧
    ∀ p : Fin 16, cut p = true → (∀ q : Fin 16, q < p → cut q = true → idle q) →
      ∃ t u, exec (.meterUpdate p.val) s = .next t ∧ exec (.packetComplete p.val) t = .next u ∧ exec c s = exec c u

/-- A pending swap takes effect at a boundary: the other bank becomes active with both banks' entries as they were, each
program takes the state that its old and new entries give, and the SWAP order leaves the queue with a DONE reply (R52, R55,
R57). `o` is the order in progress. The count recorded, that of the command, and the mark of a boundary handed over are log
5. What becomes of the programs, their blocks and the STOP orders beside the swap is `SwapTakesEffect` (R52, R57, R58, R87,
R107), with logs 21, 39, 41, 44 and 46; the dip count in REST is log 8, the start value of a ramp at rest log 42. -/
def Obligations.SwapTakesEffectAtPulse : Prop :=
  (∀ (s : State) (before after : List Order) (o : Order) (c : Instr) (pulse : Presence),
    MakesBoundary s c pulse → s.swapPending = true → s.house.boundaryMade = false → s.resetPhase = .none →
    s.orders = before ++ o :: after → o.inProgress = true → o.kind = 6#8 →
    (∀ x ∈ before ++ after, x.inProgress = true → x.kind ≠ 6#8 ∧ x.kind ≠ 8#8) →
    ∃ t, exec c s = .next t ∧
      t.activeBank ≠ s.activeBank ∧ t.swapPending = false ∧ t.bankA = s.bankA ∧ t.bankB = s.bankB ∧
      t.house = { s.house with pulse := pulse, lastBoundary := s.house.count, boundaryMade := true } ∧
      t.orders = before ++ after ∧
      t.replyQueue = s.replyQueue ++
        [⟨replyFrame s.settings o o.table .done (before.length + after.length) [], false⟩] ∧
      (∀ p : Fin 16,
        let old := s.activeEntry p
        let new := (s.bank s.activeBank.other)[p]
        let st := s.programs[p].state
        t.programs[p].state =
          if new.valid = false then .free
          else if st = .free then .stopped
          else if st.processing = true ∧ old.members.length ≠ new.members.length then .stopped
          else st) ∧
      t.settings = s.settings ∧ t.streams = s.streams ∧ t.latencies = s.latencies ∧ t.triggers = s.triggers ∧
      t.memory = s.memory ∧ t.egressTable = s.egressTable ∧ t.cursor = s.cursor) ∧
  SwapTakesEffect

/-- An accepted START makes the program FILLING with everything R48, R62, R92, R109, R126, R133 and R158 set, and is
answered DONE; a refused one changes nothing but the cursor (R48, R171). The dip count in REST is log 8, the ramp's start
value log 42, and the stamp of the empty packet and the start and length of an earlier wait log 46. -/
def Obligations.StartProgramResult : Prop :=
  ∀ (s : State) (before after : List Order) (o : Order), s.OrderReady before o after 7 →
    (∀ p : Fin 16, o.index = p.val →
      let e := s.activeEntry p
      let g := s.programs[p]
      let length : Nat := g.delay.blocks * 1024
      (g.state = .stopped → g.delay.blocks ≠ 0 →
        (g.fallbackInUse = true ↔ 0 < g.votes.fallback ∧ e.fallback ≠ none) →
        exec .startProgram s = .next ((s.putProgram p { g with
          state := .filling, changed := true, content := 0, readIndex := -(g.lip.target : Int)
          meter := { Meter.reset with peaks := g.meter.peaks }
          corr := { g.corr with
            ring := [], window := none, windowGate := none, gain := e.preset, schedule := []
            outputGain := e.preset
            ramp := ⟨linearGain e.preset, linearGain e.preset, linearGain e.preset, 480⟩
            mute := if 0 < g.votes.mute ∨ (0 < g.votes.fallback ∧ e.fallback = none) then 0 else 480
            dip := .rest, dipCount := 0, stop := 0 }
          lip := { g.lip with move := .none, pendingMove := false, actual := g.lip.target, lastReported := none }
          delay := { g.delay with
            writePlace := 0, readPlace := ((0 - (g.lip.target : Int)) % (length : Int)).toNat }
          egress := { g.egress with sequence := 0, progress := [] } }).answered
            before o after o.table .done [] none)) ∧
      (g.state = .free ∨ g.state = .filling ∨ g.state = .running ∨ (g.state = .stopped ∧ g.delay.blocks = 0) →
        exec .startProgram s = .next (s.answered before o after o.table .state [] none)) ∧
      (g.state = .stopping →
        exec .startProgram s = .next (s.answered before o after o.table .busy [] none))) ∧
    (16 ≤ o.index → exec .startProgram s = .next (s.answered before o after o.table .range [] none))

/-- An accepted STOP makes the program STOPPING, gives D_actual the target and the read index and place with it, drops a
wait and a pending mark, and leaves the order in progress; a refused one changes nothing but the cursor (R51, R132,
R171, R177). The start and length of the wait that ends stay, which is log 46. -/
def Obligations.StopProgramResult : Prop :=
  ∀ (s : State) (before after : List Order) (o : Order), s.OrderReady before o after 8 →
    (∀ p : Fin 16, o.index = p.val →
      let g := s.programs[p]
      let readIndex : Int := (g.content.toNat : Int) - g.lip.target
      (g.state = .filling ∨ g.state = .running →
        exec .stopProgram s = .next { s.putProgram p { g with
            state := .stopping, changed := true, readIndex := readIndex
            corr := ({ g.corr with stop := 0 }).takeUp readIndex
            lip := { g.lip with
              actual := g.lip.target, pendingMove := false
              move := if g.lip.move = .waiting then .none else g.lip.move }
            delay := { g.delay with readPlace := g.delay.placeBehind g.lip.target } } with
          orders := before ++ { o with inProgress := true } :: after
          cursor := none }) ∧
      (g.state = .free ∨ g.state = .stopped →
        exec .stopProgram s = .next (s.answered before o after o.table .state [] none)) ∧
      (g.state = .stopping →
        exec .stopProgram s = .next (s.answered before o after o.table .busy [] none))) ∧
    (16 ≤ o.index → exec .stopProgram s = .next (s.answered before o after o.table .range [] none))

/-- One stage of the K-weighting for the sample `x`: its output, formed in the order of R63 with every operation rounded, and
its states after it. The coefficients are rounded from the decimals of Table 4-2. -/
def stageOf (b0 b1 b2 a1 a2 : ℚ) (s : StageState) (x : F64) : F64 × StageState :=
  let times (c : ℚ) (v : F64) : F64 := roundF64 (roundF64 c * v)
  let y := roundF64 (roundF64 (roundF64 (roundF64 (times b0 x + times b1 s.x1) + times b2 s.x2) - times a1 s.y1)
    - times a2 s.y2)
  (y, ⟨x, s.x1, y, s.y1⟩)

/-- The meter takes a sample of each member: the two stages of K-weighting, the square of the K-weighted sample added to the
member's sum, and the greatest magnitude; what it keeps for places beyond the members stays, and so does the rest of the
meter (R60, R63, R65, R79). -/
def MeterFed : Prop :=
  ∀ (m : Meter) (xs : List Sample),
    let m' := m.feed xs
    m' = { m with filters := m'.filters, sums := m'.sums, peaks := m'.peaks } ∧
    ∀ k : Fin 8,
      (∀ x : Sample, xs[k.val]? = some x →
        let first := stageOf 1.53512485958697 (-2.69169618940638) 1.19839281085285 (-1.69065929318241) 0.73248077421585
          m.filters[k].shelf (x.toInt / 8388608 : ℚ)
        let second := stageOf 1 (-2) 1 (-1.99004745483398) 0.99007225036621 m.filters[k].highPass first.1
        m'.filters[k] = ⟨first.2, second.2⟩ ∧
        m'.sums[k] = roundF64 (m.sums[k] + roundF64 (second.1 * second.1)) ∧
        m'.peaks[k] = max m.peaks[k] x.toInt.natAbs) ∧
      (xs[k.val]? = none →
        m'.filters[k] = m.filters[k] ∧ m'.sums[k] = m.sums[k] ∧ m'.peaks[k] = m.peaks[k])

/-- A program carried one house sample forward: its lane samples enter the meter in FILLING and RUNNING and its rings at the
write place, the samples of the read place, or 0 before the read index reaches 0, leave the output stage times the four
factors and join the packet in progress, the indices and places rise by 1, the gain entries reached are taken up, FILLING
becomes RUNNING where the read index was 0 or above, and a sub-block ends at a positive multiple of 4800; no other program
changes, and a FREE or STOPPED program does nothing (R49, R50, R60, R65, R90, R93, R95, R99, R109, R110, R158; the factors
of R95 to R97 are rounded as log 34 says). A house sample of a part in service between its events takes every program, 0
to 15 in turn, this one house sample forward, on the slots of that house sample (R49; log 7; the recorded mark log 5);
what one that finds events due settles first is O15's `EventsSettledFirst` (log 3). What the meter makes of the samples is `MeterFed` (R63, R65, R79), and the factors are those of O25 (R94 to R97). Where the
read index wraps is log 26. -/
def Obligations.ProgramSampleAdvances : Prop :=
  MeterFed ∧
  (∀ (s : State) (p : Fin 16),
    let g := s.programs[p]
    let e := s.activeEntry p
    let xs := (effectiveSlots e g.fallbackInUse).map fun k => s.slots[k]
    let memory := writeRings g.delay.rings g.delay.writePlace xs s.memory
    let ys : List Sample := if 0 ≤ g.readIndex then (g.delay.rings.take xs.length).map (readRing memory g.delay.readPlace)
      else List.replicate xs.length 0
    let muted : Bool := decide (0 < g.votes.mute ∨ (0 < g.votes.fallback ∧ e.fallback = none))
    let c := g.corr.advanceFactors muted (decide (g.state = .stopping))
    let product (y : Sample) : Int :=
      roundHalfAway (fmul (fmul (fmul (fmul (y.toInt : ℚ) c.ramp.present) c.muteFactor) c.dipFactor) c.stopFactor)
    let clipped := ys.filter fun y => decide (product y < -8388608 ∨ 8388607 < product y)
    let state := if g.state = .filling ∧ 0 ≤ g.readIndex then .running else g.state
    let fed : Bool := decide (g.state ≠ .stopping)
    let ended : Bool := fed && decide (g.content + 1 ≠ 0 ∧ (g.content + 1).toNat % 4800 = 0)
    (g.state.processing = true → g.readIndex + 1 < 281474976710656 →
      s.programSample p = { s.putProgram p { g with
        state := state
        changed := g.changed || decide (state ≠ g.state)
        content := g.content + 1
        readIndex := g.readIndex + 1
        meter := { (if fed then g.meter.feed xs else g.meter) with due := if ended then some state else g.meter.due }
        corr := ({ c with clips := min 65535 (c.clips + clipped.length) }).takeUp (g.readIndex + 1)
        delay := { g.delay with
          writePlace := (g.delay.writePlace + 1) % (g.delay.blocks * 1024)
          readPlace := (g.delay.readPlace + 1) % (g.delay.blocks * 1024) }
        egress := { g.egress with
          progress := g.egress.progress ++ [ys.map fun y => BitVec.ofInt 24 (max (-8388608) (min 8388607 (product y)))]
          stamp := if g.egress.progress = [] then s.house.count.setWidth 32 else g.egress.stamp } } with
        memory := memory }) ∧
    (g.state.processing = false → s.programSample p = s)) ∧
  ∀ s : State, s.Undisturbed → ∃ u : State,
    u = { s with streams := u.streams, slots := u.slots, latencies := u.latencies } ∧
    exec .wordClockEdge s = .next { forEach 16 State.programSample u with
      house := { s.house with count := s.house.count + 1, reference := .present, boundaryMade := false }
      evaluationDue := decide (s.house.count + 1 ≠ 0) && decide ((s.house.count + 1).toNat % 4800 = 0) }

/-- A sample read at the place at which it was written is the sample written, for every ring, where no block stands in two
places of the rings; other addresses keep what they held (R110). -/
def Obligations.RingReadAfterWrite : Prop :=
  ∀ (rings : List (List Nat)) (blocks place : Nat) (xs : List Sample) (m : Memory),
    m.wf = true → rings.flatten.Nodup → (∀ ring ∈ rings, ring.length = blocks) → place < blocks * 1024 → xs.length = rings.length →
    rings.map (readRing (writeRings rings place xs m) place) = xs ∧
    ∀ a : Nat, (∀ ring ∈ rings, placeAddress ring place ≠ some a) →
      (writeRings rings place xs m).read a = m.read a

/-! ### Loudness (chapters 4 and 5) -/

/-- The loudness function: −0.691 + 10 log10 x in hundredths, rounded half up, with the floor at −12000 (R67). -/
def Obligations.LoudnessFunction : Prop :=
  ∀ x : F64, (x = 0 → loudness x = -12000) ∧
    (0 < x → loudness x = max (-12000) ⌊100 * (-0.691 + 10 * Real.logb 10 (x : ℝ)) + 1 / 2⌋)

/-- What the gain law makes of Correction's state `c` of the program `g`, for the momentary value of the update: the new
gain, and its entry at the tail of the schedule in place of one less than 4800 below it (R85, R89). -/
def lawOf (e : ProgramEntry) (momentary : Option Int) (g : Program) (c : Correction) : Correction :=
  match e.mode, c.window, momentary with
  | .track, some lw, some m =>
    let wanted := e.target - lw
    let desired := if wanted < -e.maxCut then -e.maxCut else if e.maxBoost < wanted then e.maxBoost else wanted
    let gain := c.gain + max (-(e.slew : Int)) (min e.slew (desired - c.gain))
    if 0 < g.votes.freeze ∨ m < e.freezeThreshold ∨ gain = c.gain then c else scheduled gain g c
  | _, _, _ => c

/-- The energy of a sub-block: each member's sum divided by 4800, times the weight of its role, added in member order
(R66, Table 4-3); and the mean of energies added oldest first (R68, R69). Every operation is rounded, the divisions by the
model's choice (log 37). -/
def EnergiesFormed : Prop :=
  (∀ (roles : List Role) (sums : Vector F64 8),
    let weight (r : Role) : F64 := match r with
      | .front => 1
      | .surround => roundF64 1.41
      | .lfe => 0
    subBlockEnergy roles sums = (roles.zip sums.toList).foldl
      (fun e r => roundF64 (e + roundF64 (roundF64 (r.2 / 4800) * weight r.1))) 0) ∧
  ∀ energies : List F64, meanEnergy energies =
    roundF64 (energies.foldl (fun e x => roundF64 (e + x)) 0 / (energies.length : ℚ))

/-- 10 log10 of the weighted mean of the energies 10^(v/1000) is expressed in hundredths and rounded to the nearest integer;
the model's search for that integer is followed to a distance of 10^−30 from a tie (log 14). The gate of a histogram is the
mean over its bins less 10 LU, and the integrated value the mean over the bins whose centre lies at or above the gate; an
empty histogram has neither (R74, R75, R83; the centres R71). -/
def GatesFormed : Prop :=
  (∀ values : List (Int × Nat), (∀ v ∈ values, -12000 ≤ v.1) → (∃ v ∈ values, 0 < v.2) →
    let mean : ℝ := (values.map fun v => (v.2 : ℝ) * (10 : ℝ) ^ ((v.1 : ℝ) / 1000)).sum / ((values.map (·.2)).sum : Nat)
    let level : ℝ := 1000 * Real.logb 10 mean
    (∀ k : ℤ, (1 / 10 ^ 30 : ℝ) ≤ |level - (k + 1 / 2)|) → meanLoudness values = ⌊level + 1 / 2⌋) ∧
  ∀ h : Vector Nat 750,
    let bins := (List.finRange 750).filterMap fun k =>
      if h[k] = 0 then none else some ((-6995 + 10 * (k.val : Int), h[k]) : Int × Nat)
    ((∀ k : Fin 750, h[k] = 0) → gatedLoudness h = (none, none)) ∧
    ((∃ k : Fin 750, h[k] ≠ 0) →
      let gate := meanLoudness bins - 1000
      gatedLoudness h = (some gate, some (meanLoudness (bins.filter fun b => decide (gate ≤ b.1)))))

/-- A meter update: the energy joins the history, M, S, the quiet flag, the histogram, Γ and I follow, and the accumulators
become 0 (R65, R66, R68, R69, R70, R72, R74, R75). Correction takes an admitted M into its ring, computes Lw and Γw and
runs the gain law (R78, R82, R83, R85). Lip-Sync Alignment offers a latency report where the outgoing latency differs from
the last one reported or the send flag is set, with the queue's rule for a full queue (R133, R134, R164), and a quiet
update ends a wait with a fade-out (R131). Nothing else changes. The energies are `EnergiesFormed` (R66, R68, R69, their
divisions log 37), and Γ, I, Γw and Lw `GatesFormed` (R74, R75, R83, log 14); undue, the command changes nothing, which is
log 2. The start and length of the wait that ends stay, which is log 46. -/
def Obligations.MeterUpdateResult : Prop :=
  EnergiesFormed ∧ GatesFormed ∧
  ∀ (s : State) (p : Fin 16),
    (∀ processedIn : ProgramState, s.programs[p].meter.due = some processedIn → s.programs[p].state.processing = true →
      ∃ t, exec (.meterUpdate p.val) s = .next t ∧
      let e := s.activeEntry p
      let g := s.programs[p]
      let m := g.meter
      let m' := t.programs[p].meter
      let all := m.energies ++ [subBlockEnergy (e.members.map (·.role)) m.sums]
      m'.energies = all.drop (all.length - 30) ∧
      m'.sums = Vector.replicate 8 0 ∧
      m'.subBlocks = min 4294967295 (m.subBlocks + 1) ∧
      m'.shortTerm = some (loudness (meanEnergy m'.energies)) ∧
      m'.momentary =
        (if 4 ≤ m'.energies.length then
          some (loudness (meanEnergy (m'.energies.drop (m'.energies.length - 4)))) else none) ∧
      (∀ v, m'.momentary = some v → m'.quiet = decide (v < e.quietThreshold)) ∧
      (m'.momentary = none → m'.quiet = false) ∧
      (∀ v, m'.momentary = some v → processedIn = .running → s.programs[p].votes.hold = 0 → -7000 ≤ v →
        ∀ k : Fin 750, m'.histogram[k] =
          if (k.val : Int) = min 749 ((v + 7000) / 10) then min 4294967295 (m.histogram[k] + 1) else m.histogram[k]) ∧
      (∀ v, m'.momentary = some v → processedIn ≠ .running ∨ 0 < s.programs[p].votes.hold ∨ v < -7000 →
        m'.histogram = m.histogram) ∧
      (m'.momentary = none → m'.histogram = m.histogram) ∧
      (m'.gate, m'.integrated) = gatedLoudness m'.histogram ∧
      m'.peaks = m.peaks ∧ m'.filters = m.filters ∧ m'.due = none ∧
      (let ring := match m'.momentary with
        | some v =>
          if processedIn = .running ∧ g.votes.hold = 0 then
            (g.corr.ring ++ [v]).drop (g.corr.ring.length + 1 - e.window * 10)
          else g.corr.ring
        | none => g.corr.ring
       let c := lawOf e m'.momentary g { g.corr with
          ring := ring, windowGate := (windowOf ring).1, window := (windowOf ring).2 }
       let micros := (((g.lip.audio + g.lip.actual) * 1000 + 24) / 48).toNat
       let reports : Bool := decide (g.lip.lastReported ≠ some micros) || g.lip.sendFlag
       let r : LatencyReport := ⟨p, s.egressTable[p].reporter, micros⟩
       let ends : Bool := decide (g.lip.move = .waiting) && m'.quiet
       t = { s with programs := t.programs, reportQueue := t.reportQueue, flags := t.flags } ∧
       (∀ q : Fin 16, q ≠ p → t.programs[q] = s.programs[q]) ∧
       t.programs[p] = { g with
          meter := m', corr := t.programs[p].corr, changed := g.changed || reports
          lip := { g.lip with
            lastReported := if reports then some micros else g.lip.lastReported
            sendFlag := false
            move := if ends then .fadingOut else g.lip.move
            pendingMove := if ends then false else g.lip.pendingMove } } ∧
       (ends = false → t.programs[p].corr = c) ∧
       (ends = true → g.corr.dip = .rest → t.programs[p].corr = { c with dip := .fadeOut, dipCount := 0 }) ∧
       (reports = false → t.reportQueue = s.reportQueue ∧ t.flags = s.flags) ∧
       (reports = true → s.reportQueue.length < 16 → t.reportQueue = s.reportQueue ++ [r] ∧ t.flags = s.flags) ∧
       (reports = true → 16 ≤ s.reportQueue.length →
          (∀ before old later, s.reportQueue = before ++ old :: later → old.program = p →
            (∀ x ∈ later, x.program ≠ p) → t.reportQueue = before ++ r :: later ∧ t.flags = s.flags) ∧
          ((∀ x ∈ s.reportQueue, x.program ≠ p) →
            t.reportQueue = s.reportQueue ∧ t.flags = { s.flags with reportsDropped := true })))) ∧
    (s.programs[p].meter.due = none ∨ s.programs[p].state.processing = false → exec (.meterUpdate p.val) s = .next s)

/-- The gain law, which a meter update runs (`lawOf` there): in TRACK G moves toward T_L − Lw within the limits by at most
slew, and is left where the law freezes; in MEASURE the law does not run (R84, R85, R89). Everything but Correction's state
stays. -/
def Obligations.GainLawResult : Prop :=
  ∀ (e : ProgramEntry) (momentary : Option Int) (g : Program), 0 ≤ e.maxCut → 0 ≤ e.maxBoost →
    (e.mode = .measure → g.gainLaw e momentary = g) ∧
    (0 < g.votes.freeze ∨ g.corr.window = none ∨ momentary = none ∨ (∃ m, momentary = some m ∧ m < e.freezeThreshold) →
      g.gainLaw e momentary = g) ∧
    (∀ lw m, e.mode = .track → g.votes.freeze = 0 → g.corr.window = some lw → momentary = some m →
      e.freezeThreshold ≤ m →
      let desired : Int := max (-e.maxCut) (min e.maxBoost (e.target - lw))
      let gain : Int := g.corr.gain + max (-(e.slew : Int)) (min e.slew (desired - g.corr.gain))
      (gain = g.corr.gain → g.gainLaw e momentary = g) ∧
      (gain ≠ g.corr.gain →
        (g.gainLaw e momentary).corr.gain = gain ∧
        (g.readIndex < g.content.toNat → g.corr.schedule = [] →
          (g.gainLaw e momentary).corr = { g.corr with gain := gain, schedule := [⟨g.content.toNat, gain⟩] }) ∧
        { g.gainLaw e momentary with corr := g.corr } = g)) ∧
    g.gainLaw e momentary = { g with corr := lawOf e momentary g g.corr }

/-- The numbers of 64-bit floating point: 53 bits times a power of 2 that is not below 2^−1074. -/
def IsFloat (y : ℚ) : Prop := ∃ m e : ℤ, |m| ≤ 2 ^ 53 ∧ -1074 ≤ e ∧ y = m * (2 : ℚ) ^ e

/-- Rounding gives a number of 64-bit floating point to which none lies nearer, and at a tie the even one: a whole even
multiple of the distance to the other (R63, R93, R94; no infinity is formed, log 12). -/
def RoundsToNearestEven : Prop :=
  ∀ x : ℚ, IsFloat (roundF64 x) ∧ ∀ y : ℚ, IsFloat y → |x - roundF64 x| ≤ |x - y| ∧
    (|x - roundF64 x| = |x - y| → y ≠ roundF64 x → ∃ k : ℤ, roundF64 x = 2 * k * (y - roundF64 x))

/-- The output stage: with every factor at 1 a sample passes unchanged, and with any factor at 0 it becomes 0 (R93). The
factors are those of R95, Table 5-2 (R96) and R97, each quotient rounded as log 34 says; and for each house sample the
ramp, the mute count, the dip count in OUT and IN and, in STOPPING, the stop count move on, nothing else changing (R94 to
R97). Every rounding is to nearest, ties to even (R93, R94; log 12). -/
def Obligations.OutputFactors : Prop :=
  (∀ (c : Correction) (x : Sample), c.ramp.present = 1 → c.mute = 480 →
    c.dip = .rest ∨ (c.dip = .fadeIn ∧ c.dipCount = 240) → c.stop = 0 →
    c.output [x] = ([x], { c with clips := min 65535 c.clips })) ∧
  (∀ (c : Correction) (x : Sample),
    c.ramp.present = 0 ∨ c.mute = 0 ∨ c.stop = 480 ∨ c.dip = .down ∨ (c.dip = .fadeOut ∧ c.dipCount = 240) ∨
      (c.dip = .fadeIn ∧ c.dipCount = 0) →
    c.output [x] = ([0], { c with clips := min 65535 c.clips })) ∧
  (∀ c : Correction,
    c.muteFactor = roundF64 ((c.mute : ℚ) / 480) ∧
    c.dipFactor = (match c.dip with
      | .rest => 1
      | .fadeOut => roundF64 (((240 - c.dipCount : Nat) : ℚ) / 240)
      | .down => 0
      | .fadeIn => roundF64 ((c.dipCount : ℚ) / 240)) ∧
    c.stopFactor = roundF64 (((480 - c.stop : Nat) : ℚ) / 480)) ∧
  (∀ (c : Correction) (inForce stopping : Bool),
    let r := c.ramp
    c.advanceFactors inForce stopping = { c with
      ramp :=
        if 480 ≤ r.count then { r with present := r.finish }
        else { r with
          count := r.count + 1
          present := if r.count = 479 then r.finish
            else roundF64 (r.start + roundF64 (roundF64 (roundF64 (r.finish - r.start) * (r.count + 1 : Nat)) / 480)) }
      mute := if inForce then c.mute - 1 else min 480 (c.mute + 1)
      dipCount := if c.dip = .fadeOut ∨ c.dip = .fadeIn then min 240 (c.dipCount + 1) else c.dipCount
      stop := if stopping then min 480 (c.stop + 1) else c.stop }) ∧
  RoundsToNearestEven

/-- Taking up: where an entry lies at or below the read index, the newest of those sets the output gain and starts the ramp
from its present value, and those at or below the read index leave the queue; where none does, nothing changes (R90,
R94). The end value is the 64-bit number nearest to the linear value; the model's search for it is followed to a distance of
10^−30 from a tie (log 14). -/
def Obligations.ScheduleTakeUp : Prop :=
  (∀ (c : Correction) (passed left : List GainEntry) (newest : GainEntry) (readIndex : Int),
    c.schedule = passed ++ newest :: left →
    (∀ x ∈ passed, x.content ≤ readIndex) → newest.content ≤ readIndex → (∀ x ∈ left, readIndex < x.content) →
    c.takeUp readIndex = { c with
      schedule := left, outputGain := newest.gain
      ramp := ⟨c.ramp.present, c.ramp.present, linearGain newest.gain, 0⟩ } ∧
    ({ c with schedule := left }).takeUp readIndex = { c with schedule := left }) ∧
  ∀ (gain : Int) (y : ℚ), IsFloat (linearGain gain) ∧ (IsFloat y →
    |(linearGain gain : ℝ) - (10 : ℝ) ^ ((gain : ℝ) / 2000)| ≤ |(y : ℝ) - (10 : ℝ) ^ ((gain : ℝ) / 2000)| + 1 / 10 ^ 30)

/-! ### Moves (chapters 5 and 7) -/

/-- The end of a fade-out is the jump: D_actual, the read index and the read place follow the target, passed entries are
taken up, and the fade-in starts; a meter update of the same instant comes first (R96, R129; log 22). Undue, the command
changes nothing, which is log 2. -/
def Obligations.FadeOutEndJumps : Prop :=
  ∀ (s : State) (p : Fin 16),
    let g := s.programs[p]
    let readIndex : Int := (g.content.toNat : Int) - g.lip.target
    (g.corr.dip = .fadeOut → 240 ≤ g.corr.dipCount → g.meter.due = none →
      exec (.fadeOutEnd p.val) s = .next (s.putProgram p { g with
        readIndex := readIndex
        delay := { g.delay with readPlace := g.delay.placeBehind g.lip.target }
        corr := { g.corr.takeUp readIndex with dip := .fadeIn, dipCount := 0 }
        lip := { g.lip with actual := g.lip.target, move := .fadingIn, pendingMove := false } })) ∧
    (g.corr.dip = .fadeOut → 240 ≤ g.corr.dipCount → g.state.processing = true →
      ∃ t, exec (.meterUpdate p.val) s = .next t ∧ exec (.fadeOutEnd p.val) s = exec (.fadeOutEnd p.val) t) ∧
    (g.corr.dip ≠ .fadeOut ∨ g.corr.dipCount < 240 → exec (.fadeOutEnd p.val) s = .next s)

/-- The end of a fade-in completes the move, or starts the pending one under the entry's move mode; and the end of the
quiet wait requests a fade-out (R96, R128, R130, R131). Undue, neither changes anything, which is log 2; the dip count in
REST is log 8, and the start and length of the wait that ends are log 46. -/
def Obligations.FadeInAndQuietWaitEnd : Prop :=
  ∀ (s : State) (p : Fin 16),
    let g := s.programs[p]
    let e := s.activeEntry p
    (g.corr.dip = .fadeIn → 240 ≤ g.corr.dipCount → g.lip.pendingMove = false →
      exec (.fadeInEnd p.val) s = .next (s.putProgram p { g with
        corr := { g.corr with dip := .rest, dipCount := 0 }, lip := { g.lip with move := .none } })) ∧
    (g.corr.dip = .fadeIn → 240 ≤ g.corr.dipCount → g.lip.pendingMove = true → e.moveMode = .dip →
      exec (.fadeInEnd p.val) s = .next (s.putProgram p { g with
        corr := { g.corr with dip := .fadeOut, dipCount := 0 }
        lip := { g.lip with move := .fadingOut, pendingMove := false } })) ∧
    (g.corr.dip = .fadeIn → 240 ≤ g.corr.dipCount → g.lip.pendingMove = true → e.moveMode = .quiet →
      exec (.fadeInEnd p.val) s = .next (s.putProgram p { g with
        corr := { g.corr with dip := .rest, dipCount := 0 }
        lip := { g.lip with
          move := .waiting, pendingMove := false, waitStart := s.house.count, waitLength := 48000 * e.quietWait } })) ∧
    (g.corr.dip ≠ .fadeIn ∨ g.corr.dipCount < 240 → exec (.fadeInEnd p.val) s = .next s) ∧
    (g.state = .running → g.lip.move = .waiting → g.lip.waitLength ≤ (s.house.count - g.lip.waitStart).toNat →
      g.corr.dip = .rest →
      exec (.quietWaitExpiry p.val) s = .next (s.putProgram p { g with
        corr := { g.corr with dip := .fadeOut, dipCount := 0 }
        lip := { g.lip with move := .fadingOut, pendingMove := false } })) ∧
    (g.state ≠ .running ∨ g.lip.move ≠ .waiting ∨
        (s.house.count - g.lip.waitStart).toNat < g.lip.waitLength →
      exec (.quietWaitExpiry p.val) s = .next s)

/-- What the entries give a target and a conversion: the tap count of a rate and filter length (R7), the nominal step of a
rate (R27, Table 2-2), the stream latency A_s (R42), the lane slots a stream covers (R32), and the effective slots of a
program, its members' own or those of the fallback list (R54). -/
def EntryValues : Prop :=
  (∀ e : StreamEntry,
    e.taps = (match e.rate with
      | .r44 | .r48 => if e.filter = .normal then 32 else 16
      | .r88 | .r96 => if e.filter = .normal then 64 else 32) ∧
    (e.latency : Int) = (if e.valid = true then
      ⌈((e.targetFill + e.taps / 2 : Nat) : ℚ) * 48000 / (match e.rate with
        | .r44 => 44100
        | .r48 => 48000
        | .r88 => 88200
        | .r96 => 96000)⌉ else 0) ∧
    ∀ k : Nat, e.covers k = true ↔ e.valid = true ∧ e.first ≤ k ∧ k < e.first + e.lanes) ∧
  (∀ r : Rate, r.nominalStep = match r with
    | .r44 => 3946001203
    | .r48 => 4294967296
    | .r88 => 7892002406
    | .r96 => 8589934592) ∧
  ∀ e : ProgramEntry,
    effectiveSlots e false = e.members.map (·.slot) ∧ ∀ l, e.fallback = some l → effectiveSlots e true = l

/-- The target of a program that is not FREE, and the two flags, as R122 to R124 compute them, and what the computation
then does: in STOPPED D_actual follows at once, in FILLING and STOPPING it follows a new target at once with the read index,
the read place and the schedule, and in RUNNING the move state judges the target against the tolerance (R125 to R127, R131).
A FREE program has 0 and false throughout (R124, R126). A change of either flag sets the changed flag (R135), and nothing
but this program is touched. The stream latencies and effective slots it is computed from are `EntryValues` (R7, R27, R42,
R54). That an unchanged target may end a wait or a pending mark is log 20, and what the start and length of a wait then
hold log 46. -/
def Obligations.TargetDelay : Prop :=
  EntryValues ∧
  ∀ (s : State) (p : Fin 16),
    let e := s.activeEntry p
    let g := s.programs[p]
    let g' := (s.recompute p).programs[p]
    let l := g'.lip
    s.recompute p = { s with programs := s.programs.set p g' } ∧
    (g.state = .free → g' = { g with
      changed := g.changed || g.lip.audioLate || g.lip.delayClamp
      lip := { g.lip with
        videoMicros := 0, video := 0, audio := 0, unclamped := 0, target := 0, actual := 0
        audioLate := false, delayClamp := false } }) ∧
    (g.state ≠ .free →
      let share (i : Fin 64) : Int :=
        if s.latencies[i].valid = true ∧ s.latencies[i].ignore = false then (s.latencies[i].latency.getD 0 : Nat) else 0
      let micros : Int := max 0 (min 2000000 ((e.chain.map share).sum + e.offset))
      let slots := effectiveSlots e g.fallbackInUse
      let limit : Nat := min (g.delay.blocks * 1024 - 1) 96000
      l.videoMicros = micros ∧ l.video = (micros * 48 + 500) / 1000 ∧
      (∀ most : Nat,
        (∀ k ∈ slots, ∀ i : Fin 32, s.streams[i].entry.covers k.val = true → s.streams[i].entry.latency ≤ most) →
        (most = 0 ∨ ∃ k ∈ slots, ∃ i : Fin 32, s.streams[i].entry.covers k.val = true ∧ s.streams[i].entry.latency = most) →
        l.audio = most + 8 + s.egressTable[p].packetSize) ∧
      l.unclamped = l.video - l.audio + e.trim ∧
      (l.target : Int) = max 0 (min (limit : Int) l.unclamped) ∧
      (l.audioLate = true ↔ l.unclamped < 0) ∧ (l.delayClamp = true ↔ (limit : Int) < l.unclamped) ∧
      let moved : Prop := l.target ≠ g.lip.target
      let beyond : Prop := e.tolerance < ((l.target : Int) - g.lip.actual).natAbs
      let aligned : LipSync := { g.lip with
        videoMicros := l.videoMicros, video := l.video, audio := l.audio, unclamped := l.unclamped, target := l.target
        audioLate := l.audioLate, delayClamp := l.delayClamp }
      let computed (lip : LipSync) : Program := { g with
        lip := lip
        changed := g.changed || decide (l.audioLate ≠ g.lip.audioLate ∨ l.delayClamp ≠ g.lip.delayClamp) }
      (g.state = .stopped → g' = computed { aligned with actual := l.target }) ∧
      (g.state = .filling ∨ g.state = .stopping →
        (¬ moved → g' = computed aligned) ∧
        (moved →
          let readIndex : Int := (g.content.toNat : Int) - l.target
          g' = { computed { aligned with actual := l.target } with
            readIndex := readIndex, corr := g.corr.takeUp readIndex
            delay := { g.delay with readPlace := g.delay.placeBehind l.target } })) ∧
      (g.state = .running →
        (g.lip.move = .none → ¬ moved ∨ ¬ beyond → g' = computed aligned) ∧
        (g.lip.move = .none → moved → beyond →
          (e.moveMode = .dip → g.corr.dip = .rest → g' = { computed { aligned with move := .fadingOut, pendingMove := false } with
            corr := { g.corr with dip := .fadeOut, dipCount := 0 } }) ∧
          (e.moveMode = .quiet → g' = computed { aligned with
            move := .waiting, pendingMove := false, waitStart := s.house.count, waitLength := 48000 * e.quietWait })) ∧
        (g.lip.move = .waiting → beyond → g' = computed aligned) ∧
        (g.lip.move = .waiting → ¬ beyond → g' = computed { aligned with move := .none }) ∧
        (g.lip.move = .fadingOut → g' = computed aligned) ∧
        (g.lip.move = .fadingIn → beyond → moved → g' = computed { aligned with pendingMove := true }) ∧
        (g.lip.move = .fadingIn → beyond → ¬ moved → g' = computed aligned) ∧
        (g.lip.move = .fadingIn → ¬ beyond → g' = computed { aligned with pendingMove := false })))

/-- A FRESH entry whose age has reached the stale timeout becomes STALE and keeps everything else (R119). Undue, the
command changes nothing, which is log 2. -/
def Obligations.EntryBecomesStale : Prop :=
  ∀ (s : State) (i : Fin 64),
    (s.latencies[i].state = .fresh → s.settings.staleTimeout * 48000 ≤ s.latencies[i].age →
      exec (.entryStale i.val) s =
        .next { s with latencies := s.latencies.set i { s.latencies[i] with state := .stale } }) ∧
    (s.latencies[i].state ≠ .fresh ∨ s.latencies[i].age < s.settings.staleTimeout * 48000 →
      exec (.entryStale i.val) s = .next s)

/-! ### Delay memory (chapter 6) -/

/-- An accepted ALLOCATE DELAY: the old rings go to the tail of the free list, each member takes B blocks from its head in
turn, the places become 0, the target is computed again with the new capacity and D_actual follows it in the same act, and
the reply carries B, the capacity and the free count; the rest of the part stays. A refused one, with RANGE, STATE or
NO_SPACE, the last with the need and the supply, changes nothing but the cursor (R103, R104, R105, R108, R125, R126, R171,
R183; the computation is O29's). -/
def Obligations.AllocateDelayResult : Prop :=
  (∀ (s : State) (before after : List Order) (o : Order) (p : Fin 16) (blocks : Nat),
    s.OrderReady before o after 9 → o.index = p.val → 4 ≤ o.contents.length →
    let request := fieldAt o.contents 0 4
    let g := s.programs[p]
    let n := (s.activeEntry p).members.length
    let list := s.freeList ++ g.delay.rings.flatten
    request ≤ 96000 → g.state = .stopped → request < blocks * 1024 → (blocks - 1) * 1024 ≤ request →
    blocks * n ≤ list.length →
    let free := list.drop (blocks * n)
    let rings := (List.range n).map fun m => (list.drop (m * blocks)).take blocks
    let held : State := ({ s with freeList := free } : State).putProgram p { g with delay := ⟨blocks, rings, 0, 0⟩ }
    ∃ t, exec .allocateDelay s = .next t ∧
      t = (held.recompute p).answered before o after o.table .done
        (natToBytes 1 blocks ++ natToBytes 4 (blocks * 1024 - 1) ++ natToBytes 2 free.length) none ∧
      t.programs[p].delay = ⟨blocks, rings, 0, 0⟩ ∧ t.programs[p].state = .stopped ∧
      t.programs[p].lip.actual = t.programs[p].lip.target ∧ t.programs[p].lip.target ≤ blocks * 1024 - 1 ∧
      (∀ q : Fin 16, q ≠ p → t.programs[q] = s.programs[q])) ∧
  ∀ (s : State) (before after : List Order) (o : Order), s.OrderReady before o after 9 →
    (o.contents.length < 4 ∨ 16 ≤ o.index ∨ 96000 < fieldAt o.contents 0 4 →
      exec .allocateDelay s = .next (s.answered before o after o.table .range [] none)) ∧
    (∀ p : Fin 16, o.index = p.val → 4 ≤ o.contents.length → fieldAt o.contents 0 4 ≤ 96000 →
      (s.programs[p].state ≠ .stopped →
        exec .allocateDelay s = .next (s.answered before o after o.table .state [] none)) ∧
      (∀ blocks : Nat, s.programs[p].state = .stopped → fieldAt o.contents 0 4 < blocks * 1024 →
        (blocks - 1) * 1024 ≤ fieldAt o.contents 0 4 →
        let need := blocks * (s.activeEntry p).members.length
        let supply := s.freeList.length + s.programs[p].delay.rings.flatten.length
        supply < need →
        exec .allocateDelay s = .next
          (s.answered before o after o.table .noSpace (natToBytes 2 need ++ natToBytes 2 supply) none)))

/-- RELEASE DELAY: the blocks go to the tail of the free list in member and ring order, the program holds none, its target
is computed again without capacity and D_actual follows it in the same act, and the reply carries the free count; the rest
of the part stays. A program that processes house samples is refused with STATE (R106, R108, R125, R126, R171, R183; the
computation is O29's). -/
def Obligations.ReleaseDelayResult : Prop :=
  ∀ (s : State) (before after : List Order) (o : Order), s.OrderReady before o after 10 →
    (∀ p : Fin 16, o.index = p.val →
      (s.programs[p].state = .stopped ∨ s.programs[p].state = .free →
        let g := s.programs[p]
        let free := s.freeList ++ g.delay.rings.flatten
        let bare : State := ({ s with freeList := free } : State).putProgram p { g with delay := ⟨0, [], 0, 0⟩ }
        ∃ t, exec .releaseDelay s = .next t ∧
          t = (bare.recompute p).answered before o after o.table .done (natToBytes 2 free.length) none ∧
          t.programs[p].delay = ⟨0, [], 0, 0⟩ ∧ t.programs[p].state = g.state ∧
          t.programs[p].lip.actual = 0 ∧ t.programs[p].lip.target = 0 ∧
          (∀ q : Fin 16, q ≠ p → t.programs[q] = s.programs[q])) ∧
      (s.programs[p].state = .filling ∨ s.programs[p].state = .running ∨ s.programs[p].state = .stopping →
        exec .releaseDelay s = .next (s.answered before o after o.table .state [] none))) ∧
    (16 ≤ o.index → exec .releaseDelay s = .next (s.answered before o after o.table .range [] none))

/-! ### Alarms (chapter 8) -/

/-- One step of a trigger on a condition and a measured value: Table 8-3, what going ACTIVE and leaving do, the last
condition and measured value, and the changed flag (R145, R147, R150, R154; the count of a trigger that has just gone ACTIVE
is 0 as in Table 8-7). A trigger that is OFF takes no step (R144). -/
def TriggerStepTable : Prop :=
  ∀ (t : Trigger) (truth : Bool) (v : Int),
    let e := t.entry
    let x := t.status
    let y := (t.step (truth, v)).status
    let row : Prop := truth = true ∧ (e.level2 = true → x.armed = true)
    let stands (state : TriggerState) (count : Nat) : Prop :=
      y.state = state ∧ y.count = count ∧ y.fireTotal = x.fireTotal ∧ y.latched = x.latched
    let fires : Prop :=
      y.state = .active ∧ y.count = 0 ∧ y.fireTotal = min 65535 (x.fireTotal + 1) ∧ y.latched = x.latched
    let leaves : Prop :=
      y.state = .watching ∧ y.count = 0 ∧ y.fireTotal = x.fireTotal ∧ y.latched = (x.latched || e.latch)
    (x.state = .off → t.step (truth, v) = t) ∧
    (x.state ≠ .off →
      t.step (truth, v) = { t with status := { x with
        state := y.state, count := y.count, latched := y.latched, fireTotal := y.fireTotal
        lastCondition := truth, lastMeasured := v
        changed := x.changed || decide (y.state ≠ x.state) || decide (y.latched ≠ x.latched) } }) ∧
    (x.state = .watching →
      (row → e.fireCount ≤ 1 → fires) ∧ (row → 1 < e.fireCount → stands .pending 1) ∧ (¬ row → stands .watching 0)) ∧
    (x.state = .pending →
      (row → e.fireCount ≤ x.count + 1 → fires) ∧ (row → x.count + 1 < e.fireCount → stands .pending (x.count + 1)) ∧
      (¬ row → stands .watching 0)) ∧
    (x.state = .active →
      (truth = true → stands .active 0) ∧ (truth = false → e.clearCount ≤ 1 → leaves) ∧
      (truth = false → 1 < e.clearCount → stands .clearing 1)) ∧
    (x.state = .clearing →
      (truth = true → stands .active 0) ∧ (truth = false → e.clearCount ≤ x.count + 1 → leaves) ∧
      (truth = false → x.count + 1 < e.clearCount → stands .clearing (x.count + 1)))

/-- A step is Table 8-3's (`TriggerStepTable`). So a trigger in WATCHING, of level 1 or armed, goes ACTIVE at the last of as
many true evaluations in a row as its fire count, stands PENDING with their number before, and falls back to WATCHING at a
false one. An ACTIVE trigger of either level leaves at the last of as many false evaluations in a row as its clear count,
with the latched flag set where its latch field is on, stands CLEARING with their number before, and returns to ACTIVE at a
true one (R145, R147, R150). -/
def Obligations.TriggerFiresAfterCount : Prop :=
  TriggerStepTable ∧
  ∀ (t : Trigger) (v : Int),
    (t.entry.level2 = false ∨ t.status.armed = true → t.status.state = .watching → t.status.count = 0 →
      1 ≤ t.entry.fireCount →
      (∀ k, 1 ≤ k → k < t.entry.fireCount →
        ((Trigger.step (true, v))^[k] t).status.state = .pending ∧
        ((Trigger.step (true, v))^[k] t).status.count = k ∧
        (((Trigger.step (true, v))^[k] t).step (false, v)).status.state = .watching ∧
        (((Trigger.step (true, v))^[k] t).step (false, v)).status.count = 0 ∧
        (((Trigger.step (true, v))^[k] t).step (false, v)).status.fireTotal = t.status.fireTotal) ∧
      ((Trigger.step (true, v))^[t.entry.fireCount] t).status.state = .active ∧
      ((Trigger.step (true, v))^[t.entry.fireCount] t).status.fireTotal = min 65535 (t.status.fireTotal + 1) ∧
      ((Trigger.step (true, v))^[t.entry.fireCount] t).entry = t.entry) ∧
    (t.status.state = .active → 1 ≤ t.entry.clearCount →
      (∀ k, 1 ≤ k → k < t.entry.clearCount →
        ((Trigger.step (false, v))^[k] t).status.state = .clearing ∧
        ((Trigger.step (false, v))^[k] t).status.count = k ∧
        (((Trigger.step (false, v))^[k] t).step (true, v)).status.state = .active ∧
        (((Trigger.step (false, v))^[k] t).step (true, v)).status.count = 0 ∧
        (((Trigger.step (false, v))^[k] t).step (true, v)).status.fireTotal = t.status.fireTotal ∧
        (((Trigger.step (false, v))^[k] t).step (true, v)).status.latched = t.status.latched) ∧
      ((Trigger.step (false, v))^[t.entry.clearCount] t).status.state = .watching ∧
      ((Trigger.step (false, v))^[t.entry.clearCount] t).status.latched = (t.status.latched || t.entry.latch) ∧
      ((Trigger.step (false, v))^[t.entry.clearCount] t).status.fireTotal = t.status.fireTotal)

/-- Table 8-2: when the condition of an entry is true, and its measured value (R139, R140, R141). -/
def ConditionTable (s : State) (e : TriggerEntry) : Prop :=
  let truth : Prop := (s.condition e).1 = true
  let measured := (s.condition e).2
  (∀ i : Fin 32, e.object = i.val →
    let c := s.streams[i].ctx
    let code : Int := contextNumber c.state
    (e.condition = .streamLost → (truth ↔ c.state = .lost) ∧ measured = code) ∧
    (e.condition = .streamHoldover → (truth ↔ c.state = .holdover) ∧ measured = code) ∧
    (e.condition = .streamUnlocked → (truth ↔ c.state = .track ∨ c.state = .holdover) ∧ measured = code) ∧
    (e.condition = .ratioLimit →
      (truth ↔ c.state ≠ .empty ∧ (c.correction = 16777 ∨ c.correction = -16777)) ∧ measured = c.correction) ∧
    (e.condition = .ratioDeviation →
      (truth ↔ c.state ≠ .empty ∧ e.parameter ≤ |c.correction|) ∧ measured = c.correction) ∧
    (e.condition = .underrun → (truth ↔ c.state ≠ .empty ∧ 1 ≤ c.underrunCount) ∧ measured = c.underrunCount) ∧
    (e.condition = .format → (truth ↔ c.state ≠ .empty ∧ 1 ≤ c.formatCount) ∧ measured = c.formatCount)) ∧
  (∀ p : Fin 16, e.object = p.val →
    let g := s.programs[p]
    let x := s.activeEntry p
    let fed : Prop := g.state = .filling ∨ g.state = .running
    let error : Int := |g.lip.unclamped - g.lip.actual|
    let counted (y : LatencyEntry) : Bool :=
      !y.ignore && (!y.valid || decide (y.state = .stale) || decide (y.state = .absent))
    let stale := x.chain.countP fun i => counted s.latencies[i]
    (e.condition = .silence →
      (truth ↔ fed ∧ ∃ v, g.meter.momentary = some v ∧ v < e.parameter) ∧ measured = g.meter.momentary.getD (-12000)) ∧
    (e.condition = .overload →
      (truth ↔ fed ∧ ∃ v, g.meter.shortTerm = some v ∧ e.parameter < v) ∧ measured = g.meter.shortTerm.getD (-12000)) ∧
    (e.condition = .clip →
      (truth ↔ fed ∧ e.parameter ≤ g.corr.clips ∧ 1 ≤ g.corr.clips) ∧ measured = g.corr.clips) ∧
    (e.condition = .gainAtLimit →
      (truth ↔ fed ∧ x.mode = .track ∧ (g.corr.gain = -x.maxCut ∨ g.corr.gain = x.maxBoost)) ∧ measured = g.corr.gain) ∧
    (e.condition = .delayClamp → (truth ↔ fed ∧ g.lip.delayClamp = true) ∧ measured = g.lip.unclamped) ∧
    (e.condition = .audioLate → (truth ↔ fed ∧ g.lip.audioLate = true) ∧ measured = g.lip.unclamped) ∧
    (e.condition = .lipsyncError → (truth ↔ fed ∧ e.parameter < error) ∧ measured = error) ∧
    (e.condition = .chainStale → (truth ↔ fed ∧ 1 ≤ stale) ∧ measured = stale)) ∧
  (e.condition = .houseRefAbsent →
    (truth ↔ s.house.reference = .absent) ∧ measured = if s.house.reference = .absent then 1 else 0) ∧
  (e.condition = .poolLow → (truth ↔ (s.freeList.length : Int) < e.parameter) ∧ measured = s.freeList.length)

/-- The program `p` of `s`, which stands as `base`, once its vote counts are `votes`: where the fallback condition has
changed with them, fallback in use changes and sets the changed flag, the filter states of the members whose effective slot
changed become 0, and the target is computed again (R54, R56, R58, R64, R125). -/
def voted (s : State) (p : Fin 16) (base : Program) (votes : Votes) : Program :=
  let e := s.activeEntry p
  let wanted : Bool := decide (0 < votes.fallback) && e.fallback.isSome
  let slots := effectiveSlots e base.fallbackInUse
  let slots' := effectiveSlots e wanted
  if wanted = base.fallbackInUse then { base with votes := votes }
  else ((s.putProgram p { base with
    votes := votes, fallbackInUse := wanted, changed := true
    meter := { base.meter with
      filters := .ofFn fun k =>
        if slots[k.val]? = slots'[k.val]? then base.meter.filters[k] else ⟨⟨0, 0, 0, 0⟩, ⟨0, 0, 0, 0⟩⟩ } }).recompute p).programs[p]

/-- An evaluation that is due. Every level-1 trigger takes one step and is not armed. Every level-2 trigger is found armed
or not from its arming trigger as it stands after the level-1 pass, its window is set or counted down, and it takes its
step (R144, R145, R146; what a step does is O33's). Every vote count becomes the number of triggers that hold the vote,
and fallback follows, as `voted` gives (R54, R56, R58, R64, R125, R147, R148); that the triggers are counted anew and that
fallback switches in the same act is log 23, the filters of a place that one list only has log 39. The FIRED and CLEARED notices are offered in increasing order of trigger, with the fields of the entry, the
value measured and the stamp of the evaluation (R144, R147, R151, R152). Every event count becomes 0, and the rest of the
part stays (R142). Each condition and its measured value are those of Table 8-2 (R139 to R141). Undue, the command changes
nothing, which is log 2. -/
def Obligations.AlarmEvaluationResult : Prop :=
  ∀ s : State,
    let stepped (i : Fin 48) : Trigger := s.triggers[i].step (s.condition s.triggers[i].entry)
    let holds (x : TriggerState) : Bool := decide (x = .active) || decide (x = .clearing)
    (s.evaluationDue = true → ∃ t, exec .alarmEvaluation s = .next t ∧
      t = { s with
        evaluationDue := false, triggers := t.triggers, streams := t.streams, programs := t.programs
        notices := t.notices, lostCount := t.lostCount, flags := t.flags } ∧
      (∀ i : Fin 48, s.triggers[i].entry.level2 = false →
        t.triggers[i] = { stepped i with status := { (stepped i).status with armed := false } }) ∧
      (∀ i : Fin 48, s.triggers[i].entry.level2 = true →
        let x := s.triggers[i]
        let level1 : Bool := x.entry.arming.any fun a => !s.triggers[a].entry.level2
        let held : Bool := x.entry.arming.any fun a =>
          holds (if s.triggers[a].entry.level2 = true then s.triggers[a] else stepped a).status.state
        let armed : Bool := level1 && (held || decide (0 < x.status.windowRemaining))
        t.triggers[i] = ({ x with status := { x.status with
          armed := armed
          windowRemaining := if held then x.entry.armWindow else x.status.windowRemaining - 1
          changed := x.status.changed || decide (x.status.armed ≠ armed) } } : Trigger).step (s.condition x.entry)) ∧
      (∀ p : Fin 16,
        let g := s.programs[p]
        let count (response : Responses → Bool) : Nat := (List.finRange 48).countP (t.activeFor p response)
        let votes : Votes := ⟨count (·.mute), count (·.freezeGain), count (·.holdIntegration), count (·.fallback)⟩
        t.programs[p].votes = votes ∧ t.programs[p].corr.clips = 0 ∧ t.programs[p].state = g.state ∧
        (t.programs[p].fallbackInUse = true ↔ 0 < votes.fallback ∧ (s.activeEntry p).fallback ≠ none) ∧
        t.programs[p] = voted s p { g with corr := { g.corr with clips := 0 } } votes) ∧
      (let made (i : Fin 48) : Option Notice :=
        let e := s.triggers[i].entry
        let after := holds t.triggers[i].status.state
        if e.responses.notice = true ∧ holds s.triggers[i].status.state ≠ after then
          some ⟨if after then .fired else .cleared, some i, if e.level2 then 2 else 1, e.condition, e.object, e.target,
            (s.condition e).2, e.responses, s.house.count.setWidth 32⟩
        else none
      let all := (List.finRange 48).filterMap made
      let room := 32 - s.notices.length
      t.notices = s.notices ++ all.take room ∧
      t.lostCount = (if all.length ≤ room then s.lostCount else min 65535 (s.lostCount + (all.length - room))) ∧
      t.flags = { s.flags with noticesLost := s.flags.noticesLost || decide (room < all.length) }) ∧
      (∀ i : Fin 32, t.streams[i] =
        ⟨s.streams[i].entry, { s.streams[i].ctx with formatCount := 0, underrunCount := 0 }⟩)) ∧
    (s.evaluationDue = false → exec .alarmEvaluation s = .next s) ∧
    ∀ e : TriggerEntry, ConditionTable s e

/-- A notice joins the notice queue while it holds fewer than 32; in a full queue it is discarded, NOTICES_LOST is set and
the lost count rises, to 65535 at most (R152). -/
def Obligations.NoticeOffered : Prop :=
  ∀ (s : State) (n : Notice),
    (s.notices.length < 32 → s.offerNotice n = { s with notices := s.notices ++ [n] }) ∧
    (32 ≤ s.notices.length → s.offerNotice n = { s with
      flags := { s.flags with noticesLost := true }, lostCount := min 65535 (s.lostCount + 1) })

/-! ### Egress (chapter 9) -/

/-- What a frame built in the raw carrier holds: the addresses, the part EtherType and the part header before its content,
and zero bytes up to 60 (R159, R165, R166, R180). -/
def rawBytes (c : Settings) (destination : BitVec 48) (kind : Byte) (key : BitVec 16) (content : List Byte) : List Byte :=
  let built := natToBytes 6 destination.toNat ++ [0x02#8, 0#8, 0#8, 0#8, 0#8, c.unit]
    ++ natToBytes 2 c.partEtherType.toNat ++ [1#8, kind] ++ natToBytes 2 key.toNat ++ content
  built ++ List.replicate (60 - built.length) 0

/-- What a frame built in the UDP carrier holds: the addresses and EtherType 0x0800, the IPv4 header with its checksum, the
UDP header, the part header and the content, and zero bytes up to 60 (R159, R163, R166, R181). -/
def udpBytes (c : Settings) (mac : BitVec 48) (ip : BitVec 32) (sourcePort destinationPort : BitVec 16) (kind : Byte)
    (key : BitVec 16) (content : List Byte) : List Byte :=
  let payload := [1#8, kind] ++ natToBytes 2 key.toNat ++ content
  let header (checksum : Nat) : List Byte := [0x45#8, 0#8] ++ natToBytes 2 (28 + payload.length)
    ++ [0#8, 0#8, 0x40#8, 0#8, 64#8, 17#8] ++ natToBytes 2 checksum ++ natToBytes 4 c.ipv4.toNat ++ natToBytes 4 ip.toNat
  let built := natToBytes 6 mac.toNat ++ [0x02#8, 0#8, 0#8, 0#8, 0#8, c.unit] ++ [0x08#8, 0#8]
    ++ header (65535 - headerSum (header 0)) ++ natToBytes 2 sourcePort.toNat ++ natToBytes 2 destinationPort.toNat
    ++ natToBytes 2 (8 + payload.length) ++ [0#8, 0#8] ++ payload
  built ++ List.replicate (60 - built.length) 0

/-- A packet completes: its media frame joins the program's packet queue, in a full queue displacing the oldest with
EGRESS_DROP and the changed flag set, and the next packet starts with the next sequence number (R158, R160). The frame's
bytes are given for both carriers (R159, R166, R180 to R182). What the packet that ends STOPPING does besides is O37. Undue, the command changes nothing, which is log 2; the
stamp of the packet once emptied is log 46. -/
def Obligations.PacketCompletes : Prop :=
  ∀ (s : State) (p : Fin 16),
    let g := s.programs[p]
    let x := g.egress
    let e := s.egressTable[p]
    let members := (s.activeEntry p).members.length
    let frame := mediaFrame s.settings e members x
    let full : Bool := decide (2 ≤ x.queue.length)
    let packed : Program := { g with
      changed := g.changed || full
      egress := { x with
        sequence := x.sequence + 1, progress := []
        queue := (if full then x.queue.drop 1 else x.queue) ++ [frame]
        drop := x.drop || full } }
    (x.progress ≠ [] → g.content.toNat % e.packetSize = 0 → g.state ≠ .stopping ∨ g.corr.stop < 480 →
      exec (.packetComplete p.val) s = .next (s.putProgram p packed)) ∧
    (x.progress = [] ∨ g.content.toNat % e.packetSize ≠ 0 → exec (.packetComplete p.val) s = .next s) ∧
    (let content := natToBytes 2 x.sequence.toNat ++ [1#8] ++ natToBytes 1 members ++ [2#8] ++ natToBytes 1 e.packetSize
        ++ natToBytes 4 x.stamp.toNat ++ x.progress.flatten.flatMap fun y => natToBytes 3 y.toNat ++ [0#8]
     frame = match e.carrier with
      | .raw => rawBytes s.settings e.mac 1 e.key content
      | .udp => udpBytes s.settings e.mac e.ipv4 e.port e.port 1 e.key content)

/-- The packet that holds the 480th sample of the stop ramp joins the packet queue like any other and ends STOPPING: the
program becomes STOPPED with its move ended and its ramps at rest, and the deferred STOP is answered DONE (R51, R88, R132,
R158, R160, R177). `o` is that order. With no such order, or once a RESET PART has been taken, nothing is answered (R179).
Nothing else changes. The frame's bytes are O36's; the dip count in REST is log 8, the start value of a ramp at rest log 42,
the stamp of the packet once emptied and the start and length of a wait log 46. -/
def Obligations.StoppingEnds : Prop :=
  ∀ (s : State) (p : Fin 16),
    let g := s.programs[p]
    let x := g.egress
    let frame := mediaFrame s.settings s.egressTable[p] (s.activeEntry p).members.length x
    let full : Bool := decide (2 ≤ x.queue.length)
    let mine (y : Order) : Prop := y.inProgress = true ∧ y.kind = 8#8 ∧ y.index = p.val
    let ended : State := s.putProgram p { g with
      state := .stopped, changed := true
      corr := { g.corr with
        schedule := [], ramp := { g.corr.ramp with present := g.corr.ramp.finish, count := 480 }
        dip := .rest, dipCount := 0, stop := 0 }
      lip := { g.lip with move := .none, pendingMove := false, actual := g.lip.target }
      egress := { x with
        sequence := x.sequence + 1, progress := []
        queue := (if full then x.queue.drop 1 else x.queue) ++ [frame]
        drop := x.drop || full } }
    g.state = .stopping → 480 ≤ g.corr.stop → x.progress ≠ [] →
    g.content.toNat % s.egressTable[p].packetSize = 0 →
    (∀ (before after : List Order) (o : Order),
      s.resetPhase = .none → s.orders = before ++ o :: after → mine o → (∀ y ∈ before, ¬ mine y) →
      exec (.packetComplete p.val) s = .next { ended with
        orders := before ++ after
        replyQueue := s.replyQueue ++
          [⟨replyFrame s.settings o o.table .done (before.length + after.length) [], false⟩] }) ∧
    (s.resetPhase ≠ .none ∨ (∀ y ∈ s.orders, ¬ mine y) → exec (.packetComplete p.val) s = .next ended)

/-- The arbiter's media choice: with the link idle and ready held, the first program after the last one served that has a
packet queued is served, and its oldest frame is sent (R161, R162). -/
def Obligations.EgressChoiceServesMedia : Prop :=
  ∀ (s : State) (k : Fin 16) (frame : List Byte) (rest : List (List Byte)),
    let p := s.lastProgram + 1 + k
    s.sending = none → s.ready = true → s.resetPhase ≠ .due →
    s.programs[p].egress.queue = frame :: rest →
    (∀ j : Fin 16, j < k → s.programs[s.lastProgram + 1 + j].egress.queue = []) →
    exec .egressChoice s = .next { s.putProgram p
        { s.programs[p] with egress := { s.programs[p].egress with queue := rest } } with
      lastProgram := p, sending := some ⟨frame, false⟩ }

/-- The bytes of a latency report frame and of a notice frame (R151, R164, R165, R182, Table 11-2). That the report carries the
reporter id it recorded, whatever the Egress Table holds at the choice, is log 40. -/
def ReportAndNoticeBytes : Prop :=
  ∀ c : Settings,
    (∀ r : LatencyReport, reportFrame c r = rawBytes c c.reportMac 4 c.reportKey
      ([c.unit] ++ natToBytes 4 r.reporter.toNat ++ natToBytes 4 r.micros)) ∧
    ∀ (lost : Nat) (n : Notice),
      let r := n.responses
      let responses : Nat := r.notice.toNat + 2 * r.mute.toNat + 4 * r.freezeGain.toNat + 8 * r.holdIntegration.toNat
        + 16 * r.fallback.toNat
      noticeFrame c lost n = rawBytes c c.noticeMac 5 c.noticeKey
        ([c.unit] ++ natToBytes 1 (noticeNumber n.kind) ++ natToBytes 1 (n.trigger.elim 255 (·.val))
          ++ natToBytes 1 n.level ++ natToBytes 1 (conditionNumber n.condition) ++ natToBytes 1 n.object
          ++ natToBytes 1 (n.target.elim 255 (·.val)) ++ natToBytes 2 lost ++ signedBytes 4 n.measured
          ++ natToBytes 4 n.stamp.toNat ++ natToBytes 1 responses)

/-- With no media frame queued the arbiter serves the first class after the last one served that has a frame; a notice is
built with the lost count, which becomes 0; and with nothing queued, the link busy or ready withdrawn nothing is chosen
(R152, R161, R162). A latency report and a notice are sent with the bytes of Table 11-2 (R151, R164, R165, R182; the
reporter id recorded, log 40). -/
def Obligations.EgressChoiceServesClasses : Prop :=
  (∀ s : State,
    let skipped (c : EgressClass) : Prop := ∀ d ∈ s.lastClass.after.takeWhile (fun d => decide (d ≠ c)),
      match d with
      | .replies => s.replyQueue = []
      | .reports => s.reportQueue = []
      | .notices => s.notices = []
      | .passThrough => s.passQueue = []
    (s.sending = none → s.ready = true → s.resetPhase ≠ .due → (∀ p : Fin 16, s.programs[p].egress.queue = []) →
      (∀ r rest, s.replyQueue = r :: rest → skipped .replies →
        exec .egressChoice s = .next { s with
          replyQueue := rest, lastClass := .replies, sending := some ⟨r.bytes, r.resetsPart⟩ }) ∧
      (∀ r rest, s.reportQueue = r :: rest → skipped .reports →
        exec .egressChoice s = .next { s with
          reportQueue := rest, lastClass := .reports, sending := some ⟨reportFrame s.settings r, false⟩ }) ∧
      (∀ n rest, s.notices = n :: rest → skipped .notices →
        exec .egressChoice s = .next { s with
          notices := rest, lostCount := 0, lastClass := .notices
          sending := some ⟨noticeFrame s.settings s.lostCount n, false⟩ }) ∧
      (∀ f rest, s.passQueue = f :: rest → skipped .passThrough →
        exec .egressChoice s = .next { s with
          passQueue := rest, lastClass := .passThrough, sending := some ⟨f, false⟩ }) ∧
      (s.replyQueue = [] → s.reportQueue = [] → s.notices = [] → s.passQueue = [] →
        exec .egressChoice s = .next s)) ∧
    (s.sending ≠ none ∨ s.ready = false ∨ s.resetPhase = .due → exec .egressChoice s = .next s)) ∧
  ReportAndNoticeBytes

/-- The ready line and the end of a frame: withdrawing and returning move the line alone; a frame ends while ready is held
and leaves the link idle, and the end of a RESET PART's reply makes the reset due (R161, R166, R179). A frame end with no
frame in sending, or while ready is withdrawn, changes nothing, which is log 2. -/
def Obligations.LinkEvents : Prop :=
  ∀ s : State,
    exec .readyWithdrawn s = .next { s with ready := false } ∧
    exec .readyReturn s = .next { s with ready := true } ∧
    (∀ f, s.sending = some f → s.ready = true →
      exec .egressFrameEnd s = .next { s with
        sending := none, resetPhase := if f.resetsPart = true then .due else s.resetPhase }) ∧
    (s.sending = none ∨ s.ready = false → exec .egressFrameEnd s = .next s)

/-- The header checksum of R181 makes the ones' complement sum of the whole header all ones. -/
def Obligations.HeaderChecksumVerifies : Prop :=
  ∀ (source destination : BitVec 32) (length : Nat),
    headerSum (ipv4Header source destination length
      (65535 - headerSum (ipv4Header source destination length 0))) = 65535

/-! ### Management orders (chapter 10) -/

/-- NOP leaves all but the queues; SEND LATENCY, RESET INTEGRATION and ACKNOWLEDGE make their one change and clear the
cursor, an index outside the range being RANGE; SWAP PROGRAM BANK makes the swap pending and stays in the queue in
progress, and is refused with BUSY while one is pending (R55, R77, R134, R150, R171, R173, R177). An order of unknown kind
is ILLEGAL and clears the cursor (R171, R173); that any order command takes it before its own order is log 16. -/
def Obligations.SimpleOrders : Prop :=
  ∀ (s : State) (before after : List Order) (o : Order),
    (∀ kind : Nat, 16 ≤ kind → s.OrderReady before o after kind →
      ∀ c ∈ [Instr.nop, .readEntry, .readNext, .writeEntry, .writeNext, .clearEntry, .swapProgramBank, .startProgram,
        .stopProgram, .allocateDelay, .releaseDelay, .resetStream, .resetIntegration, .acknowledge, .sendLatency, .resetPart],
        exec c s = exec c (s.answered before o after o.table .illegal [] none) ∧
        ((∀ x ∈ after, x.inProgress = true) → exec c s = .next (s.answered before o after o.table .illegal [] none))) ∧
    (s.OrderReady before o after 0 →
      exec .nop s = .next (s.answered before o after o.table .done [] s.cursor)) ∧
    (s.OrderReady before o after 14 →
      (∀ p : Fin 16, o.index = p.val →
        exec .sendLatency s = .next ((s.putProgram p { s.programs[p] with
          lip := { s.programs[p].lip with sendFlag := true } }).answered before o after o.table .done [] none)) ∧
      (16 ≤ o.index → exec .sendLatency s = .next (s.answered before o after o.table .range [] none))) ∧
    (s.OrderReady before o after 12 →
      (∀ p : Fin 16, o.index = p.val →
        exec .resetIntegration s = .next ((s.putProgram p { s.programs[p] with
          meter := { s.programs[p].meter with
            histogram := .replicate 750 0, gate := none, integrated := none } }).answered
          before o after o.table .done [] none)) ∧
      (16 ≤ o.index → exec .resetIntegration s = .next (s.answered before o after o.table .range [] none))) ∧
    (s.OrderReady before o after 13 →
      (∀ i : Fin 48, o.index = i.val →
        let t := s.triggers[i]
        exec .acknowledge s = .next (({ s with triggers := s.triggers.set i { t with status := { t.status with
          latched := false, changed := t.status.changed || t.status.latched } } }).answered
          before o after o.table .done [] none)) ∧
      (o.index = 65535 →
        exec .acknowledge s = .next (({ s with triggers := s.triggers.map fun (t : Trigger) =>
          ({ t with status := { t.status with
            latched := false, changed := t.status.changed || t.status.latched } } : Trigger) }).answered
          before o after o.table .done [] none)) ∧
      (48 ≤ o.index → o.index ≠ 65535 →
        exec .acknowledge s = .next (s.answered before o after o.table .range [] none))) ∧
    (s.OrderReady before o after 6 →
      (s.swapPending = false →
        exec .swapProgramBank s = .next { s with
          swapPending := true, orders := before ++ { o with inProgress := true } :: after, cursor := none }) ∧
      (s.swapPending = true →
        exec .swapProgramBank s = .next (s.answered before o after o.table .busy [] none)))

/-- RESET STREAM keeps the entry and resets the context as R9 gives, with the sticky flags and event counts kept and the
flush recorded by the minimum watermark, and has every program's delay computed again; an index outside 0 to 31 is RANGE
(R9, R125, R171). Nothing else changes. That the step stays is log 38, that the start of holdover does log 43, and that the acceptance time, the
last produced sample and the stall count do log 46. -/
def Obligations.ResetStreamResult : Prop :=
  ∀ (s : State) (before after : List Order) (o : Order), s.OrderReady before o after 11 →
    (∀ i : Fin 32, o.index = i.val →
      let c := s.streams[i].ctx
      let stored : State := s.putContext i { c with
        state := if s.streams[i].entry.valid = true then .acquire else .empty
        expected := none, last := none, buffer := [], writeIndex := 0, pos := 0
        integrator := 0, correction := 0, lastError := 0, lockCount := 0, windowSum := 0, windowCount := 0
        minFill := 0 }
      ∃ u : State, exec .resetStream s = .next (u.answered before o after o.table .done [] none) ∧
        u = { stored with programs := u.programs } ∧
        ∀ p : Fin 16, u.programs[p] = (stored.recompute p).programs[p] ∧
          u.programs[p].state = s.programs[p].state ∧ u.programs[p].content = s.programs[p].content) ∧
    (32 ≤ o.index → exec .resetStream s = .next (s.answered before o after o.table .range [] none))

/-- The bytes of a reply in the carrier of its order, with the order credit for `held` orders in the queue (R163, R166,
R170, R181, R183, Tables 11-1, 11-3 and 11-4). -/
def ReplyBytes : Prop :=
  ∀ (c : Settings) (o : Order) (table : Byte) (status : Status) (held : Nat) (data : List Byte),
    let content := [c.unit, o.tag, o.kind] ++ natToBytes 1 (statusNumber status) ++ natToBytes 1 (8 - held) ++ [table]
      ++ natToBytes 2 data.length ++ data
    replyFrame c o table status held data = match o.path.carrier with
      | .raw => rawBytes c o.path.sourceMac 3 c.managementKey content
      | .udp => udpBytes c o.path.sourceMac o.path.sourceIp o.path.destinationPort o.path.sourcePort 3 c.managementKey
          content

/-- A loudness value with its no-value mark, −12000 beside it (R61, R82, Table 11-5). -/
def loudnessOrMark : Option Int → List Byte
  | some v => [0#8] ++ signedBytes 4 v
  | none => [1#8] ++ signedBytes 4 (-12000)

/-- A latency in microseconds with its no-value mark, the free number `free` beside it (log 18, Table 11-5). -/
def microsOrMark (free : BitVec 32) : Option Nat → List Byte
  | some v => [0#8] ++ natToBytes 4 v
  | none => [1#8] ++ natToBytes 4 free.toNat

/-- The entry of STREAM STATUS: R21 and then R41, the lock count in 4 bytes (log 19), of a greater one the low 32 bits
(log 45). -/
def streamStatusOf (c : Context) : List Byte :=
  bitByte c.flags.late ++ bitByte c.flags.gap ++ bitByte c.flags.resync ++ bitByte c.flags.overrun
    ++ bitByte c.flags.format ++ bitByte c.flags.underrun ++ natToBytes 1 (contextNumber c.state)
    ++ natToBytes 2 c.fill ++ natToBytes 2 c.maxFill ++ natToBytes 2 c.minFill
    ++ signedBytes 4 c.integrator ++ signedBytes 4 c.correction ++ signedBytes 4 c.lastError
    ++ natToBytes 4 c.lockCount ++ signedBytes 8 c.step

/-- The entry of PROGRAM STATUS: R59, R80, R100, R115, R135, R155 and R167, each item in the width of its value type or
range (log 19); the number beside the mark of an absent last report is a free value (log 18). -/
def programStatusOf (s : State) (p : Fin 16) : List Byte :=
  let e := s.activeEntry p
  let g := s.programs[p]
  let muted : Bool := decide (0 < g.votes.mute ∨ (0 < g.votes.fallback ∧ e.fallback = none))
  let limited : Bool := decide (e.mode = .track ∧ (g.corr.gain = -e.maxCut ∨ g.corr.gain = e.maxBoost))
  natToBytes 1 (programNumber g.state) ++ natToBytes 6 g.content.toNat ++ signedBytes 8 g.readIndex
    ++ bitByte g.fallbackInUse ++ natToBytes 1 e.members.length ++ natToBytes 1 g.delay.rings.length ++ bitByte g.changed
    ++ loudnessOrMark g.meter.momentary ++ loudnessOrMark g.meter.shortTerm ++ loudnessOrMark g.meter.integrated
    ++ loudnessOrMark g.meter.gate ++ bitByte g.meter.quiet ++ natToBytes 4 g.meter.subBlocks
    ++ (List.finRange 8).flatMap (fun k => natToBytes 4 (if k.val < e.members.length then g.meter.peaks[k] else 0))
    ++ signedBytes 4 g.corr.gain ++ signedBytes 4 g.corr.outputGain ++ natToBytes 1 g.corr.schedule.length
    ++ loudnessOrMark g.corr.window ++ loudnessOrMark g.corr.windowGate ++ natToBytes 2 g.corr.ring.length
    ++ bitByte muted ++ natToBytes 2 g.corr.mute ++ natToBytes 1 (dipNumber g.corr.dip) ++ bitByte limited
    ++ natToBytes 1 g.delay.blocks ++ natToBytes 4 (g.delay.blocks * 1024 - 1)
    ++ signedBytes 4 g.lip.videoMicros ++ signedBytes 4 g.lip.video ++ signedBytes 2 g.lip.audio
    ++ signedBytes 4 g.lip.unclamped ++ natToBytes 4 g.lip.target ++ natToBytes 4 g.lip.actual
    ++ bitByte g.lip.audioLate ++ bitByte g.lip.delayClamp ++ natToBytes 1 (moveNumber g.lip.move)
    ++ bitByte g.lip.pendingMove ++ bitByte g.lip.sendFlag
    ++ microsOrMark (Config.noValueNumber s.freeCount) g.lip.lastReported
    ++ natToBytes 1 g.votes.mute ++ natToBytes 1 g.votes.freeze ++ natToBytes 1 g.votes.hold
    ++ natToBytes 1 g.votes.fallback
    ++ bitByte g.egress.drop ++ natToBytes 2 g.egress.sequence.toNat ++ natToBytes 1 g.egress.queue.length

/-- The entry of TRIGGER STATUS (R154). -/
def triggerStatusOf (x : TriggerStatus) : List Byte :=
  natToBytes 1 (triggerNumber x.state) ++ natToBytes 2 x.count ++ bitByte x.armed ++ natToBytes 2 x.windowRemaining
    ++ bitByte x.lastCondition ++ signedBytes 4 x.lastMeasured ++ bitByte x.latched ++ natToBytes 2 x.fireTotal
    ++ bitByte x.changed

/-- The entry of PART STATUS (R178, with R155 and R167 in their places). -/
def partStatusOf (s : State) : List Byte :=
  natToBytes 6 s.house.count.toNat ++ natToBytes 1 (presenceNumber s.house.reference)
    ++ natToBytes 1 (presenceNumber s.house.pulse) ++ bitByte s.swapPending ++ [if s.activeBank = .a then 0 else 1]
    ++ bitByte s.flags.ordersDropped ++ bitByte s.flags.passDropped ++ bitByte s.flags.unknownReporter
    ++ bitByte s.flags.noticesLost ++ bitByte s.flags.reportsDropped
    ++ natToBytes 1 s.notices.length ++ natToBytes 2 s.lostCount
    ++ natToBytes 1 ((List.finRange 48).countP fun i => s.triggers[i].status.latched)
    ++ natToBytes 1 ((List.finRange 48).countP fun i =>
      decide (s.triggers[i].status.state = .active ∨ s.triggers[i].status.state = .clearing))
    ++ natToBytes 1 s.replyQueue.length ++ natToBytes 1 s.reportQueue.length ++ natToBytes 1 s.passQueue.length
    ++ bitByte s.ready ++ natToBytes 1 s.orders.length ++ natToBytes 1 (s.orders.countP (·.inProgress))

/-- The entry of SETTINGS: the record, and then the strap value, the active bank, the swap pending flag and the house sample
count, which are read only (Table 11-6). -/
def settingsOf (s : State) : List Byte :=
  let c := s.settings
  natToBytes 1 c.unit.toNat ++ natToBytes 2 c.managementKey.toNat ++ natToBytes 2 c.partEtherType.toNat
    ++ natToBytes 4 c.ipv4.toNat ++ natToBytes 2 c.keyMask.toNat ++ bitByte c.foreignPass ++ bitByte c.otherPass
    ++ bitByte c.latencyPass ++ bitByte c.learn ++ natToBytes 1 c.staleTimeout ++ natToBytes 6 c.noticeMac.toNat
    ++ natToBytes 2 c.noticeKey.toNat ++ natToBytes 6 c.reportMac.toNat ++ natToBytes 2 c.reportKey.toNat
    ++ [s.straps] ++ [if s.activeBank = .a then 0 else 1] ++ bitByte s.swapPending ++ natToBytes 6 s.house.count.toNat

/-- The entry of STREAM: the fields of Table 1-3 and then A_s, which is read only (R42, Tables 11-6 and 11-7). -/
def streamOf (e : StreamEntry) : List Byte :=
  let rate : Byte × ℚ := match e.rate with
    | .r44 => (0, 44100)
    | .r48 => (1, 48000)
    | .r88 => (2, 88200)
    | .r96 => (3, 96000)
  let latency : Nat := if e.valid = true then ⌈((e.targetFill + e.taps / 2 : Nat) : ℚ) * 48000 / rate.2⌉.toNat else 0
  bitByte e.valid ++ natToBytes 2 e.key.toNat ++ [rate.1] ++ natToBytes 1 e.lanes ++ natToBytes 1 e.first
    ++ [if e.format = .s16 then 0 else 1] ++ natToBytes 2 e.targetFill ++ [if e.filter = .normal then 0 else 1]
    ++ [if e.concealment = .zero then 0 else 1] ++ natToBytes 2 e.gapTimeout ++ natToBytes 1 e.holdoverLimit
    ++ natToBytes 1 e.gp ++ natToBytes 1 e.gi ++ natToBytes 2 latency

/-- A list field: its bytes, and zeros up to its `n` bytes (R184). -/
def placesOf (n : Nat) (bs : List Byte) : List Byte := bs ++ List.replicate (n - bs.length) 0

/-- The entry of PROGRAM (Tables 3-1, 11-6 and 11-7). -/
def programOf (e : ProgramEntry) : List Byte :=
  let role (r : Role) : Byte := match r with
    | .front => 0
    | .surround => 1
    | .lfe => 2
  let fallback : List (Fin 128) := match e.fallback with
    | some slots => slots
    | none => []
  bitByte e.valid ++ natToBytes 1 e.members.length
    ++ placesOf 16 (e.members.flatMap fun m => natToBytes 1 m.slot.val ++ [role m.role])
    ++ bitByte (decide (e.fallback ≠ none)) ++ placesOf 8 (fallback.flatMap fun l => natToBytes 1 l.val)
    ++ [if e.mode = .measure then 0 else 1] ++ signedBytes 4 e.target ++ signedBytes 4 e.maxBoost
    ++ signedBytes 4 e.maxCut ++ natToBytes 1 e.slew ++ signedBytes 4 e.freezeThreshold ++ natToBytes 1 e.window
    ++ signedBytes 4 e.preset ++ signedBytes 4 e.quietThreshold ++ natToBytes 1 e.chain.length
    ++ placesOf 4 (e.chain.flatMap fun i => natToBytes 1 i.val) ++ signedBytes 4 e.offset ++ signedBytes 4 e.trim
    ++ natToBytes 2 e.tolerance ++ [if e.moveMode = .dip then 0 else 1] ++ natToBytes 2 e.quietWait

/-- The entry of EGRESS (Tables 9-1, 11-6 and 11-7). -/
def egressOf (e : EgressEntry) : List Byte :=
  [if e.carrier = .raw then 0 else 1] ++ natToBytes 6 e.mac.toNat ++ natToBytes 4 e.ipv4.toNat
    ++ natToBytes 2 e.port.toNat ++ natToBytes 2 e.key.toNat ++ natToBytes 1 e.packetSize
    ++ natToBytes 4 e.reporter.toNat

/-- The entry of LATENCY: the fields that are written, and then the origin, the state, the age, held at its greatest value,
and the changed flag, which are read only (Tables 11-5, 11-6 and 11-7; the number beside the mark, log 18). -/
def latencyOf (free : BitVec 32) (e : LatencyEntry) : List Byte :=
  let state : Byte := match e.state with
    | .absent => 0
    | .fresh => 1
    | .stale => 2
  bitByte e.valid ++ natToBytes 4 e.reporter.toNat ++ microsOrMark free e.latency ++ bitByte e.lock ++ bitByte e.ignore
    ++ [if e.origin = .captured then 0 else 1] ++ [state] ++ natToBytes 4 (min 4294967295 e.age) ++ bitByte e.changed

/-- The entry of TRIGGER, the responses as the sum of their bits (Tables 8-1, 8-2 and 11-6, R184). -/
def triggerOf (e : TriggerEntry) : List Byte :=
  let r := e.responses
  let responses : Nat := r.notice.toNat + 2 * r.mute.toNat + 4 * r.freezeGain.toNat + 8 * r.holdIntegration.toNat
    + 16 * r.fallback.toNat
  bitByte e.enable ++ [if e.level2 = true then 2 else 1] ++ natToBytes 1 (e.arming.elim 255 (·.val))
    ++ natToBytes 2 e.armWindow ++ natToBytes 1 (conditionNumber e.condition) ++ natToBytes 1 e.object
    ++ signedBytes 4 e.parameter ++ natToBytes 2 e.fireCount ++ natToBytes 2 e.clearCount ++ bitByte e.latch
    ++ natToBytes 1 responses ++ natToBytes 1 (e.target.elim 255 (·.val))

/-- What a reading of each table shows: the bytes of Table 11-6 of a configuration table, the read-only fields among them,
which are read back as O50 says, the items of the status tables in the order of their rules, the pool and the histogram (R81, R114, R174, R184, Table 6-3;
widths the tables do not give are log 19, and the items of a pool block that do not apply log 35). -/
def EntriesShown : Prop :=
  ∀ (s : State) (which : Bank),
    s.entryBytes .settings which 0 = settingsBytes s ∧ settingsBytes s = settingsOf s ∧
    (∀ e : StreamEntry, streamBytes e = streamOf e) ∧ (∀ e : ProgramEntry, programBytes e = programOf e) ∧
    (∀ e : EgressEntry, egressBytes e = egressOf e) ∧ (∀ e : TriggerEntry, triggerBytes e = triggerOf e) ∧
    (∀ (free : BitVec 32) (e : LatencyEntry), latencyBytes free e = latencyOf free e) ∧
    (∀ i : Fin 32, s.entryBytes .stream which i.val = streamBytes s.streams[i].entry ∧
      s.entryBytes .streamStatus which i.val = streamStatusOf s.streams[i].ctx) ∧
    (∀ p : Fin 16, s.entryBytes .program which p.val = programBytes (s.bank which)[p] ∧
      s.entryBytes .egress which p.val = egressBytes s.egressTable[p] ∧
      s.entryBytes .programStatus which p.val = programStatusOf s p) ∧
    (∀ i : Fin 64,
      s.entryBytes .latency which i.val = latencyBytes (Config.noValueNumber s.freeCount) s.latencies[i]) ∧
    (∀ i : Fin 48, s.entryBytes .trigger which i.val = triggerBytes s.triggers[i].entry ∧
      s.entryBytes .triggerStatus which i.val = triggerStatusOf s.triggers[i].status) ∧
    s.entryBytes .partStatus which 0 = partStatusOf s ∧
    (∀ (p : Fin 16) (b : Fin 750),
      s.entryBytes .histogram which (p.val * 750 + b.val) = natToBytes 4 s.programs[p].meter.histogram[b]) ∧
    s.entryBytes .pool which 0 = natToBytes 2 s.freeList.length ++ natToBytes 2 (2048 - s.freeList.length)
      ++ natToBytes 2 (s.freeList.head?.getD 0xFFFF) ++ natToBytes 2 (s.freeList.getLast?.getD 0xFFFF) ∧
    (∀ p : Fin 16, let d := s.programs[p].delay
      s.entryBytes .pool which (1 + p.val) = natToBytes 1 d.rings.length ++ natToBytes 1 d.blocks
        ++ natToBytes 4 (d.blocks * 1024 - 1) ++ natToBytes 2 (d.rings.length * d.blocks) ++ natToBytes 4 d.writePlace
        ++ natToBytes 4 d.readPlace) ∧
    (s.PoolPartitioned → ∀ b : Nat,
      (∀ k : Nat, s.freeList[k]? = some b →
        s.entryBytes .pool which (17 + b) = [0#8] ++ natToBytes 2 k ++ [255#8, 255#8, 255#8]) ∧
      (∀ (p : Fin 16) (ring : List Nat) (m k : Nat), s.programs[p].delay.rings[m]? = some ring → ring[k]? = some b →
        s.entryBytes .pool which (17 + b) = [1#8, 0xFF#8, 0xFF#8] ++ natToBytes 1 p.val ++ natToBytes 1 m ++ natToBytes 1 k))

/-- READ ENTRY: the entry as it stands, with the order gone from the queue, then the effects of the reading, and a read
cursor one above; a failing test of R172 gives ILLEGAL or RANGE and clears the cursor. READ NEXT acts in the same way at a
read cursor's next index and raises it; past the last index it is RANGE, and without a read cursor SEQUENCE, each
clearing the cursor (R172, R173, R174). What the reply shows of each table is `EntriesShown` (R184), and the bytes of a
reply frame are `ReplyBytes` (R163, R183). The table id of a SEQUENCE reply is log 17; the free number beside an absent
latency log 18; widths that no table gives log 19; the items of a pool block that do not apply log 35; a lock count beyond 4
bytes log 45. -/
def Obligations.ReadOrdersResult : Prop :=
  (∀ (s : State) (before after : List Order) (o : Order), s.OrderReady before o after 1 →
    let left : State := { s with orders := before ++ after }
    (∀ (table : Table) (which : Bank), tableCodes[o.table.toNat]? = some table → o.index < table.size →
      (table = .program → bankCodes[o.bank.toNat]? = some which) → (table ≠ .program → which = .a) →
      exec .readEntry s = .next ((left.afterReading table o.index).answered before o after o.table .done
        (left.entryBytes table which o.index) (some ⟨false, table, which, o.index + 1⟩))) ∧
    (tableCodes[o.table.toNat]? = none →
      exec .readEntry s = .next (s.answered before o after o.table .illegal [] none)) ∧
    (∀ table : Table, tableCodes[o.table.toNat]? = some table →
      table.size ≤ o.index ∨ (table = .program ∧ bankCodes[o.bank.toNat]? = none) →
      exec .readEntry s = .next (s.answered before o after o.table .range [] none))) ∧
  (∀ (s : State) (before after : List Order) (o : Order), s.OrderReady before o after 2 →
    let left : State := { s with orders := before ++ after }
    (∀ (table : Table) (which : Bank) (i : Nat), s.cursor = some ⟨false, table, which, i⟩ →
      (i < table.size →
        exec .readNext s = .next ((left.afterReading table i).answered before o after
          (BitVec.ofNat 8 (tableCodes.idxOf table)) .done
          (left.entryBytes table which i) (some ⟨false, table, which, i + 1⟩))) ∧
      (table.size ≤ i →
        exec .readNext s = .next (s.answered before o after (BitVec.ofNat 8 (tableCodes.idxOf table)) .range [] none))) ∧
    (s.cursor = none ∨ (∃ c, s.cursor = some c ∧ c.write = true) →
      exec .readNext s = .next (s.answered before o after o.table .sequence [] none))) ∧
  EntriesShown ∧ ReplyBytes

/-- What a reading changes, table by table: Table 10-4 (R11, R21, R79, R121, R154, R174, R178). The counter of the free
numbers that readings show is the model's own (log 18). -/
def Obligations.ReadingEffects : Prop :=
  ∀ s : State,
    (∀ t ∈ [Table.settings, .stream, .program, .egress, .trigger, .pool, .histogram], ∀ i, s.afterReading t i = s) ∧
    (∀ i : Fin 64, { s.afterReading .latency i.val with freeCount := s.freeCount } =
      { s with latencies := s.latencies.set i { s.latencies[i] with changed := false } }) ∧
    (∀ i : Fin 32, s.afterReading .streamStatus i.val = s.putContext i { s.streams[i].ctx with
      flags := ⟨false, false, false, false, false, false⟩
      maxFill := s.streams[i].ctx.fill, minFill := s.streams[i].ctx.fill }) ∧
    (∀ i : Fin 48, s.afterReading .triggerStatus i.val = { s with triggers := s.triggers.set i ({ s.triggers[i] with
      status := { s.triggers[i].status with changed := false } } : Trigger) }) ∧
    (s.afterReading .partStatus 0 = { s with flags := ⟨false, false, false, false, false⟩ }) ∧
    (∀ p : Fin 16,
      let g := s.programs[p]
      let g' := (s.afterReading .programStatus p.val).programs[p]
      { s.afterReading .programStatus p.val with freeCount := s.freeCount } = s.putProgram p g' ∧
      g'.changed = false ∧ g'.egress = { g.egress with drop := false } ∧
      (∀ m : Fin 8, g'.meter.peaks[m] = if m.val < (s.activeEntry p).members.length then 0 else g.meter.peaks[m]) ∧
      { g' with changed := g.changed, egress := g.egress, meter := g.meter } = g ∧
      { g'.meter with peaks := g.meter.peaks } = g.meter)

/-- A write of an Egress Table entry, by any of the three orders, stores it and has the program's delay computed again;
while the program processes house samples it is refused whole with STATE (R125, R157). -/
def EgressWritesAct : Prop :=
  ∀ (s : State) (before after : List Order) (o : Order) (p : Fin 16) (e : EgressEntry) (c : Instr)
    (cursor : Option Cursor), s.Writes before o after .egress .a p.val (.egress e) c cursor →
    (s.programs[p].state.processing = true → exec c s = .next (s.answered before o after 3 .state [] cursor)) ∧
    (s.programs[p].state.processing = false →
      exec c s = .next ((({ s with egressTable := s.egressTable.set p e }).recompute p).answered
        before o after 3 .done [] cursor))

/-- A write of a Latency Table entry stores the fields with origin SET; the entry becomes FRESH with age 0, or ABSENT where
it holds no value; a changed value sets the changed flag, and a changed contribution has the programs that name the entry
computed again. Another valid entry's reporter id is refused whole with RANGE (R116, R120, R122; the age of a valid entry
without a value is log 24). -/
def LatencyWritesAct : Prop :=
  ∀ (s : State) (before after : List Order) (o : Order) (i : Fin 64) (w : LatencyWrite) (c : Instr)
    (cursor : Option Cursor), s.Writes before o after .latency .a i.val (.latency w) c cursor →
    let x := s.latencies[i]
    let taken : Prop := w.valid = true ∧
      ∃ j : Fin 64, j ≠ i ∧ s.latencies[j].valid = true ∧ s.latencies[j].reporter = w.reporter
    let value := if w.valid = true then w.latency else none
    let y : LatencyEntry :=
      { valid := w.valid, reporter := w.reporter, latency := value, origin := .set, lock := w.lock, ignore := w.ignore
        state := if value = none then .absent else .fresh
        age := if w.valid = true ∧ value = none then x.age else 0
        changed := x.changed || decide (value ≠ x.latency) }
    let contributes (z : LatencyEntry) : Nat := if z.valid = true ∧ z.ignore = false then z.latency.getD 0 else 0
    let stored : State := { s with latencies := s.latencies.set i y }
    (taken → exec c s = .next (s.answered before o after 4 .range [] cursor)) ∧
    (¬ taken → ∃ u : State, exec c s = .next (u.answered before o after 4 .done [] cursor) ∧
      u = { stored with programs := u.programs } ∧
      ∀ p : Fin 16, u.programs[p] =
        if i ∈ (s.activeEntry p).chain ∧ contributes y ≠ contributes x then (stored.recompute p).programs[p]
        else s.programs[p])

/-- A write of a Trigger Table entry stores it and restarts its status in WATCHING or OFF with the changed flag set; where
the old entry was ACTIVE or CLEARING with NOTICE a WITHDRAWN notice is offered; its dependents lose their arming; the votes
become the numbers of the triggers that hold them, and fallback follows, as `voted` gives. A level-2 entry without a level-1 arming trigger
other than itself, and a response to no program, are refused whole with RANGE (R54, R56, R58, R64, R125, R137, R138, R148,
R151, R152; that the triggers are counted anew and that fallback switches in the same act is log 23, a dependent's loss log
25, the filters of a place that one list only has log 39). -/
def TriggerWritesAct : Prop :=
  ∀ (s : State) (before after : List Order) (o : Order) (i : Fin 48) (e : TriggerEntry) (c : Instr)
    (cursor : Option Cursor), s.Writes before o after .trigger .a i.val (.trigger e) c cursor →
    let old := s.triggers[i]
    let refused : Prop :=
      (e.level2 = true ∧ ∀ a : Fin 48, e.arming = some a → a = i ∨ s.triggers[a].entry.level2 = true) ∨
      (e.target = none ∧ (e.responses.mute = true ∨ e.responses.freezeGain = true ∨ e.responses.holdIntegration = true ∨
        e.responses.fallback = true))
    (refused → exec c s = .next (s.answered before o after 5 .range [] cursor)) ∧
    (¬ refused → ∃ u : State, exec c s = .next (u.answered before o after 5 .done [] cursor) ∧
      (let withdrawn : Bool := decide (old.status.state = .active ∨ old.status.state = .clearing) && old.entry.responses.notice
       let noted := if withdrawn = true then
          s.offerNotice ⟨.withdrawn, some i, if old.entry.level2 then 2 else 1, old.entry.condition, old.entry.object,
            old.entry.target, old.status.lastMeasured, old.entry.responses, s.house.count.setWidth 32⟩
        else s
       u = { noted with triggers := u.triggers, programs := u.programs }) ∧
      u.triggers[i] = ⟨e, ⟨if e.enable then .watching else .off, 0, false, 0, false, 0, false, 0, true⟩⟩ ∧
      (∀ j : Fin 48, j ≠ i →
        let x := s.triggers[j]
        u.triggers[j] = if x.entry.level2 = true ∧ x.entry.arming = some i then
          { x with status := { x.status with windowRemaining := 0 } } else x) ∧
      ∀ p : Fin 16,
        let g := s.programs[p]
        let count (response : Responses → Bool) : Nat := (List.finRange 48).countP (u.activeFor p response)
        let votes : Votes := ⟨count (·.mute), count (·.freezeGain), count (·.holdIntegration), count (·.fallback)⟩
        u.programs[p].votes = votes ∧ u.programs[p].state = g.state ∧
        (u.programs[p].fallbackInUse = true ↔ 0 < votes.fallback ∧ (s.activeEntry p).fallback ≠ none) ∧
        u.programs[p] = voted s p g votes)

/-- What a TRIGGER entry takes from the bytes of a write for its level: one of level 1 is stored without the arming trigger
and the arm window that they carry, and one of level 2 with both (R136, Table 8-1). -/
def TriggerLevelRead : Prop :=
  ∀ (contents : List Byte) (e : TriggerEntry), readTrigger contents = some e →
    (fieldAt contents 1 1 = 1 → e.level2 = false ∧ e.arming = none ∧ e.armWindow = 0) ∧
    (fieldAt contents 1 1 ≠ 1 → e.level2 = true ∧ e.arming.elim 255 (·.val) = fieldAt contents 2 1 ∧
      e.armWindow = fieldAt contents 3 2)

/-- WRITE ENTRY and CLEAR ENTRY of SETTINGS store the whole record, and the reply is built under the new one; a write with
unit number 255 or a stale timeout outside 1 to 60 s is RANGE (R170, R175, R176). A write of an EGRESS, LATENCY or TRIGGER
entry by WRITE ENTRY, WRITE NEXT or CLEAR ENTRY stores the entry and acts as its block gives, or is refused whole (R120,
R137, R138, R157). What a TRIGGER write makes of the programs' votes and fallback is `voted` (R56, R58, R64, R125, R148;
the counting anew and the switch in the same act log 23, filters log 39), and a level-1 entry is stored without the arming
trigger and the arm window that the write carries (R136). The age of a LATENCY entry without a value is log 24, a
dependent's lost arming log 25. The power-on contents that CLEAR ENTRY writes are O3's `EntriesAtPowerOn` and
`EntriesCleared`. -/
def Obligations.SettingsWritten : Prop :=
  (∀ (s : State) (before after : List Order) (o : Order), o.table = 0 → o.index = 0 →
    (s.OrderReady before o after 3 →
      (∀ c, 41 ≤ o.contents.length → readSettings o.contents = some c →
        exec .writeEntry s = .next (({ s with settings := c }).answered before o after o.table .done []
          (some ⟨true, .settings, .a, 1⟩))) ∧
      (o.contents.length < 41 ∨ fieldAt o.contents 0 1 = 255 ∨ fieldAt o.contents 15 1 = 0 ∨
          60 < fieldAt o.contents 15 1 →
        exec .writeEntry s = .next (s.answered before o after o.table .range [] (some ⟨true, .settings, .a, 1⟩)))) ∧
    (s.OrderReady before o after 5 →
      exec .clearEntry s = .next (({ s with settings := .powerOn s.straps }).answered before o after o.table .done []
        none))) ∧
  EgressWritesAct ∧ LatencyWritesAct ∧ TriggerWritesAct ∧ TriggerLevelRead

/-- A write of a Program Table entry of the inactive bank changes the stored entry alone. One of the active bank is refused
whole with STATE while the program processes house samples, and else comes into force at once: the program becomes STOPPED
for a valid entry and FREE for another, its rings go back where their number is not the member count, fallback, the
filters of the members whose slot changed, the peaks, the gain and the window ring follow the entry, and the delay is
computed again (R44 to R46, R54, R64, R79, R82, R87, R88, R107, R125, R132; the dip count in REST is log 8, the start value
of a ramp at rest log 42, the filters under an entry that is not valid log 41, the window ring under it log 44; the stamp of an
empty packet and the start and length of a wait log 46). -/
def ProgramWritesAct : Prop :=
  ∀ (s : State) (before after : List Order) (o : Order) (which : Bank) (p : Fin 16) (e : ProgramEntry) (c : Instr)
    (cursor : Option Cursor), s.Writes before o after .program which p.val (.program e) c cursor →
    let g := s.programs[p]
    let old := s.activeEntry p
    let stored : State := { s with
      bankA := if which = .a then s.bankA.set p e else s.bankA, bankB := if which = .b then s.bankB.set p e else s.bankB }
    let state : ProgramState := if e.valid = true then .stopped else .free
    let freed : Bool := !e.valid && decide (g.state ≠ .free)
    let released : Bool := e.valid && decide (g.delay.rings ≠ [] ∧ g.delay.rings.length ≠ e.members.length)
    let fallback : Bool := decide (0 < g.votes.fallback) && e.fallback.isSome
    let slots := effectiveSlots old g.fallbackInUse
    let slots' := effectiveSlots e fallback
    let ring := g.corr.ring.drop (g.corr.ring.length - e.window * 10)
    let shorter : Bool := decide (e.window * 10 < g.corr.ring.length)
    let brought : Program := { g with
      state := state
      changed := g.changed || decide (g.state ≠ state) || decide (g.fallbackInUse ≠ fallback)
      fallbackInUse := fallback
      meter := { g.meter with
        filters := .ofFn fun k => if slots[k.val]? = slots'[k.val]? then g.meter.filters[k] else ⟨⟨0, 0, 0, 0⟩, ⟨0, 0, 0, 0⟩⟩
        peaks := .ofFn fun k =>
          if old.members.length = e.members.length ∨ k.val < e.members.length then g.meter.peaks[k] else 0 }
      corr :=
        if e.valid = true then { g.corr with
          gain := match e.mode with
            | .measure => e.preset
            | .track => if g.corr.gain < -e.maxCut then -e.maxCut else if e.maxBoost < g.corr.gain then e.maxBoost
              else g.corr.gain
          ring := ring
          window := if shorter then (windowLoudness ring).2 else g.corr.window
          windowGate := if shorter then (windowLoudness ring).1 else g.corr.windowGate }
        else if freed then { g.corr with
          gain := 0, schedule := [], ramp := { g.corr.ramp with present := g.corr.ramp.finish, count := 480 }
          dip := .rest, dipCount := 0, stop := 0 }
        else g.corr
      delay := if released then ⟨0, [], 0, 0⟩ else g.delay
      lip := if freed then { g.lip with move := .none, pendingMove := false } else g.lip
      egress := if freed then { g.egress with progress := [] } else g.egress }
    (which ≠ s.activeBank → exec c s = .next (stored.answered before o after 2 .done [] cursor)) ∧
    (which = s.activeBank → g.state.processing = true →
      exec c s = .next (s.answered before o after 2 .state [] cursor)) ∧
    (which = s.activeBank → g.state.processing = false →
      let freeList := if released then s.freeList ++ g.delay.rings.flatten else s.freeList
      exec c s = .next (((({ stored with freeList := freeList } : State).putProgram p brought).recompute p).answered
        before o after 2 .done [] cursor))

/-- A write of a Stream Table entry by WRITE ENTRY, WRITE NEXT or CLEAR ENTRY that passes the tests of R8 stores it, resets
the context and has every program's delay computed again; one that takes another valid entry's key or one of its lane
slots, or reaches beyond slot 127, is refused whole with RANGE (R8, R9, R42, R125, R173, R175). A write of a Program Table
entry is stored, and acts at once in the active bank, as R45 and R46 give, or is refused whole with STATE; the dip count
in REST is log 8, the filters of a place that one entry only has log 39, those under an entry that is not valid log 41, the
start value of a ramp at rest log 42, the window ring under an entry that is not valid log 44, that a stream's step stays
log 38, that its start of holdover does log 43, and that the items of log 46 do that log. The power-on contents that CLEAR
ENTRY writes are O3's `EntriesAtPowerOn` and `EntriesCleared`. -/
def Obligations.StreamWritten : Prop :=
  (∀ (s : State) (before after : List Order) (o : Order) (i : Fin 32) (e : StreamEntry) (c : Instr)
    (cursor : Option Cursor), s.Writes before o after .stream .a i.val (.stream e) c cursor →
    let restarted : Context := { s.streams[i].ctx with
      state := if e.valid = true then .acquire else .empty
      expected := none, last := none, buffer := [], writeIndex := 0, pos := 0
      integrator := 0, correction := 0, lastError := 0, lockCount := 0, windowSum := 0, windowCount := 0
      minFill := 0 }
    let stored : State := { s with streams := s.streams.set i ⟨e, restarted⟩ }
    (e.first + e.lanes ≤ 128 →
      (e.valid = true → ∀ j : Fin 32, j ≠ i → s.streams[j].entry.valid = true →
        s.streams[j].entry.key ≠ e.key ∧ 1 ≤ s.streams[j].entry.lanes ∧
        ∀ k, e.covers k = true → s.streams[j].entry.covers k = false) →
      ∃ u : State, exec c s = .next (u.answered before o after 1 .done [] cursor) ∧
        u = { stored with programs := u.programs } ∧ ∀ p : Fin 16, u.programs[p] = (stored.recompute p).programs[p]) ∧
    (∀ j : Fin 32, e.valid = true → j ≠ i → s.streams[j].entry.valid = true →
      s.streams[j].entry.key = e.key ∨ (∃ k, e.covers k = true ∧ s.streams[j].entry.covers k = true) →
      exec c s = .next (s.answered before o after 1 .range [] cursor)) ∧
    (128 < e.first + e.lanes → exec c s = .next (s.answered before o after 1 .range [] cursor))) ∧
  ProgramWritesAct

/-- A byte of the contents of a write lies outside the codes or the range of its field (Tables 1-3, 3-1, 7-1, 8-1, 9-1 and
10-5; R184). -/
def OutOfRange (table : Table) (bs : List Byte) : Prop :=
  let byte (off : Nat) : Nat := fieldAt bs off 1
  let word (off : Nat) : Nat := fieldAt bs off 2
  let outside (off : Nat) (lo hi : Int) : Prop := signedAt bs off < lo ∨ hi < signedAt bs off
  match table with
  | .settings => byte 0 = 255 ∨ (∃ off ∈ [11, 12, 13, 14], 1 < byte off) ∨ byte 15 = 0 ∨ 60 < byte 15
  | .stream => 1 < byte 0 ∨ 3 < byte 3 ∨ byte 4 = 0 ∨ 16 < byte 4 ∨ 127 < byte 5 ∨ 1 < byte 6 ∨ word 7 < 64 ∨
      1536 < word 7 ∨ 1 < byte 9 ∨ 1 < byte 10 ∨ word 11 < 5 ∨ 500 < word 11 ∨ byte 13 = 0 ∨ 100 < byte 13 ∨
      64 < byte 14 ∨ 16 < byte 15
  | .program => 1 < byte 0 ∨ byte 1 = 0 ∨ 8 < byte 1 ∨
      (∃ m < byte 1, 127 < byte (2 + 2 * m) ∨ 2 < byte (3 + 2 * m)) ∨ 1 < byte 18 ∨
      (byte 18 = 1 ∧ ∃ m < byte 1, 127 < byte (19 + m)) ∨ 1 < byte 27 ∨ outside 28 (-3600) (-1000) ∨
      outside 32 0 1200 ∨ outside 36 0 2400 ∨ byte 40 = 0 ∨ 100 < byte 40 ∨ outside 41 (-7000) (-2000) ∨
      byte 45 < 3 ∨ 120 < byte 45 ∨ outside 46 (-signedAt bs 36) (signedAt bs 32) ∨ outside 50 (-7000) (-1000) ∨
      4 < byte 54 ∨ (∃ k < byte 54, 63 < byte (55 + k) ∨ ∃ j < k, byte (55 + j) = byte (55 + k)) ∨
      outside 59 (-100000) 1000000 ∨ outside 63 (-4800) 4800 ∨ 4800 < word 67 ∨ 1 < byte 69 ∨ word 70 = 0 ∨
      600 < word 70
  | .egress => 1 < byte 0 ∨ byte 15 ∉ [6, 12, 24, 48]
  | .latency => 1 < byte 0 ∨ 1 < byte 5 ∨ (byte 5 = 0 ∧ 1000000 < fieldAt bs 6 4) ∨ 1 < byte 10 ∨ 1 < byte 11
  | .trigger => 1 < byte 0 ∨ byte 1 = 0 ∨ 2 < byte 1 ∨ (47 < byte 2 ∧ byte 2 ≠ 255) ∨ 600 < word 3 ∨ 16 < byte 5 ∨
      (∃ kind, conditionCodes[byte 5]? = some kind ∧ kind.objects ≤ byte 6) ∨ word 11 = 0 ∨ 600 < word 11 ∨
      word 13 = 0 ∨ 600 < word 13 ∨ 1 < byte 15 ∨ 31 < byte 16 ∨ (15 < byte 17 ∧ byte 17 ≠ 255)
  | .streamStatus | .programStatus | .triggerStatus | .partStatus | .pool | .histogram => False

/-- The writing orders that no block comes to judge: a table that is unknown or only read is ILLEGAL, an index or bank
outside the table RANGE, and each clears the cursor; contents that are short or hold a field outside its range are RANGE
with the cursor moved on; a WRITE NEXT past the last index is RANGE and one without a write cursor SEQUENCE, each clearing
the cursor (R172, R173, R175). The table id of a SEQUENCE reply is log 17; the bytes beside a no-value mark log 36. -/
def MalformedWritesRefused : Prop :=
  ∀ (s : State) (before after : List Order) (o : Order),
    (∀ c : Instr, (s.OrderReady before o after 3 ∧ c = .writeEntry) ∨ (s.OrderReady before o after 5 ∧ c = .clearEntry) →
      (6 ≤ o.table.toNat → exec c s = .next (s.answered before o after o.table .illegal [] none)) ∧
      (∀ table : Table, tableCodes[o.table.toNat]? = some table → o.table.toNat < 6 →
        table.size ≤ o.index ∨ (table = .program ∧ 1 < o.bank.toNat) →
        exec c s = .next (s.answered before o after o.table .range [] none))) ∧
    (∀ (table : Table) (which : Bank) (i : Nat), tableCodes.idxOf table < 6 →
      let id : Byte := BitVec.ofNat 8 (tableCodes.idxOf table)
      let cursor : Cursor := ⟨true, table, which, i + 1⟩
      let lengths : List Nat := [41, 18, 72, 20, 19, 18]
      o.contents.length < lengths.getD (tableCodes.idxOf table) 0 ∨ OutOfRange table o.contents →
      (s.OrderReady before o after 3 → o.Names table which i →
        exec .writeEntry s = .next (s.answered before o after id .range [] (some cursor))) ∧
      (s.OrderReady before o after 4 → s.cursor = some ⟨true, table, which, i⟩ → i < table.size →
        exec .writeNext s = .next (s.answered before o after id .range [] (some cursor)))) ∧
    (s.OrderReady before o after 4 →
      (∀ (table : Table) (which : Bank) (i : Nat), s.cursor = some ⟨true, table, which, i⟩ → table.size ≤ i →
        exec .writeNext s = .next
          (s.answered before o after (BitVec.ofNat 8 (tableCodes.idxOf table)) .range [] none)) ∧
      (s.cursor = none ∨ (∃ x, s.cursor = some x ∧ x.write = false) →
        exec .writeNext s = .next (s.answered before o after o.table .sequence [] none)))

/-- A WRITE ENTRY, WRITE NEXT or CLEAR ENTRY that is not answered DONE changes nothing but the queues and the cursor
(R170, R175), and the tests of R172 refuse with ILLEGAL, RANGE or SEQUENCE in their order, before any block judges the
write (R172, R173). The table id of a SEQUENCE reply is log 17; the bytes beside a no-value mark are log 36. -/
def Obligations.RefusedWriteChangesNothing : Prop :=
  (∀ (s : State) (before after : List Order) (o : Order) (kind : Nat) (c : Instr),
    (kind = 3 ∧ c = .writeEntry) ∨ (kind = 4 ∧ c = .writeNext) ∨ (kind = 5 ∧ c = .clearEntry) →
    s.OrderReady before o after kind →
    ∃ (t : State) (table : Byte) (status : Status) (cursor : Option Cursor), exec c s = .next t ∧
      t.replyQueue = s.replyQueue ++
        [⟨replyFrame t.settings o table status (before.length + after.length) [], false⟩] ∧
      t.orders = before ++ after ∧ t.cursor = cursor ∧
      (status ≠ .done → t = s.answered before o after table status [] cursor)) ∧
  MalformedWritesRefused

/-- RESET PART is answered DONE at once, ends a pending swap without its acting, and from then on no order is taken; the
reset acts once the reply has been sent, and keeps the Settings record. A reset by the pin acts at once and sets the
record to its power-on contents (R6, R166, R169, R176, R179). The rest is the model's: PART_RESET_ACTS changes nothing
while undue (log 2); the resets keep the ready line (log 9), the delay blocks (log 11), the queue of commands (log 1), the
strap value and the counter of unstated numbers (log 18); and the values that no rule states are log 8. The values of
`State.reset` that the spec gives are O3's, and the fields of the Settings record at power-on its `EntriesAtPowerOn`. -/
def Obligations.ResetsAct : Prop :=
  ∀ (s : State),
    let again (settings : Settings) (straps : Byte) : State := { State.reset with
      settings := settings, straps := straps, ready := s.ready, memory := s.memory, freeCount := s.freeCount
      pending := s.pending }
    (∀ (before after : List Order) (o : Order), s.OrderReady before o after 15 →
      exec .resetPart s = .next { s with
        orders := before ++ after, cursor := none, swapPending := false, resetPhase := .awaiting
        replyQueue := s.replyQueue ++
          [⟨replyFrame s.settings o o.table .done (before.length + after.length) [], true⟩] }) ∧
    (s.resetPhase ≠ .none → ∀ c ∈ [Instr.nop, .readEntry, .readNext, .writeEntry, .writeNext, .clearEntry,
      .swapProgramBank, .startProgram, .stopProgram, .allocateDelay, .releaseDelay, .resetStream, .resetIntegration,
      .acknowledge, .sendLatency, .resetPart], exec c s = .next s) ∧
    (s.resetPhase = .due → exec .partResetActs s = .next (again s.settings s.straps)) ∧
    (s.resetPhase ≠ .due → exec .partResetActs s = .next s) ∧
    ∀ straps : Byte, exec (.powerOnReset straps) s = .next (again (.powerOn straps) straps)

/-! ### Entries in orders and replies (chapter 11) -/

/-- A configuration entry in its ranges is read back from the bytes that a reply carries, the read-only fields apart:
SETTINGS, STREAM, PROGRAM, EGRESS, LATENCY and TRIGGER (R136, R184); what a level-1 TRIGGER entry does not take from a
write's bytes is `TriggerLevelRead` (R136). That a LATENCY entry without a value is read back
whatever number stands beside the mark, one above 1,000,000 too, is the model's choice (log 36; the number, log 18). -/
def Obligations.ConfigurationEntriesRoundTrip : Prop :=
  TriggerLevelRead ∧
  (∀ s : State, s.settings.unit ≠ 255 → 1 ≤ s.settings.staleTimeout → s.settings.staleTimeout ≤ 60 →
    (settingsBytes s).length = 41 ∧ readSettings (settingsBytes s) = some s.settings) ∧
  (∀ e : StreamEntry, e.InRange → (streamBytes e).length = 18 ∧ readStream (streamBytes e) = some e) ∧
  (∀ e : ProgramEntry, e.InRange → (programBytes e).length = 72 ∧ readProgram (programBytes e) = some e) ∧
  (∀ e : EgressEntry, e.packetSize ∈ [6, 12, 24, 48] →
    (egressBytes e).length = 20 ∧ readEgress (egressBytes e) = some e) ∧
  (∀ (e : LatencyEntry) (free : BitVec 32), (∀ v, e.latency = some v → v ≤ 1000000) →
    (latencyBytes free e).length = 19 ∧
    readLatency (latencyBytes free e) = some ⟨e.valid, e.reporter, e.latency, e.lock, e.ignore⟩) ∧
  ∀ e : TriggerEntry, e.armWindow ≤ 600 → e.object < e.condition.objects → 1 ≤ e.fireCount → e.fireCount ≤ 600 →
    1 ≤ e.clearCount → e.clearCount ≤ 600 → -2147483648 ≤ e.parameter → e.parameter ≤ 2147483647 →
    (e.level2 = false → e.arming = none ∧ e.armWindow = 0) →
    (triggerBytes e).length = 18 ∧ readTrigger (triggerBytes e) = some e

/-! ### Laws of every moment, and that every step keeps them -/

/-- The reset state meets every law below; that the steps lie within their bound leans on the step of an empty context,
which is log 8, and the store's form on log 11. -/
def Obligations.ResetMeetsLaws : Prop :=
  State.reset.QueuesBounded ∧ State.reset.PoolPartitioned ∧ State.reset.memory.wf = true ∧
  State.reset.StreamsBounded ∧ State.reset.NamesUnique ∧ State.reset.VotesCounted ∧ State.reset.FollowsEntries ∧
  State.reset.GainsLimited ∧ State.reset.DelaysHeld

/-- Every step keeps the bounds of the queues (R5, R152, R160, R163, R164, R168). -/
def Obligations.StepKeepsQueuesBounded : Prop :=
  ∀ s t : State, s.QueuesBounded → step s = .next t → t.QueuesBounded

/-- Every step keeps each delay block at exactly one place (R101). -/
def Obligations.StepKeepsPoolPartitioned : Prop :=
  ∀ s t : State, s.PoolPartitioned → step s = .next t → t.PoolPartitioned

/-- Every step keeps the canonical form of the delay pool's store (log 11). -/
def Obligations.StepKeepsMemoryCanonical : Prop :=
  ∀ s t : State, s.memory.wf = true → step s = .next t → t.memory.wf = true

/-- Every step keeps every fill within 0 to 2016 and every I_r and δ within ±16,777 (R10, R34). -/
def Obligations.StepKeepsStreamsBounded : Prop :=
  ∀ s t : State, s.StreamsBounded → step s = .next t → t.StreamsBounded

/-- Every step keeps the keys and slots of valid streams and the reporter ids of valid entries unique (R8, R116). -/
def Obligations.StepKeepsNamesUnique : Prop :=
  ∀ s t : State, s.NamesUnique → step s = .next t → t.NamesUnique

/-- Every step keeps each vote count equal to the number of triggers that hold the vote (R148). -/
def Obligations.StepKeepsVotesCounted : Prop :=
  ∀ s t : State, s.VotesCounted → step s = .next t → t.VotesCounted

/-- Every step keeps the program states and the fallback in use as the active entries give them (R47, R54). -/
def Obligations.StepKeepsFollowsEntries : Prop :=
  ∀ s t : State, s.FollowsEntries → step s = .next t → t.FollowsEntries

/-- Every step keeps G within the limits of the active entry and at 0 for a FREE program (R84). -/
def Obligations.StepKeepsGainsLimited : Prop :=
  ∀ s t : State, s.GainsLimited → step s = .next t → t.GainsLimited

/-- Every step keeps the rings at the member count, D_actual within the capacity and 96,000, and the read place behind the
write place by D_actual (R102, R109, R124). -/
def Obligations.StepKeepsDelaysHeld : Prop :=
  ∀ s t : State, s.DelaysHeld → step s = .next t → t.DelaysHeld
end

