-- ==== Sys2Proof/Laws/Memory.lean ====
section
/-! SUPPORT. The delay pool's store: every operation keeps its canonical form, a read after a write gives the sample
written, and a write leaves every other address alone. -/

namespace Sys2Proof.Machine

theorem cellsOk_mono {low above : Nat} (h : low ≤ above) :
    ∀ cells : List (Nat × Sample), cellsOk above cells = true → cellsOk low cells = true
  | [], _ => rfl
  | c :: rest, ok => by
    simp only [cellsOk, Bool.and_eq_true, decide_eq_true_eq] at ok ⊢
    exact ⟨⟨h.trans ok.1.1, ok.1.2⟩, ok.2⟩

/-- No address below the bound is listed. -/
theorem readCells_below {above a : Nat} (h : a < above) :
    ∀ cells : List (Nat × Sample), cellsOk above cells = true → readCells cells a = 0
  | [], _ => rfl
  | c :: rest, ok => by
    simp only [cellsOk, Bool.and_eq_true, decide_eq_true_eq] at ok
    have : c.1 ≠ a := by omega
    simp only [readCells, this, if_false]
    exact readCells_below (by omega) rest ok.2

theorem writeCells_ok {above a : Nat} (x : Sample) (h : above ≤ a) :
    ∀ cells : List (Nat × Sample), cellsOk above cells = true → cellsOk above (writeCells cells a x) = true
  | [], _ => by
    by_cases hx : x = 0#24 <;> simp [writeCells, cellsOk, hx, h]
  | c :: rest, ok => by
    have ok' := ok
    simp only [cellsOk, Bool.and_eq_true, decide_eq_true_eq] at ok
    by_cases h1 : c.1 < a
    · simp only [writeCells, h1, if_true, cellsOk, Bool.and_eq_true, decide_eq_true_eq]
      exact ⟨ok.1, writeCells_ok x (by omega) rest ok.2⟩
    · by_cases h2 : c.1 = a
      · by_cases hx : x = 0#24
        · simp only [writeCells, h2, lt_irrefl, if_true, if_false, hx]
          exact cellsOk_mono (by omega) rest ok.2
        · have ok2 := ok.2
          rw [h2] at ok2
          simp [writeCells, h2, hx, cellsOk, h, ok2]
      · by_cases hx : x = 0#24
        · simp only [writeCells, h1, h2, if_false, hx]
          exact ok'
        · have hac : a + 1 ≤ c.1 := by omega
          have hc : c.2 ≠ 0#24 := ok.1.2
          simp [writeCells, h1, h2, hx, cellsOk, h, hc, ok.2, hac]

theorem readCells_writeCells {above a : Nat} (x : Sample) (i : Nat) (h : above ≤ a) :
    ∀ cells : List (Nat × Sample), cellsOk above cells = true →
      readCells (writeCells cells a x) i = if i = a then x else readCells cells i
  | [], _ => by
    by_cases hx : x = 0#24
    · simp [writeCells, readCells, hx]
    · by_cases hi : i = a
      · simp [writeCells, readCells, hx, hi]
      · have : a ≠ i := fun e => hi e.symm
        simp [writeCells, readCells, hx, hi, this]
  | c :: rest, ok => by
    simp only [cellsOk, Bool.and_eq_true, decide_eq_true_eq] at ok
    have hr : readCells rest a = 0 ∨ c.1 < a := by
      by_cases hc : c.1 < a
      · exact .inr hc
      · exact .inl (readCells_below (by omega) rest ok.2)
    by_cases h1 : c.1 < a
    · have ih := readCells_writeCells x i (show c.1 + 1 ≤ a by omega) rest ok.2
      by_cases hi : c.1 = i
      · have : i ≠ a := by omega
        have h3 : i < a := by omega
        simp [writeCells, h3, readCells, hi, this]
      · simp [writeCells, h1, readCells, hi, ih]
    · have hr' : readCells rest a = 0 := hr.resolve_right h1
      by_cases h2 : c.1 = a
      · by_cases hx : x = 0#24
        · by_cases hi : i = a
          · subst hi; simp [writeCells, h2, hx, hr']
          · have : a ≠ i := fun e => hi e.symm
            simp [writeCells, h2, hx, readCells, hi, this]
        · by_cases hi : i = a
          · subst hi; simp [writeCells, h2, hx, readCells]
          · have : a ≠ i := fun e => hi e.symm
            simp [writeCells, h2, hx, readCells, hi, this]
      · by_cases hx : x = 0#24
        · by_cases hi : i = a
          · subst hi; simp [writeCells, h1, h2, hx, readCells, hr']
          · simp [writeCells, h1, h2, hx, hi]
        · by_cases hi : i = a
          · subst hi; simp [writeCells, h1, h2, hx, readCells]
          · have : a ≠ i := fun e => hi e.symm
            simp [writeCells, h1, h2, hx, readCells, hi, this]

/-- A write keeps the canonical form. -/
theorem Memory.write_wf (m : Memory) (a : Nat) (x : Sample) (h : m.wf = true) : (m.write a x).wf = true :=
  writeCells_ok x (Nat.zero_le a) m.cells h

/-- A read after a write: the sample written at its address, and what was there at every other one. -/
theorem Memory.read_write (m : Memory) (a i : Nat) (x : Sample) (h : m.wf = true) :
    (m.write a x).read i = if i = a then x else m.read i :=
  readCells_writeCells x i (Nat.zero_le a) m.cells h

@[simp] theorem Memory.empty_wf : Memory.empty.wf = true := rfl

@[simp] theorem Memory.empty_read (a : Nat) : Memory.empty.read a = 0 := rfl

@[simp] theorem State.reset_memory : State.reset.memory = Memory.empty := rfl

/-- Equal reads make equal stores: the form is canonical. -/
theorem cells_ext {above : Nat} : ∀ c d : List (Nat × Sample), cellsOk above c = true → cellsOk above d = true →
    (∀ a, readCells c a = readCells d a) → c = d
  | [], [], _, _, _ => rfl
  | [], y :: d, _, hd, h => by
    simp only [cellsOk, Bool.and_eq_true, decide_eq_true_eq] at hd
    have := h y.1
    simp [readCells] at this
    exact absurd this.symm hd.1.2
  | x :: c, [], hc, _, h => by
    simp only [cellsOk, Bool.and_eq_true, decide_eq_true_eq] at hc
    have := h x.1
    simp [readCells] at this
    exact absurd this hc.1.2
  | x :: c, y :: d, hc, hd, h => by
    simp only [cellsOk, Bool.and_eq_true, decide_eq_true_eq] at hc hd
    have hx := h x.1
    have hy := h y.1
    simp only [readCells, if_true] at hx hy
    have key : x.1 = y.1 := by
      rcases lt_trichotomy x.1 y.1 with l | e | l
      · have ne : y.1 ≠ x.1 := by omega
        rw [if_neg ne, readCells_below (by omega) d hd.2] at hx
        exact absurd hx hc.1.2
      · exact e
      · have ne : x.1 ≠ y.1 := by omega
        rw [if_neg ne, readCells_below (by omega) c hc.2] at hy
        exact absurd hy.symm hd.1.2
    have val : x.2 = y.2 := by simpa [key] using hx
    have tail : c = d := by
      refine cells_ext c d hc.2 (by rw [key]; exact hd.2) fun a => ?_
      by_cases ha : a < x.1 + 1
      · rw [readCells_below ha c hc.2, readCells_below (by omega) d hd.2]
      · have := h a
        have n1 : x.1 ≠ a := by omega
        have n2 : y.1 ≠ a := by omega
        simpa [readCells, n1, n2] using this
    rw [tail, Prod.ext key val]

theorem Memory.ext_read (m n : Memory) (hm : m.wf = true) (hn : n.wf = true) (h : ∀ a, m.read a = n.read a) : m = n := by
  have := cells_ext m.cells n.cells hm hn h
  cases m; cases n; simp_all

/-! ### Writing one sample for each member -/

/-- `writeRings` as a write for the first ring and then for the others. -/
theorem writeRings_cons (ring : List Nat) (rings : List (List Nat)) (place : Nat) (x : Sample) (xs : List Sample)
    (m : Memory) :
    writeRings (ring :: rings) place (x :: xs) m =
      writeRings rings place xs
        (match placeAddress ring place with
          | some a => m.write a x
          | none => m) := rfl

/-- Writing the members' samples keeps the canonical form. -/
theorem writeRings_wf (place : Nat) : ∀ (rings : List (List Nat)) (xs : List Sample) (m : Memory), m.wf = true →
    (writeRings rings place xs m).wf = true
  | [], _, _, h => h
  | _ :: _, [], _, h => h
  | ring :: rings, x :: xs, m, h => by
    rw [writeRings_cons]
    refine writeRings_wf place rings xs _ ?_
    split
    · exact m.write_wf _ x h
    · exact h

end Sys2Proof.Machine
end

