-- ==== Sys2Proof/Laws/Numbers.lean ====
section
/-! SUPPORT. Clamping and counting, numbers in bytes, and what the operations on an elastic buffer do to its fill. -/

namespace Sys2Proof.Machine

/-! ### Clamping and counting -/

theorem clamp_eq (x lo hi : Int) (h : lo ≤ hi) : clamp x lo hi = max lo (min hi x) := by
  unfold clamp
  split
  · omega
  · split <;> omega

theorem clamp_le (x lo hi : Int) (h : lo ≤ hi) : clamp x lo hi ≤ hi := by rw [clamp_eq x lo hi h]; omega

theorem le_clamp (x lo hi : Int) (h : lo ≤ hi) : lo ≤ clamp x lo hi := by rw [clamp_eq x lo hi h]; omega

theorem clamp_self (x lo hi : Int) (hl : lo ≤ x) (hh : x ≤ hi) : clamp x lo hi = x := by
  rw [clamp_eq x lo hi (hl.trans hh)]; omega

theorem saturating_eq (top n : Nat) : saturating top n = min top n := by
  unfold saturating
  split <;> omega

/-! ### Numbers in bytes -/

@[simp] theorem natToBytes_length (n v : Nat) : (natToBytes n v).length = n := by
  induction n generalizing v with
  | zero => rfl
  | succ n ih => simp [natToBytes, ih]

@[simp] theorem intToBytes_length (n : Nat) (v : Int) : (intToBytes n v).length = n := by simp [intToBytes]

@[simp] theorem flagByte_length (x : Bool) : (flagByte x).length = 1 := by simp [flagByte]

@[simp] theorem codeByte_length {α : Type} [DecidableEq α] (codes : List α) (x : α) : (codeByte codes x).length = 1 := by
  simp [codeByte]

@[simp] theorem indexOrNone_length {n : Nat} (i : Option (Fin n)) : (indexOrNone i).length = 1 := by
  cases i <;> simp [indexOrNone]

theorem bytesToNat_snoc (bs : List Byte) (x : Byte) : bytesToNat (bs ++ [x]) = bytesToNat bs * 256 + x.toNat := by
  simp [bytesToNat]

/-- A number written in bytes is read back, as far as the bytes hold it. -/
theorem bytesToNat_natToBytes (n v : Nat) : bytesToNat (natToBytes n v) = v % 256 ^ n := by
  induction n generalizing v with
  | zero => simp [natToBytes, bytesToNat, Nat.mod_one]
  | succ n ih =>
    have e : 256 ^ (n + 1) = 256 * 256 ^ n := Nat.pow_succ'
    rw [natToBytes, bytesToNat_snoc, ih, BitVec.toNat_ofNat, e]
    have := Nat.mod_mul (a := 256) (b := 256 ^ n) (x := v)
    omega

/-- A field that stands behind `front` in a list of bytes. -/
theorem fieldAt_append (front field rest : List Byte) :
    fieldAt (front ++ (field ++ rest)) front.length field.length = bytesToNat field := by
  simp [fieldAt]

/-! ### The elastic buffer (R10, R11) -/

theorem Context.append_nil (c : Context) : c.append [] = c := by simp [Context.append]

/-- The fill after frames have joined, where they leave the count of 32 bits room. -/
theorem Context.append_fill (frames : List (List Sample)) (c : Context) (h : c.state ≠ .empty)
    (room : c.fill + frames.length < 4294967296) : (c.append frames).fill = c.fill + frames.length := by
  unfold Context.append
  split
  · next e => simp [e]
  · unfold Context.noteFill
    cases hs : c.state <;> simp_all [Context.fill, Context.position]
    all_goals bv_omega

/-- A flush leaves nothing in an EMPTY or ACQUIRE buffer. -/
theorem Context.flushTo_fill (st : ContextState) (h : st = .empty ∨ st = .acquire) (c : Context) :
    (c.flushTo st).fill = 0 ∧ (c.flushTo st).buffer = [] ∧ (c.flushTo st).state = st ∧ (c.flushTo st).minFill = 0 := by
  rcases h with rfl | rfl <;> simp [Context.flushTo, Context.noteFill, Context.emptyWindow, Context.fill]

end Sys2Proof.Machine
end

