-- ==== Sys2Proof/Laws/State.lean ====
section
/-! SUPPORT. What each update of the state leaves as it was, field by field, and what it gives where it acts. -/

namespace Sys2Proof.Machine

/-! ### `State.modifyStream` -/

section

variable (s : State) (i : Fin 32) (f : Stream → Stream)

@[simp] theorem State.modifyStream_settings : (s.modifyStream i f).settings = s.settings := rfl
@[simp] theorem State.modifyStream_straps : (s.modifyStream i f).straps = s.straps := rfl
@[simp] theorem State.modifyStream_house : (s.modifyStream i f).house = s.house := rfl
@[simp] theorem State.modifyStream_slots : (s.modifyStream i f).slots = s.slots := rfl
@[simp] theorem State.modifyStream_bankA : (s.modifyStream i f).bankA = s.bankA := rfl
@[simp] theorem State.modifyStream_bankB : (s.modifyStream i f).bankB = s.bankB := rfl
@[simp] theorem State.modifyStream_activeBank : (s.modifyStream i f).activeBank = s.activeBank := rfl
@[simp] theorem State.modifyStream_swapPending : (s.modifyStream i f).swapPending = s.swapPending := rfl
@[simp] theorem State.modifyStream_programs : (s.modifyStream i f).programs = s.programs := rfl
@[simp] theorem State.modifyStream_memory : (s.modifyStream i f).memory = s.memory := rfl
@[simp] theorem State.modifyStream_freeList : (s.modifyStream i f).freeList = s.freeList := rfl
@[simp] theorem State.modifyStream_latencies : (s.modifyStream i f).latencies = s.latencies := rfl
@[simp] theorem State.modifyStream_triggers : (s.modifyStream i f).triggers = s.triggers := rfl
@[simp] theorem State.modifyStream_notices : (s.modifyStream i f).notices = s.notices := rfl
@[simp] theorem State.modifyStream_lostCount : (s.modifyStream i f).lostCount = s.lostCount := rfl
@[simp] theorem State.modifyStream_evaluationDue : (s.modifyStream i f).evaluationDue = s.evaluationDue := rfl
@[simp] theorem State.modifyStream_egressTable : (s.modifyStream i f).egressTable = s.egressTable := rfl
@[simp] theorem State.modifyStream_passQueue : (s.modifyStream i f).passQueue = s.passQueue := rfl
@[simp] theorem State.modifyStream_replyQueue : (s.modifyStream i f).replyQueue = s.replyQueue := rfl
@[simp] theorem State.modifyStream_reportQueue : (s.modifyStream i f).reportQueue = s.reportQueue := rfl
@[simp] theorem State.modifyStream_lastProgram : (s.modifyStream i f).lastProgram = s.lastProgram := rfl
@[simp] theorem State.modifyStream_lastClass : (s.modifyStream i f).lastClass = s.lastClass := rfl
@[simp] theorem State.modifyStream_sending : (s.modifyStream i f).sending = s.sending := rfl
@[simp] theorem State.modifyStream_ready : (s.modifyStream i f).ready = s.ready := rfl
@[simp] theorem State.modifyStream_orders : (s.modifyStream i f).orders = s.orders := rfl
@[simp] theorem State.modifyStream_cursor : (s.modifyStream i f).cursor = s.cursor := rfl
@[simp] theorem State.modifyStream_resetPhase : (s.modifyStream i f).resetPhase = s.resetPhase := rfl
@[simp] theorem State.modifyStream_flags : (s.modifyStream i f).flags = s.flags := rfl
@[simp] theorem State.modifyStream_freeCount : (s.modifyStream i f).freeCount = s.freeCount := rfl
@[simp] theorem State.modifyStream_pending : (s.modifyStream i f).pending = s.pending := rfl

end

/-! ### `State.modifyContext` -/

section

variable (s : State) (i : Fin 32) (f : Context → Context)

@[simp] theorem State.modifyContext_settings : (s.modifyContext i f).settings = s.settings := rfl
@[simp] theorem State.modifyContext_straps : (s.modifyContext i f).straps = s.straps := rfl
@[simp] theorem State.modifyContext_house : (s.modifyContext i f).house = s.house := rfl
@[simp] theorem State.modifyContext_slots : (s.modifyContext i f).slots = s.slots := rfl
@[simp] theorem State.modifyContext_bankA : (s.modifyContext i f).bankA = s.bankA := rfl
@[simp] theorem State.modifyContext_bankB : (s.modifyContext i f).bankB = s.bankB := rfl
@[simp] theorem State.modifyContext_activeBank : (s.modifyContext i f).activeBank = s.activeBank := rfl
@[simp] theorem State.modifyContext_swapPending : (s.modifyContext i f).swapPending = s.swapPending := rfl
@[simp] theorem State.modifyContext_programs : (s.modifyContext i f).programs = s.programs := rfl
@[simp] theorem State.modifyContext_memory : (s.modifyContext i f).memory = s.memory := rfl
@[simp] theorem State.modifyContext_freeList : (s.modifyContext i f).freeList = s.freeList := rfl
@[simp] theorem State.modifyContext_latencies : (s.modifyContext i f).latencies = s.latencies := rfl
@[simp] theorem State.modifyContext_triggers : (s.modifyContext i f).triggers = s.triggers := rfl
@[simp] theorem State.modifyContext_notices : (s.modifyContext i f).notices = s.notices := rfl
@[simp] theorem State.modifyContext_lostCount : (s.modifyContext i f).lostCount = s.lostCount := rfl
@[simp] theorem State.modifyContext_evaluationDue : (s.modifyContext i f).evaluationDue = s.evaluationDue := rfl
@[simp] theorem State.modifyContext_egressTable : (s.modifyContext i f).egressTable = s.egressTable := rfl
@[simp] theorem State.modifyContext_passQueue : (s.modifyContext i f).passQueue = s.passQueue := rfl
@[simp] theorem State.modifyContext_replyQueue : (s.modifyContext i f).replyQueue = s.replyQueue := rfl
@[simp] theorem State.modifyContext_reportQueue : (s.modifyContext i f).reportQueue = s.reportQueue := rfl
@[simp] theorem State.modifyContext_lastProgram : (s.modifyContext i f).lastProgram = s.lastProgram := rfl
@[simp] theorem State.modifyContext_lastClass : (s.modifyContext i f).lastClass = s.lastClass := rfl
@[simp] theorem State.modifyContext_sending : (s.modifyContext i f).sending = s.sending := rfl
@[simp] theorem State.modifyContext_ready : (s.modifyContext i f).ready = s.ready := rfl
@[simp] theorem State.modifyContext_orders : (s.modifyContext i f).orders = s.orders := rfl
@[simp] theorem State.modifyContext_cursor : (s.modifyContext i f).cursor = s.cursor := rfl
@[simp] theorem State.modifyContext_resetPhase : (s.modifyContext i f).resetPhase = s.resetPhase := rfl
@[simp] theorem State.modifyContext_flags : (s.modifyContext i f).flags = s.flags := rfl
@[simp] theorem State.modifyContext_freeCount : (s.modifyContext i f).freeCount = s.freeCount := rfl
@[simp] theorem State.modifyContext_pending : (s.modifyContext i f).pending = s.pending := rfl

end

/-! ### `State.modifyProgram` -/

section

variable (s : State) (p : Fin 16) (f : Program → Program)

@[simp] theorem State.modifyProgram_settings : (s.modifyProgram p f).settings = s.settings := rfl
@[simp] theorem State.modifyProgram_straps : (s.modifyProgram p f).straps = s.straps := rfl
@[simp] theorem State.modifyProgram_house : (s.modifyProgram p f).house = s.house := rfl
@[simp] theorem State.modifyProgram_streams : (s.modifyProgram p f).streams = s.streams := rfl
@[simp] theorem State.modifyProgram_slots : (s.modifyProgram p f).slots = s.slots := rfl
@[simp] theorem State.modifyProgram_bankA : (s.modifyProgram p f).bankA = s.bankA := rfl
@[simp] theorem State.modifyProgram_bankB : (s.modifyProgram p f).bankB = s.bankB := rfl
@[simp] theorem State.modifyProgram_activeBank : (s.modifyProgram p f).activeBank = s.activeBank := rfl
@[simp] theorem State.modifyProgram_swapPending : (s.modifyProgram p f).swapPending = s.swapPending := rfl
@[simp] theorem State.modifyProgram_memory : (s.modifyProgram p f).memory = s.memory := rfl
@[simp] theorem State.modifyProgram_freeList : (s.modifyProgram p f).freeList = s.freeList := rfl
@[simp] theorem State.modifyProgram_latencies : (s.modifyProgram p f).latencies = s.latencies := rfl
@[simp] theorem State.modifyProgram_triggers : (s.modifyProgram p f).triggers = s.triggers := rfl
@[simp] theorem State.modifyProgram_notices : (s.modifyProgram p f).notices = s.notices := rfl
@[simp] theorem State.modifyProgram_lostCount : (s.modifyProgram p f).lostCount = s.lostCount := rfl
@[simp] theorem State.modifyProgram_evaluationDue : (s.modifyProgram p f).evaluationDue = s.evaluationDue := rfl
@[simp] theorem State.modifyProgram_egressTable : (s.modifyProgram p f).egressTable = s.egressTable := rfl
@[simp] theorem State.modifyProgram_passQueue : (s.modifyProgram p f).passQueue = s.passQueue := rfl
@[simp] theorem State.modifyProgram_replyQueue : (s.modifyProgram p f).replyQueue = s.replyQueue := rfl
@[simp] theorem State.modifyProgram_reportQueue : (s.modifyProgram p f).reportQueue = s.reportQueue := rfl
@[simp] theorem State.modifyProgram_lastProgram : (s.modifyProgram p f).lastProgram = s.lastProgram := rfl
@[simp] theorem State.modifyProgram_lastClass : (s.modifyProgram p f).lastClass = s.lastClass := rfl
@[simp] theorem State.modifyProgram_sending : (s.modifyProgram p f).sending = s.sending := rfl
@[simp] theorem State.modifyProgram_ready : (s.modifyProgram p f).ready = s.ready := rfl
@[simp] theorem State.modifyProgram_orders : (s.modifyProgram p f).orders = s.orders := rfl
@[simp] theorem State.modifyProgram_cursor : (s.modifyProgram p f).cursor = s.cursor := rfl
@[simp] theorem State.modifyProgram_resetPhase : (s.modifyProgram p f).resetPhase = s.resetPhase := rfl
@[simp] theorem State.modifyProgram_flags : (s.modifyProgram p f).flags = s.flags := rfl
@[simp] theorem State.modifyProgram_freeCount : (s.modifyProgram p f).freeCount = s.freeCount := rfl
@[simp] theorem State.modifyProgram_pending : (s.modifyProgram p f).pending = s.pending := rfl

end

/-! ### `State.modifyLatency` -/

section

variable (s : State) (i : Fin 64) (f : LatencyEntry → LatencyEntry)

@[simp] theorem State.modifyLatency_settings : (s.modifyLatency i f).settings = s.settings := rfl
@[simp] theorem State.modifyLatency_straps : (s.modifyLatency i f).straps = s.straps := rfl
@[simp] theorem State.modifyLatency_house : (s.modifyLatency i f).house = s.house := rfl
@[simp] theorem State.modifyLatency_streams : (s.modifyLatency i f).streams = s.streams := rfl
@[simp] theorem State.modifyLatency_slots : (s.modifyLatency i f).slots = s.slots := rfl
@[simp] theorem State.modifyLatency_bankA : (s.modifyLatency i f).bankA = s.bankA := rfl
@[simp] theorem State.modifyLatency_bankB : (s.modifyLatency i f).bankB = s.bankB := rfl
@[simp] theorem State.modifyLatency_activeBank : (s.modifyLatency i f).activeBank = s.activeBank := rfl
@[simp] theorem State.modifyLatency_swapPending : (s.modifyLatency i f).swapPending = s.swapPending := rfl
@[simp] theorem State.modifyLatency_programs : (s.modifyLatency i f).programs = s.programs := rfl
@[simp] theorem State.modifyLatency_memory : (s.modifyLatency i f).memory = s.memory := rfl
@[simp] theorem State.modifyLatency_freeList : (s.modifyLatency i f).freeList = s.freeList := rfl
@[simp] theorem State.modifyLatency_triggers : (s.modifyLatency i f).triggers = s.triggers := rfl
@[simp] theorem State.modifyLatency_notices : (s.modifyLatency i f).notices = s.notices := rfl
@[simp] theorem State.modifyLatency_lostCount : (s.modifyLatency i f).lostCount = s.lostCount := rfl
@[simp] theorem State.modifyLatency_evaluationDue : (s.modifyLatency i f).evaluationDue = s.evaluationDue := rfl
@[simp] theorem State.modifyLatency_egressTable : (s.modifyLatency i f).egressTable = s.egressTable := rfl
@[simp] theorem State.modifyLatency_passQueue : (s.modifyLatency i f).passQueue = s.passQueue := rfl
@[simp] theorem State.modifyLatency_replyQueue : (s.modifyLatency i f).replyQueue = s.replyQueue := rfl
@[simp] theorem State.modifyLatency_reportQueue : (s.modifyLatency i f).reportQueue = s.reportQueue := rfl
@[simp] theorem State.modifyLatency_lastProgram : (s.modifyLatency i f).lastProgram = s.lastProgram := rfl
@[simp] theorem State.modifyLatency_lastClass : (s.modifyLatency i f).lastClass = s.lastClass := rfl
@[simp] theorem State.modifyLatency_sending : (s.modifyLatency i f).sending = s.sending := rfl
@[simp] theorem State.modifyLatency_ready : (s.modifyLatency i f).ready = s.ready := rfl
@[simp] theorem State.modifyLatency_orders : (s.modifyLatency i f).orders = s.orders := rfl
@[simp] theorem State.modifyLatency_cursor : (s.modifyLatency i f).cursor = s.cursor := rfl
@[simp] theorem State.modifyLatency_resetPhase : (s.modifyLatency i f).resetPhase = s.resetPhase := rfl
@[simp] theorem State.modifyLatency_flags : (s.modifyLatency i f).flags = s.flags := rfl
@[simp] theorem State.modifyLatency_freeCount : (s.modifyLatency i f).freeCount = s.freeCount := rfl
@[simp] theorem State.modifyLatency_pending : (s.modifyLatency i f).pending = s.pending := rfl

end

/-! ### `State.modifyTrigger` -/

section

variable (s : State) (i : Fin 48) (f : Trigger → Trigger)

@[simp] theorem State.modifyTrigger_settings : (s.modifyTrigger i f).settings = s.settings := rfl
@[simp] theorem State.modifyTrigger_straps : (s.modifyTrigger i f).straps = s.straps := rfl
@[simp] theorem State.modifyTrigger_house : (s.modifyTrigger i f).house = s.house := rfl
@[simp] theorem State.modifyTrigger_streams : (s.modifyTrigger i f).streams = s.streams := rfl
@[simp] theorem State.modifyTrigger_slots : (s.modifyTrigger i f).slots = s.slots := rfl
@[simp] theorem State.modifyTrigger_bankA : (s.modifyTrigger i f).bankA = s.bankA := rfl
@[simp] theorem State.modifyTrigger_bankB : (s.modifyTrigger i f).bankB = s.bankB := rfl
@[simp] theorem State.modifyTrigger_activeBank : (s.modifyTrigger i f).activeBank = s.activeBank := rfl
@[simp] theorem State.modifyTrigger_swapPending : (s.modifyTrigger i f).swapPending = s.swapPending := rfl
@[simp] theorem State.modifyTrigger_programs : (s.modifyTrigger i f).programs = s.programs := rfl
@[simp] theorem State.modifyTrigger_memory : (s.modifyTrigger i f).memory = s.memory := rfl
@[simp] theorem State.modifyTrigger_freeList : (s.modifyTrigger i f).freeList = s.freeList := rfl
@[simp] theorem State.modifyTrigger_latencies : (s.modifyTrigger i f).latencies = s.latencies := rfl
@[simp] theorem State.modifyTrigger_notices : (s.modifyTrigger i f).notices = s.notices := rfl
@[simp] theorem State.modifyTrigger_lostCount : (s.modifyTrigger i f).lostCount = s.lostCount := rfl
@[simp] theorem State.modifyTrigger_evaluationDue : (s.modifyTrigger i f).evaluationDue = s.evaluationDue := rfl
@[simp] theorem State.modifyTrigger_egressTable : (s.modifyTrigger i f).egressTable = s.egressTable := rfl
@[simp] theorem State.modifyTrigger_passQueue : (s.modifyTrigger i f).passQueue = s.passQueue := rfl
@[simp] theorem State.modifyTrigger_replyQueue : (s.modifyTrigger i f).replyQueue = s.replyQueue := rfl
@[simp] theorem State.modifyTrigger_reportQueue : (s.modifyTrigger i f).reportQueue = s.reportQueue := rfl
@[simp] theorem State.modifyTrigger_lastProgram : (s.modifyTrigger i f).lastProgram = s.lastProgram := rfl
@[simp] theorem State.modifyTrigger_lastClass : (s.modifyTrigger i f).lastClass = s.lastClass := rfl
@[simp] theorem State.modifyTrigger_sending : (s.modifyTrigger i f).sending = s.sending := rfl
@[simp] theorem State.modifyTrigger_ready : (s.modifyTrigger i f).ready = s.ready := rfl
@[simp] theorem State.modifyTrigger_orders : (s.modifyTrigger i f).orders = s.orders := rfl
@[simp] theorem State.modifyTrigger_cursor : (s.modifyTrigger i f).cursor = s.cursor := rfl
@[simp] theorem State.modifyTrigger_resetPhase : (s.modifyTrigger i f).resetPhase = s.resetPhase := rfl
@[simp] theorem State.modifyTrigger_flags : (s.modifyTrigger i f).flags = s.flags := rfl
@[simp] theorem State.modifyTrigger_freeCount : (s.modifyTrigger i f).freeCount = s.freeCount := rfl
@[simp] theorem State.modifyTrigger_pending : (s.modifyTrigger i f).pending = s.pending := rfl

end

/-! ### `State.releaseBlocks` -/

section

variable (s : State) (p : Fin 16)

@[simp] theorem State.releaseBlocks_settings : (s.releaseBlocks p).settings = s.settings := rfl
@[simp] theorem State.releaseBlocks_straps : (s.releaseBlocks p).straps = s.straps := rfl
@[simp] theorem State.releaseBlocks_house : (s.releaseBlocks p).house = s.house := rfl
@[simp] theorem State.releaseBlocks_streams : (s.releaseBlocks p).streams = s.streams := rfl
@[simp] theorem State.releaseBlocks_slots : (s.releaseBlocks p).slots = s.slots := rfl
@[simp] theorem State.releaseBlocks_bankA : (s.releaseBlocks p).bankA = s.bankA := rfl
@[simp] theorem State.releaseBlocks_bankB : (s.releaseBlocks p).bankB = s.bankB := rfl
@[simp] theorem State.releaseBlocks_activeBank : (s.releaseBlocks p).activeBank = s.activeBank := rfl
@[simp] theorem State.releaseBlocks_swapPending : (s.releaseBlocks p).swapPending = s.swapPending := rfl
@[simp] theorem State.releaseBlocks_memory : (s.releaseBlocks p).memory = s.memory := rfl
@[simp] theorem State.releaseBlocks_latencies : (s.releaseBlocks p).latencies = s.latencies := rfl
@[simp] theorem State.releaseBlocks_triggers : (s.releaseBlocks p).triggers = s.triggers := rfl
@[simp] theorem State.releaseBlocks_notices : (s.releaseBlocks p).notices = s.notices := rfl
@[simp] theorem State.releaseBlocks_lostCount : (s.releaseBlocks p).lostCount = s.lostCount := rfl
@[simp] theorem State.releaseBlocks_evaluationDue : (s.releaseBlocks p).evaluationDue = s.evaluationDue := rfl
@[simp] theorem State.releaseBlocks_egressTable : (s.releaseBlocks p).egressTable = s.egressTable := rfl
@[simp] theorem State.releaseBlocks_passQueue : (s.releaseBlocks p).passQueue = s.passQueue := rfl
@[simp] theorem State.releaseBlocks_replyQueue : (s.releaseBlocks p).replyQueue = s.replyQueue := rfl
@[simp] theorem State.releaseBlocks_reportQueue : (s.releaseBlocks p).reportQueue = s.reportQueue := rfl
@[simp] theorem State.releaseBlocks_lastProgram : (s.releaseBlocks p).lastProgram = s.lastProgram := rfl
@[simp] theorem State.releaseBlocks_lastClass : (s.releaseBlocks p).lastClass = s.lastClass := rfl
@[simp] theorem State.releaseBlocks_sending : (s.releaseBlocks p).sending = s.sending := rfl
@[simp] theorem State.releaseBlocks_ready : (s.releaseBlocks p).ready = s.ready := rfl
@[simp] theorem State.releaseBlocks_orders : (s.releaseBlocks p).orders = s.orders := rfl
@[simp] theorem State.releaseBlocks_cursor : (s.releaseBlocks p).cursor = s.cursor := rfl
@[simp] theorem State.releaseBlocks_resetPhase : (s.releaseBlocks p).resetPhase = s.resetPhase := rfl
@[simp] theorem State.releaseBlocks_flags : (s.releaseBlocks p).flags = s.flags := rfl
@[simp] theorem State.releaseBlocks_freeCount : (s.releaseBlocks p).freeCount = s.freeCount := rfl
@[simp] theorem State.releaseBlocks_pending : (s.releaseBlocks p).pending = s.pending := rfl

end

/-! ### `State.answer` -/

section

variable (s : State) (o : Order) (q : List Order) (x : Byte) (st : Status) (d : List Byte) (r : Bool)

@[simp] theorem State.answer_settings : (s.answer o q x st d r).settings = s.settings := rfl
@[simp] theorem State.answer_straps : (s.answer o q x st d r).straps = s.straps := rfl
@[simp] theorem State.answer_house : (s.answer o q x st d r).house = s.house := rfl
@[simp] theorem State.answer_streams : (s.answer o q x st d r).streams = s.streams := rfl
@[simp] theorem State.answer_slots : (s.answer o q x st d r).slots = s.slots := rfl
@[simp] theorem State.answer_bankA : (s.answer o q x st d r).bankA = s.bankA := rfl
@[simp] theorem State.answer_bankB : (s.answer o q x st d r).bankB = s.bankB := rfl
@[simp] theorem State.answer_activeBank : (s.answer o q x st d r).activeBank = s.activeBank := rfl
@[simp] theorem State.answer_swapPending : (s.answer o q x st d r).swapPending = s.swapPending := rfl
@[simp] theorem State.answer_programs : (s.answer o q x st d r).programs = s.programs := rfl
@[simp] theorem State.answer_memory : (s.answer o q x st d r).memory = s.memory := rfl
@[simp] theorem State.answer_freeList : (s.answer o q x st d r).freeList = s.freeList := rfl
@[simp] theorem State.answer_latencies : (s.answer o q x st d r).latencies = s.latencies := rfl
@[simp] theorem State.answer_triggers : (s.answer o q x st d r).triggers = s.triggers := rfl
@[simp] theorem State.answer_notices : (s.answer o q x st d r).notices = s.notices := rfl
@[simp] theorem State.answer_lostCount : (s.answer o q x st d r).lostCount = s.lostCount := rfl
@[simp] theorem State.answer_evaluationDue : (s.answer o q x st d r).evaluationDue = s.evaluationDue := rfl
@[simp] theorem State.answer_egressTable : (s.answer o q x st d r).egressTable = s.egressTable := rfl
@[simp] theorem State.answer_passQueue : (s.answer o q x st d r).passQueue = s.passQueue := rfl
@[simp] theorem State.answer_reportQueue : (s.answer o q x st d r).reportQueue = s.reportQueue := rfl
@[simp] theorem State.answer_lastProgram : (s.answer o q x st d r).lastProgram = s.lastProgram := rfl
@[simp] theorem State.answer_lastClass : (s.answer o q x st d r).lastClass = s.lastClass := rfl
@[simp] theorem State.answer_sending : (s.answer o q x st d r).sending = s.sending := rfl
@[simp] theorem State.answer_ready : (s.answer o q x st d r).ready = s.ready := rfl
@[simp] theorem State.answer_cursor : (s.answer o q x st d r).cursor = s.cursor := rfl
@[simp] theorem State.answer_resetPhase : (s.answer o q x st d r).resetPhase = s.resetPhase := rfl
@[simp] theorem State.answer_flags : (s.answer o q x st d r).flags = s.flags := rfl
@[simp] theorem State.answer_freeCount : (s.answer o q x st d r).freeCount = s.freeCount := rfl
@[simp] theorem State.answer_pending : (s.answer o q x st d r).pending = s.pending := rfl

end

/-! ### `State.withoutTaken` -/

section

variable (s : State)

@[simp] theorem State.withoutTaken_settings : s.withoutTaken.settings = s.settings := rfl
@[simp] theorem State.withoutTaken_straps : s.withoutTaken.straps = s.straps := rfl
@[simp] theorem State.withoutTaken_house : s.withoutTaken.house = s.house := rfl
@[simp] theorem State.withoutTaken_streams : s.withoutTaken.streams = s.streams := rfl
@[simp] theorem State.withoutTaken_slots : s.withoutTaken.slots = s.slots := rfl
@[simp] theorem State.withoutTaken_bankA : s.withoutTaken.bankA = s.bankA := rfl
@[simp] theorem State.withoutTaken_bankB : s.withoutTaken.bankB = s.bankB := rfl
@[simp] theorem State.withoutTaken_activeBank : s.withoutTaken.activeBank = s.activeBank := rfl
@[simp] theorem State.withoutTaken_swapPending : s.withoutTaken.swapPending = s.swapPending := rfl
@[simp] theorem State.withoutTaken_programs : s.withoutTaken.programs = s.programs := rfl
@[simp] theorem State.withoutTaken_memory : s.withoutTaken.memory = s.memory := rfl
@[simp] theorem State.withoutTaken_freeList : s.withoutTaken.freeList = s.freeList := rfl
@[simp] theorem State.withoutTaken_latencies : s.withoutTaken.latencies = s.latencies := rfl
@[simp] theorem State.withoutTaken_triggers : s.withoutTaken.triggers = s.triggers := rfl
@[simp] theorem State.withoutTaken_notices : s.withoutTaken.notices = s.notices := rfl
@[simp] theorem State.withoutTaken_lostCount : s.withoutTaken.lostCount = s.lostCount := rfl
@[simp] theorem State.withoutTaken_evaluationDue : s.withoutTaken.evaluationDue = s.evaluationDue := rfl
@[simp] theorem State.withoutTaken_egressTable : s.withoutTaken.egressTable = s.egressTable := rfl
@[simp] theorem State.withoutTaken_passQueue : s.withoutTaken.passQueue = s.passQueue := rfl
@[simp] theorem State.withoutTaken_replyQueue : s.withoutTaken.replyQueue = s.replyQueue := rfl
@[simp] theorem State.withoutTaken_reportQueue : s.withoutTaken.reportQueue = s.reportQueue := rfl
@[simp] theorem State.withoutTaken_lastProgram : s.withoutTaken.lastProgram = s.lastProgram := rfl
@[simp] theorem State.withoutTaken_lastClass : s.withoutTaken.lastClass = s.lastClass := rfl
@[simp] theorem State.withoutTaken_sending : s.withoutTaken.sending = s.sending := rfl
@[simp] theorem State.withoutTaken_ready : s.withoutTaken.ready = s.ready := rfl
@[simp] theorem State.withoutTaken_cursor : s.withoutTaken.cursor = s.cursor := rfl
@[simp] theorem State.withoutTaken_resetPhase : s.withoutTaken.resetPhase = s.resetPhase := rfl
@[simp] theorem State.withoutTaken_flags : s.withoutTaken.flags = s.flags := rfl
@[simp] theorem State.withoutTaken_freeCount : s.withoutTaken.freeCount = s.freeCount := rfl
@[simp] theorem State.withoutTaken_pending : s.withoutTaken.pending = s.pending := rfl

end

/-! ### `State.deferOrder` -/

section

variable (s : State)

@[simp] theorem State.deferOrder_settings : s.deferOrder.settings = s.settings := rfl
@[simp] theorem State.deferOrder_straps : s.deferOrder.straps = s.straps := rfl
@[simp] theorem State.deferOrder_house : s.deferOrder.house = s.house := rfl
@[simp] theorem State.deferOrder_streams : s.deferOrder.streams = s.streams := rfl
@[simp] theorem State.deferOrder_slots : s.deferOrder.slots = s.slots := rfl
@[simp] theorem State.deferOrder_bankA : s.deferOrder.bankA = s.bankA := rfl
@[simp] theorem State.deferOrder_bankB : s.deferOrder.bankB = s.bankB := rfl
@[simp] theorem State.deferOrder_activeBank : s.deferOrder.activeBank = s.activeBank := rfl
@[simp] theorem State.deferOrder_swapPending : s.deferOrder.swapPending = s.swapPending := rfl
@[simp] theorem State.deferOrder_programs : s.deferOrder.programs = s.programs := rfl
@[simp] theorem State.deferOrder_memory : s.deferOrder.memory = s.memory := rfl
@[simp] theorem State.deferOrder_freeList : s.deferOrder.freeList = s.freeList := rfl
@[simp] theorem State.deferOrder_latencies : s.deferOrder.latencies = s.latencies := rfl
@[simp] theorem State.deferOrder_triggers : s.deferOrder.triggers = s.triggers := rfl
@[simp] theorem State.deferOrder_notices : s.deferOrder.notices = s.notices := rfl
@[simp] theorem State.deferOrder_lostCount : s.deferOrder.lostCount = s.lostCount := rfl
@[simp] theorem State.deferOrder_evaluationDue : s.deferOrder.evaluationDue = s.evaluationDue := rfl
@[simp] theorem State.deferOrder_egressTable : s.deferOrder.egressTable = s.egressTable := rfl
@[simp] theorem State.deferOrder_passQueue : s.deferOrder.passQueue = s.passQueue := rfl
@[simp] theorem State.deferOrder_replyQueue : s.deferOrder.replyQueue = s.replyQueue := rfl
@[simp] theorem State.deferOrder_reportQueue : s.deferOrder.reportQueue = s.reportQueue := rfl
@[simp] theorem State.deferOrder_lastProgram : s.deferOrder.lastProgram = s.lastProgram := rfl
@[simp] theorem State.deferOrder_lastClass : s.deferOrder.lastClass = s.lastClass := rfl
@[simp] theorem State.deferOrder_sending : s.deferOrder.sending = s.sending := rfl
@[simp] theorem State.deferOrder_ready : s.deferOrder.ready = s.ready := rfl
@[simp] theorem State.deferOrder_resetPhase : s.deferOrder.resetPhase = s.resetPhase := rfl
@[simp] theorem State.deferOrder_flags : s.deferOrder.flags = s.flags := rfl
@[simp] theorem State.deferOrder_freeCount : s.deferOrder.freeCount = s.freeCount := rfl
@[simp] theorem State.deferOrder_pending : s.deferOrder.pending = s.pending := rfl

end

/-! ### `State.reply` -/

section

variable (s : State) (o : Order) (x : Byte) (st : Status) (d : List Byte) (c : Option Cursor)

@[simp] theorem State.reply_settings : (s.reply o x st d c).settings = s.settings := rfl
@[simp] theorem State.reply_straps : (s.reply o x st d c).straps = s.straps := rfl
@[simp] theorem State.reply_house : (s.reply o x st d c).house = s.house := rfl
@[simp] theorem State.reply_streams : (s.reply o x st d c).streams = s.streams := rfl
@[simp] theorem State.reply_slots : (s.reply o x st d c).slots = s.slots := rfl
@[simp] theorem State.reply_bankA : (s.reply o x st d c).bankA = s.bankA := rfl
@[simp] theorem State.reply_bankB : (s.reply o x st d c).bankB = s.bankB := rfl
@[simp] theorem State.reply_activeBank : (s.reply o x st d c).activeBank = s.activeBank := rfl
@[simp] theorem State.reply_swapPending : (s.reply o x st d c).swapPending = s.swapPending := rfl
@[simp] theorem State.reply_programs : (s.reply o x st d c).programs = s.programs := rfl
@[simp] theorem State.reply_memory : (s.reply o x st d c).memory = s.memory := rfl
@[simp] theorem State.reply_freeList : (s.reply o x st d c).freeList = s.freeList := rfl
@[simp] theorem State.reply_latencies : (s.reply o x st d c).latencies = s.latencies := rfl
@[simp] theorem State.reply_triggers : (s.reply o x st d c).triggers = s.triggers := rfl
@[simp] theorem State.reply_notices : (s.reply o x st d c).notices = s.notices := rfl
@[simp] theorem State.reply_lostCount : (s.reply o x st d c).lostCount = s.lostCount := rfl
@[simp] theorem State.reply_evaluationDue : (s.reply o x st d c).evaluationDue = s.evaluationDue := rfl
@[simp] theorem State.reply_egressTable : (s.reply o x st d c).egressTable = s.egressTable := rfl
@[simp] theorem State.reply_passQueue : (s.reply o x st d c).passQueue = s.passQueue := rfl
@[simp] theorem State.reply_reportQueue : (s.reply o x st d c).reportQueue = s.reportQueue := rfl
@[simp] theorem State.reply_lastProgram : (s.reply o x st d c).lastProgram = s.lastProgram := rfl
@[simp] theorem State.reply_lastClass : (s.reply o x st d c).lastClass = s.lastClass := rfl
@[simp] theorem State.reply_sending : (s.reply o x st d c).sending = s.sending := rfl
@[simp] theorem State.reply_ready : (s.reply o x st d c).ready = s.ready := rfl
@[simp] theorem State.reply_resetPhase : (s.reply o x st d c).resetPhase = s.resetPhase := rfl
@[simp] theorem State.reply_flags : (s.reply o x st d c).flags = s.flags := rfl
@[simp] theorem State.reply_freeCount : (s.reply o x st d c).freeCount = s.freeCount := rfl
@[simp] theorem State.reply_pending : (s.reply o x st d c).pending = s.pending := rfl

end

/-! ### `State.putProgram` -/

section

variable (s : State) (p : Fin 16) (g : Program)

@[simp] theorem State.putProgram_settings : (s.putProgram p g).settings = s.settings := rfl
@[simp] theorem State.putProgram_straps : (s.putProgram p g).straps = s.straps := rfl
@[simp] theorem State.putProgram_house : (s.putProgram p g).house = s.house := rfl
@[simp] theorem State.putProgram_streams : (s.putProgram p g).streams = s.streams := rfl
@[simp] theorem State.putProgram_slots : (s.putProgram p g).slots = s.slots := rfl
@[simp] theorem State.putProgram_bankA : (s.putProgram p g).bankA = s.bankA := rfl
@[simp] theorem State.putProgram_bankB : (s.putProgram p g).bankB = s.bankB := rfl
@[simp] theorem State.putProgram_activeBank : (s.putProgram p g).activeBank = s.activeBank := rfl
@[simp] theorem State.putProgram_swapPending : (s.putProgram p g).swapPending = s.swapPending := rfl
@[simp] theorem State.putProgram_memory : (s.putProgram p g).memory = s.memory := rfl
@[simp] theorem State.putProgram_freeList : (s.putProgram p g).freeList = s.freeList := rfl
@[simp] theorem State.putProgram_latencies : (s.putProgram p g).latencies = s.latencies := rfl
@[simp] theorem State.putProgram_triggers : (s.putProgram p g).triggers = s.triggers := rfl
@[simp] theorem State.putProgram_notices : (s.putProgram p g).notices = s.notices := rfl
@[simp] theorem State.putProgram_lostCount : (s.putProgram p g).lostCount = s.lostCount := rfl
@[simp] theorem State.putProgram_evaluationDue : (s.putProgram p g).evaluationDue = s.evaluationDue := rfl
@[simp] theorem State.putProgram_egressTable : (s.putProgram p g).egressTable = s.egressTable := rfl
@[simp] theorem State.putProgram_passQueue : (s.putProgram p g).passQueue = s.passQueue := rfl
@[simp] theorem State.putProgram_replyQueue : (s.putProgram p g).replyQueue = s.replyQueue := rfl
@[simp] theorem State.putProgram_reportQueue : (s.putProgram p g).reportQueue = s.reportQueue := rfl
@[simp] theorem State.putProgram_lastProgram : (s.putProgram p g).lastProgram = s.lastProgram := rfl
@[simp] theorem State.putProgram_lastClass : (s.putProgram p g).lastClass = s.lastClass := rfl
@[simp] theorem State.putProgram_sending : (s.putProgram p g).sending = s.sending := rfl
@[simp] theorem State.putProgram_ready : (s.putProgram p g).ready = s.ready := rfl
@[simp] theorem State.putProgram_orders : (s.putProgram p g).orders = s.orders := rfl
@[simp] theorem State.putProgram_cursor : (s.putProgram p g).cursor = s.cursor := rfl
@[simp] theorem State.putProgram_resetPhase : (s.putProgram p g).resetPhase = s.resetPhase := rfl
@[simp] theorem State.putProgram_flags : (s.putProgram p g).flags = s.flags := rfl
@[simp] theorem State.putProgram_freeCount : (s.putProgram p g).freeCount = s.freeCount := rfl
@[simp] theorem State.putProgram_pending : (s.putProgram p g).pending = s.pending := rfl

end

/-! ### `State.putContext` -/

section

variable (s : State) (i : Fin 32) (c : Context)

@[simp] theorem State.putContext_settings : (s.putContext i c).settings = s.settings := rfl
@[simp] theorem State.putContext_straps : (s.putContext i c).straps = s.straps := rfl
@[simp] theorem State.putContext_house : (s.putContext i c).house = s.house := rfl
@[simp] theorem State.putContext_slots : (s.putContext i c).slots = s.slots := rfl
@[simp] theorem State.putContext_bankA : (s.putContext i c).bankA = s.bankA := rfl
@[simp] theorem State.putContext_bankB : (s.putContext i c).bankB = s.bankB := rfl
@[simp] theorem State.putContext_activeBank : (s.putContext i c).activeBank = s.activeBank := rfl
@[simp] theorem State.putContext_swapPending : (s.putContext i c).swapPending = s.swapPending := rfl
@[simp] theorem State.putContext_programs : (s.putContext i c).programs = s.programs := rfl
@[simp] theorem State.putContext_memory : (s.putContext i c).memory = s.memory := rfl
@[simp] theorem State.putContext_freeList : (s.putContext i c).freeList = s.freeList := rfl
@[simp] theorem State.putContext_latencies : (s.putContext i c).latencies = s.latencies := rfl
@[simp] theorem State.putContext_triggers : (s.putContext i c).triggers = s.triggers := rfl
@[simp] theorem State.putContext_notices : (s.putContext i c).notices = s.notices := rfl
@[simp] theorem State.putContext_lostCount : (s.putContext i c).lostCount = s.lostCount := rfl
@[simp] theorem State.putContext_evaluationDue : (s.putContext i c).evaluationDue = s.evaluationDue := rfl
@[simp] theorem State.putContext_egressTable : (s.putContext i c).egressTable = s.egressTable := rfl
@[simp] theorem State.putContext_passQueue : (s.putContext i c).passQueue = s.passQueue := rfl
@[simp] theorem State.putContext_replyQueue : (s.putContext i c).replyQueue = s.replyQueue := rfl
@[simp] theorem State.putContext_reportQueue : (s.putContext i c).reportQueue = s.reportQueue := rfl
@[simp] theorem State.putContext_lastProgram : (s.putContext i c).lastProgram = s.lastProgram := rfl
@[simp] theorem State.putContext_lastClass : (s.putContext i c).lastClass = s.lastClass := rfl
@[simp] theorem State.putContext_sending : (s.putContext i c).sending = s.sending := rfl
@[simp] theorem State.putContext_ready : (s.putContext i c).ready = s.ready := rfl
@[simp] theorem State.putContext_orders : (s.putContext i c).orders = s.orders := rfl
@[simp] theorem State.putContext_cursor : (s.putContext i c).cursor = s.cursor := rfl
@[simp] theorem State.putContext_resetPhase : (s.putContext i c).resetPhase = s.resetPhase := rfl
@[simp] theorem State.putContext_flags : (s.putContext i c).flags = s.flags := rfl
@[simp] theorem State.putContext_freeCount : (s.putContext i c).freeCount = s.freeCount := rfl
@[simp] theorem State.putContext_pending : (s.putContext i c).pending = s.pending := rfl

end

/-! ### `State.answered` -/

section

variable (s : State) (b : List Order) (o : Order) (a : List Order) (x : Byte) (st : Status) (d : List Byte) (c : Option Cursor)

@[simp] theorem State.answered_settings : (s.answered b o a x st d c).settings = s.settings := rfl
@[simp] theorem State.answered_straps : (s.answered b o a x st d c).straps = s.straps := rfl
@[simp] theorem State.answered_house : (s.answered b o a x st d c).house = s.house := rfl
@[simp] theorem State.answered_streams : (s.answered b o a x st d c).streams = s.streams := rfl
@[simp] theorem State.answered_slots : (s.answered b o a x st d c).slots = s.slots := rfl
@[simp] theorem State.answered_bankA : (s.answered b o a x st d c).bankA = s.bankA := rfl
@[simp] theorem State.answered_bankB : (s.answered b o a x st d c).bankB = s.bankB := rfl
@[simp] theorem State.answered_activeBank : (s.answered b o a x st d c).activeBank = s.activeBank := rfl
@[simp] theorem State.answered_swapPending : (s.answered b o a x st d c).swapPending = s.swapPending := rfl
@[simp] theorem State.answered_programs : (s.answered b o a x st d c).programs = s.programs := rfl
@[simp] theorem State.answered_memory : (s.answered b o a x st d c).memory = s.memory := rfl
@[simp] theorem State.answered_freeList : (s.answered b o a x st d c).freeList = s.freeList := rfl
@[simp] theorem State.answered_latencies : (s.answered b o a x st d c).latencies = s.latencies := rfl
@[simp] theorem State.answered_triggers : (s.answered b o a x st d c).triggers = s.triggers := rfl
@[simp] theorem State.answered_notices : (s.answered b o a x st d c).notices = s.notices := rfl
@[simp] theorem State.answered_lostCount : (s.answered b o a x st d c).lostCount = s.lostCount := rfl
@[simp] theorem State.answered_evaluationDue : (s.answered b o a x st d c).evaluationDue = s.evaluationDue := rfl
@[simp] theorem State.answered_egressTable : (s.answered b o a x st d c).egressTable = s.egressTable := rfl
@[simp] theorem State.answered_passQueue : (s.answered b o a x st d c).passQueue = s.passQueue := rfl
@[simp] theorem State.answered_reportQueue : (s.answered b o a x st d c).reportQueue = s.reportQueue := rfl
@[simp] theorem State.answered_lastProgram : (s.answered b o a x st d c).lastProgram = s.lastProgram := rfl
@[simp] theorem State.answered_lastClass : (s.answered b o a x st d c).lastClass = s.lastClass := rfl
@[simp] theorem State.answered_sending : (s.answered b o a x st d c).sending = s.sending := rfl
@[simp] theorem State.answered_ready : (s.answered b o a x st d c).ready = s.ready := rfl
@[simp] theorem State.answered_resetPhase : (s.answered b o a x st d c).resetPhase = s.resetPhase := rfl
@[simp] theorem State.answered_flags : (s.answered b o a x st d c).flags = s.flags := rfl
@[simp] theorem State.answered_freeCount : (s.answered b o a x st d c).freeCount = s.freeCount := rfl
@[simp] theorem State.answered_pending : (s.answered b o a x st d c).pending = s.pending := rfl

end

/-! ### The flags of PART STATUS -/

section

variable (s : State)

@[simp] theorem State.flagOrdersDropped_settings : s.flagOrdersDropped.settings = s.settings := rfl
@[simp] theorem State.flagOrdersDropped_straps : s.flagOrdersDropped.straps = s.straps := rfl
@[simp] theorem State.flagOrdersDropped_house : s.flagOrdersDropped.house = s.house := rfl
@[simp] theorem State.flagOrdersDropped_streams : s.flagOrdersDropped.streams = s.streams := rfl
@[simp] theorem State.flagOrdersDropped_slots : s.flagOrdersDropped.slots = s.slots := rfl
@[simp] theorem State.flagOrdersDropped_bankA : s.flagOrdersDropped.bankA = s.bankA := rfl
@[simp] theorem State.flagOrdersDropped_bankB : s.flagOrdersDropped.bankB = s.bankB := rfl
@[simp] theorem State.flagOrdersDropped_activeBank : s.flagOrdersDropped.activeBank = s.activeBank := rfl
@[simp] theorem State.flagOrdersDropped_swapPending : s.flagOrdersDropped.swapPending = s.swapPending := rfl
@[simp] theorem State.flagOrdersDropped_programs : s.flagOrdersDropped.programs = s.programs := rfl
@[simp] theorem State.flagOrdersDropped_memory : s.flagOrdersDropped.memory = s.memory := rfl
@[simp] theorem State.flagOrdersDropped_freeList : s.flagOrdersDropped.freeList = s.freeList := rfl
@[simp] theorem State.flagOrdersDropped_latencies : s.flagOrdersDropped.latencies = s.latencies := rfl
@[simp] theorem State.flagOrdersDropped_triggers : s.flagOrdersDropped.triggers = s.triggers := rfl
@[simp] theorem State.flagOrdersDropped_notices : s.flagOrdersDropped.notices = s.notices := rfl
@[simp] theorem State.flagOrdersDropped_lostCount : s.flagOrdersDropped.lostCount = s.lostCount := rfl
@[simp] theorem State.flagOrdersDropped_evaluationDue : s.flagOrdersDropped.evaluationDue = s.evaluationDue := rfl
@[simp] theorem State.flagOrdersDropped_egressTable : s.flagOrdersDropped.egressTable = s.egressTable := rfl
@[simp] theorem State.flagOrdersDropped_passQueue : s.flagOrdersDropped.passQueue = s.passQueue := rfl
@[simp] theorem State.flagOrdersDropped_replyQueue : s.flagOrdersDropped.replyQueue = s.replyQueue := rfl
@[simp] theorem State.flagOrdersDropped_reportQueue : s.flagOrdersDropped.reportQueue = s.reportQueue := rfl
@[simp] theorem State.flagOrdersDropped_lastProgram : s.flagOrdersDropped.lastProgram = s.lastProgram := rfl
@[simp] theorem State.flagOrdersDropped_lastClass : s.flagOrdersDropped.lastClass = s.lastClass := rfl
@[simp] theorem State.flagOrdersDropped_sending : s.flagOrdersDropped.sending = s.sending := rfl
@[simp] theorem State.flagOrdersDropped_ready : s.flagOrdersDropped.ready = s.ready := rfl
@[simp] theorem State.flagOrdersDropped_orders : s.flagOrdersDropped.orders = s.orders := rfl
@[simp] theorem State.flagOrdersDropped_cursor : s.flagOrdersDropped.cursor = s.cursor := rfl
@[simp] theorem State.flagOrdersDropped_resetPhase : s.flagOrdersDropped.resetPhase = s.resetPhase := rfl
@[simp] theorem State.flagOrdersDropped_freeCount : s.flagOrdersDropped.freeCount = s.freeCount := rfl
@[simp] theorem State.flagOrdersDropped_pending : s.flagOrdersDropped.pending = s.pending := rfl
@[simp] theorem State.flagPassDropped_settings : s.flagPassDropped.settings = s.settings := rfl
@[simp] theorem State.flagPassDropped_straps : s.flagPassDropped.straps = s.straps := rfl
@[simp] theorem State.flagPassDropped_house : s.flagPassDropped.house = s.house := rfl
@[simp] theorem State.flagPassDropped_streams : s.flagPassDropped.streams = s.streams := rfl
@[simp] theorem State.flagPassDropped_slots : s.flagPassDropped.slots = s.slots := rfl
@[simp] theorem State.flagPassDropped_bankA : s.flagPassDropped.bankA = s.bankA := rfl
@[simp] theorem State.flagPassDropped_bankB : s.flagPassDropped.bankB = s.bankB := rfl
@[simp] theorem State.flagPassDropped_activeBank : s.flagPassDropped.activeBank = s.activeBank := rfl
@[simp] theorem State.flagPassDropped_swapPending : s.flagPassDropped.swapPending = s.swapPending := rfl
@[simp] theorem State.flagPassDropped_programs : s.flagPassDropped.programs = s.programs := rfl
@[simp] theorem State.flagPassDropped_memory : s.flagPassDropped.memory = s.memory := rfl
@[simp] theorem State.flagPassDropped_freeList : s.flagPassDropped.freeList = s.freeList := rfl
@[simp] theorem State.flagPassDropped_latencies : s.flagPassDropped.latencies = s.latencies := rfl
@[simp] theorem State.flagPassDropped_triggers : s.flagPassDropped.triggers = s.triggers := rfl
@[simp] theorem State.flagPassDropped_notices : s.flagPassDropped.notices = s.notices := rfl
@[simp] theorem State.flagPassDropped_lostCount : s.flagPassDropped.lostCount = s.lostCount := rfl
@[simp] theorem State.flagPassDropped_evaluationDue : s.flagPassDropped.evaluationDue = s.evaluationDue := rfl
@[simp] theorem State.flagPassDropped_egressTable : s.flagPassDropped.egressTable = s.egressTable := rfl
@[simp] theorem State.flagPassDropped_passQueue : s.flagPassDropped.passQueue = s.passQueue := rfl
@[simp] theorem State.flagPassDropped_replyQueue : s.flagPassDropped.replyQueue = s.replyQueue := rfl
@[simp] theorem State.flagPassDropped_reportQueue : s.flagPassDropped.reportQueue = s.reportQueue := rfl
@[simp] theorem State.flagPassDropped_lastProgram : s.flagPassDropped.lastProgram = s.lastProgram := rfl
@[simp] theorem State.flagPassDropped_lastClass : s.flagPassDropped.lastClass = s.lastClass := rfl
@[simp] theorem State.flagPassDropped_sending : s.flagPassDropped.sending = s.sending := rfl
@[simp] theorem State.flagPassDropped_ready : s.flagPassDropped.ready = s.ready := rfl
@[simp] theorem State.flagPassDropped_orders : s.flagPassDropped.orders = s.orders := rfl
@[simp] theorem State.flagPassDropped_cursor : s.flagPassDropped.cursor = s.cursor := rfl
@[simp] theorem State.flagPassDropped_resetPhase : s.flagPassDropped.resetPhase = s.resetPhase := rfl
@[simp] theorem State.flagPassDropped_freeCount : s.flagPassDropped.freeCount = s.freeCount := rfl
@[simp] theorem State.flagPassDropped_pending : s.flagPassDropped.pending = s.pending := rfl
@[simp] theorem State.flagUnknownReporter_settings : s.flagUnknownReporter.settings = s.settings := rfl
@[simp] theorem State.flagUnknownReporter_straps : s.flagUnknownReporter.straps = s.straps := rfl
@[simp] theorem State.flagUnknownReporter_house : s.flagUnknownReporter.house = s.house := rfl
@[simp] theorem State.flagUnknownReporter_streams : s.flagUnknownReporter.streams = s.streams := rfl
@[simp] theorem State.flagUnknownReporter_slots : s.flagUnknownReporter.slots = s.slots := rfl
@[simp] theorem State.flagUnknownReporter_bankA : s.flagUnknownReporter.bankA = s.bankA := rfl
@[simp] theorem State.flagUnknownReporter_bankB : s.flagUnknownReporter.bankB = s.bankB := rfl
@[simp] theorem State.flagUnknownReporter_activeBank : s.flagUnknownReporter.activeBank = s.activeBank := rfl
@[simp] theorem State.flagUnknownReporter_swapPending : s.flagUnknownReporter.swapPending = s.swapPending := rfl
@[simp] theorem State.flagUnknownReporter_programs : s.flagUnknownReporter.programs = s.programs := rfl
@[simp] theorem State.flagUnknownReporter_memory : s.flagUnknownReporter.memory = s.memory := rfl
@[simp] theorem State.flagUnknownReporter_freeList : s.flagUnknownReporter.freeList = s.freeList := rfl
@[simp] theorem State.flagUnknownReporter_latencies : s.flagUnknownReporter.latencies = s.latencies := rfl
@[simp] theorem State.flagUnknownReporter_triggers : s.flagUnknownReporter.triggers = s.triggers := rfl
@[simp] theorem State.flagUnknownReporter_notices : s.flagUnknownReporter.notices = s.notices := rfl
@[simp] theorem State.flagUnknownReporter_lostCount : s.flagUnknownReporter.lostCount = s.lostCount := rfl
@[simp] theorem State.flagUnknownReporter_evaluationDue : s.flagUnknownReporter.evaluationDue = s.evaluationDue := rfl
@[simp] theorem State.flagUnknownReporter_egressTable : s.flagUnknownReporter.egressTable = s.egressTable := rfl
@[simp] theorem State.flagUnknownReporter_passQueue : s.flagUnknownReporter.passQueue = s.passQueue := rfl
@[simp] theorem State.flagUnknownReporter_replyQueue : s.flagUnknownReporter.replyQueue = s.replyQueue := rfl
@[simp] theorem State.flagUnknownReporter_reportQueue : s.flagUnknownReporter.reportQueue = s.reportQueue := rfl
@[simp] theorem State.flagUnknownReporter_lastProgram : s.flagUnknownReporter.lastProgram = s.lastProgram := rfl
@[simp] theorem State.flagUnknownReporter_lastClass : s.flagUnknownReporter.lastClass = s.lastClass := rfl
@[simp] theorem State.flagUnknownReporter_sending : s.flagUnknownReporter.sending = s.sending := rfl
@[simp] theorem State.flagUnknownReporter_ready : s.flagUnknownReporter.ready = s.ready := rfl
@[simp] theorem State.flagUnknownReporter_orders : s.flagUnknownReporter.orders = s.orders := rfl
@[simp] theorem State.flagUnknownReporter_cursor : s.flagUnknownReporter.cursor = s.cursor := rfl
@[simp] theorem State.flagUnknownReporter_resetPhase : s.flagUnknownReporter.resetPhase = s.resetPhase := rfl
@[simp] theorem State.flagUnknownReporter_freeCount : s.flagUnknownReporter.freeCount = s.freeCount := rfl
@[simp] theorem State.flagUnknownReporter_pending : s.flagUnknownReporter.pending = s.pending := rfl
@[simp] theorem State.flagNoticesLost_settings : s.flagNoticesLost.settings = s.settings := rfl
@[simp] theorem State.flagNoticesLost_straps : s.flagNoticesLost.straps = s.straps := rfl
@[simp] theorem State.flagNoticesLost_house : s.flagNoticesLost.house = s.house := rfl
@[simp] theorem State.flagNoticesLost_streams : s.flagNoticesLost.streams = s.streams := rfl
@[simp] theorem State.flagNoticesLost_slots : s.flagNoticesLost.slots = s.slots := rfl
@[simp] theorem State.flagNoticesLost_bankA : s.flagNoticesLost.bankA = s.bankA := rfl
@[simp] theorem State.flagNoticesLost_bankB : s.flagNoticesLost.bankB = s.bankB := rfl
@[simp] theorem State.flagNoticesLost_activeBank : s.flagNoticesLost.activeBank = s.activeBank := rfl
@[simp] theorem State.flagNoticesLost_swapPending : s.flagNoticesLost.swapPending = s.swapPending := rfl
@[simp] theorem State.flagNoticesLost_programs : s.flagNoticesLost.programs = s.programs := rfl
@[simp] theorem State.flagNoticesLost_memory : s.flagNoticesLost.memory = s.memory := rfl
@[simp] theorem State.flagNoticesLost_freeList : s.flagNoticesLost.freeList = s.freeList := rfl
@[simp] theorem State.flagNoticesLost_latencies : s.flagNoticesLost.latencies = s.latencies := rfl
@[simp] theorem State.flagNoticesLost_triggers : s.flagNoticesLost.triggers = s.triggers := rfl
@[simp] theorem State.flagNoticesLost_notices : s.flagNoticesLost.notices = s.notices := rfl
@[simp] theorem State.flagNoticesLost_lostCount : s.flagNoticesLost.lostCount = s.lostCount := rfl
@[simp] theorem State.flagNoticesLost_evaluationDue : s.flagNoticesLost.evaluationDue = s.evaluationDue := rfl
@[simp] theorem State.flagNoticesLost_egressTable : s.flagNoticesLost.egressTable = s.egressTable := rfl
@[simp] theorem State.flagNoticesLost_passQueue : s.flagNoticesLost.passQueue = s.passQueue := rfl
@[simp] theorem State.flagNoticesLost_replyQueue : s.flagNoticesLost.replyQueue = s.replyQueue := rfl
@[simp] theorem State.flagNoticesLost_reportQueue : s.flagNoticesLost.reportQueue = s.reportQueue := rfl
@[simp] theorem State.flagNoticesLost_lastProgram : s.flagNoticesLost.lastProgram = s.lastProgram := rfl
@[simp] theorem State.flagNoticesLost_lastClass : s.flagNoticesLost.lastClass = s.lastClass := rfl
@[simp] theorem State.flagNoticesLost_sending : s.flagNoticesLost.sending = s.sending := rfl
@[simp] theorem State.flagNoticesLost_ready : s.flagNoticesLost.ready = s.ready := rfl
@[simp] theorem State.flagNoticesLost_orders : s.flagNoticesLost.orders = s.orders := rfl
@[simp] theorem State.flagNoticesLost_cursor : s.flagNoticesLost.cursor = s.cursor := rfl
@[simp] theorem State.flagNoticesLost_resetPhase : s.flagNoticesLost.resetPhase = s.resetPhase := rfl
@[simp] theorem State.flagNoticesLost_freeCount : s.flagNoticesLost.freeCount = s.freeCount := rfl
@[simp] theorem State.flagNoticesLost_pending : s.flagNoticesLost.pending = s.pending := rfl
@[simp] theorem State.flagReportsDropped_settings : s.flagReportsDropped.settings = s.settings := rfl
@[simp] theorem State.flagReportsDropped_straps : s.flagReportsDropped.straps = s.straps := rfl
@[simp] theorem State.flagReportsDropped_house : s.flagReportsDropped.house = s.house := rfl
@[simp] theorem State.flagReportsDropped_streams : s.flagReportsDropped.streams = s.streams := rfl
@[simp] theorem State.flagReportsDropped_slots : s.flagReportsDropped.slots = s.slots := rfl
@[simp] theorem State.flagReportsDropped_bankA : s.flagReportsDropped.bankA = s.bankA := rfl
@[simp] theorem State.flagReportsDropped_bankB : s.flagReportsDropped.bankB = s.bankB := rfl
@[simp] theorem State.flagReportsDropped_activeBank : s.flagReportsDropped.activeBank = s.activeBank := rfl
@[simp] theorem State.flagReportsDropped_swapPending : s.flagReportsDropped.swapPending = s.swapPending := rfl
@[simp] theorem State.flagReportsDropped_programs : s.flagReportsDropped.programs = s.programs := rfl
@[simp] theorem State.flagReportsDropped_memory : s.flagReportsDropped.memory = s.memory := rfl
@[simp] theorem State.flagReportsDropped_freeList : s.flagReportsDropped.freeList = s.freeList := rfl
@[simp] theorem State.flagReportsDropped_latencies : s.flagReportsDropped.latencies = s.latencies := rfl
@[simp] theorem State.flagReportsDropped_triggers : s.flagReportsDropped.triggers = s.triggers := rfl
@[simp] theorem State.flagReportsDropped_notices : s.flagReportsDropped.notices = s.notices := rfl
@[simp] theorem State.flagReportsDropped_lostCount : s.flagReportsDropped.lostCount = s.lostCount := rfl
@[simp] theorem State.flagReportsDropped_evaluationDue : s.flagReportsDropped.evaluationDue = s.evaluationDue := rfl
@[simp] theorem State.flagReportsDropped_egressTable : s.flagReportsDropped.egressTable = s.egressTable := rfl
@[simp] theorem State.flagReportsDropped_passQueue : s.flagReportsDropped.passQueue = s.passQueue := rfl
@[simp] theorem State.flagReportsDropped_replyQueue : s.flagReportsDropped.replyQueue = s.replyQueue := rfl
@[simp] theorem State.flagReportsDropped_reportQueue : s.flagReportsDropped.reportQueue = s.reportQueue := rfl
@[simp] theorem State.flagReportsDropped_lastProgram : s.flagReportsDropped.lastProgram = s.lastProgram := rfl
@[simp] theorem State.flagReportsDropped_lastClass : s.flagReportsDropped.lastClass = s.lastClass := rfl
@[simp] theorem State.flagReportsDropped_sending : s.flagReportsDropped.sending = s.sending := rfl
@[simp] theorem State.flagReportsDropped_ready : s.flagReportsDropped.ready = s.ready := rfl
@[simp] theorem State.flagReportsDropped_orders : s.flagReportsDropped.orders = s.orders := rfl
@[simp] theorem State.flagReportsDropped_cursor : s.flagReportsDropped.cursor = s.cursor := rfl
@[simp] theorem State.flagReportsDropped_resetPhase : s.flagReportsDropped.resetPhase = s.resetPhase := rfl
@[simp] theorem State.flagReportsDropped_freeCount : s.flagReportsDropped.freeCount = s.freeCount := rfl
@[simp] theorem State.flagReportsDropped_pending : s.flagReportsDropped.pending = s.pending := rfl

end

/-! ### `State.setBankEntry` -/

section

variable (s : State) (which : Bank) (p : Fin 16) (e : ProgramEntry)

@[simp] theorem State.setBankEntry_settings : (s.setBankEntry which p e).settings = s.settings := by cases which <;> rfl
@[simp] theorem State.setBankEntry_straps : (s.setBankEntry which p e).straps = s.straps := by cases which <;> rfl
@[simp] theorem State.setBankEntry_house : (s.setBankEntry which p e).house = s.house := by cases which <;> rfl
@[simp] theorem State.setBankEntry_streams : (s.setBankEntry which p e).streams = s.streams := by cases which <;> rfl
@[simp] theorem State.setBankEntry_slots : (s.setBankEntry which p e).slots = s.slots := by cases which <;> rfl
@[simp] theorem State.setBankEntry_activeBank : (s.setBankEntry which p e).activeBank = s.activeBank := by cases which <;> rfl
@[simp] theorem State.setBankEntry_swapPending : (s.setBankEntry which p e).swapPending = s.swapPending := by cases which <;> rfl
@[simp] theorem State.setBankEntry_programs : (s.setBankEntry which p e).programs = s.programs := by cases which <;> rfl
@[simp] theorem State.setBankEntry_memory : (s.setBankEntry which p e).memory = s.memory := by cases which <;> rfl
@[simp] theorem State.setBankEntry_freeList : (s.setBankEntry which p e).freeList = s.freeList := by cases which <;> rfl
@[simp] theorem State.setBankEntry_latencies : (s.setBankEntry which p e).latencies = s.latencies := by cases which <;> rfl
@[simp] theorem State.setBankEntry_triggers : (s.setBankEntry which p e).triggers = s.triggers := by cases which <;> rfl
@[simp] theorem State.setBankEntry_notices : (s.setBankEntry which p e).notices = s.notices := by cases which <;> rfl
@[simp] theorem State.setBankEntry_lostCount : (s.setBankEntry which p e).lostCount = s.lostCount := by cases which <;> rfl
@[simp] theorem State.setBankEntry_evaluationDue : (s.setBankEntry which p e).evaluationDue = s.evaluationDue := by cases which <;> rfl
@[simp] theorem State.setBankEntry_egressTable : (s.setBankEntry which p e).egressTable = s.egressTable := by cases which <;> rfl
@[simp] theorem State.setBankEntry_passQueue : (s.setBankEntry which p e).passQueue = s.passQueue := by cases which <;> rfl
@[simp] theorem State.setBankEntry_replyQueue : (s.setBankEntry which p e).replyQueue = s.replyQueue := by cases which <;> rfl
@[simp] theorem State.setBankEntry_reportQueue : (s.setBankEntry which p e).reportQueue = s.reportQueue := by cases which <;> rfl
@[simp] theorem State.setBankEntry_lastProgram : (s.setBankEntry which p e).lastProgram = s.lastProgram := by cases which <;> rfl
@[simp] theorem State.setBankEntry_lastClass : (s.setBankEntry which p e).lastClass = s.lastClass := by cases which <;> rfl
@[simp] theorem State.setBankEntry_sending : (s.setBankEntry which p e).sending = s.sending := by cases which <;> rfl
@[simp] theorem State.setBankEntry_ready : (s.setBankEntry which p e).ready = s.ready := by cases which <;> rfl
@[simp] theorem State.setBankEntry_orders : (s.setBankEntry which p e).orders = s.orders := by cases which <;> rfl
@[simp] theorem State.setBankEntry_cursor : (s.setBankEntry which p e).cursor = s.cursor := by cases which <;> rfl
@[simp] theorem State.setBankEntry_resetPhase : (s.setBankEntry which p e).resetPhase = s.resetPhase := by cases which <;> rfl
@[simp] theorem State.setBankEntry_flags : (s.setBankEntry which p e).flags = s.flags := by cases which <;> rfl
@[simp] theorem State.setBankEntry_freeCount : (s.setBankEntry which p e).freeCount = s.freeCount := by cases which <;> rfl
@[simp] theorem State.setBankEntry_pending : (s.setBankEntry which p e).pending = s.pending := by cases which <;> rfl

end

/-! ### Where the updates act -/

section

variable (s : State)

theorem State.modifyProgram_self (p : Fin 16) (f : Program → Program) :
    (s.modifyProgram p f).programs[p] = f s.programs[p] := by simp [State.modifyProgram]

@[simp] theorem State.modifyProgram_self_val (p : Fin 16) (f : Program → Program) :
    (s.modifyProgram p f).programs[p.val] = f s.programs[p.val] := by simp [State.modifyProgram]

theorem State.modifyProgram_other (p q : Fin 16) (f : Program → Program) (h : q ≠ p) :
    (s.modifyProgram p f).programs[q] = s.programs[q] := by
  have : p.val ≠ q.val := fun e => h (Fin.ext e.symm)
  simp [State.modifyProgram, this]

theorem State.modifyProgram_get (p q : Fin 16) (f : Program → Program) :
    (s.modifyProgram p f).programs[q] = if q = p then f s.programs[p] else s.programs[q] := by
  split
  · next h => subst h; exact s.modifyProgram_self _ f
  · next h => exact s.modifyProgram_other p q f h

theorem State.putProgram_self (p : Fin 16) (g : Program) : (s.putProgram p g).programs[p] = g := by
  simp [State.putProgram]

@[simp] theorem State.putProgram_self_val (p : Fin 16) (g : Program) : (s.putProgram p g).programs[p.val] = g := by
  simp [State.putProgram]

theorem State.putProgram_other (p q : Fin 16) (g : Program) (h : q ≠ p) :
    (s.putProgram p g).programs[q] = s.programs[q] := by
  have : p.val ≠ q.val := fun e => h (Fin.ext e.symm)
  simp [State.putProgram, this]

theorem State.putProgram_get (p q : Fin 16) (g : Program) :
    (s.putProgram p g).programs[q] = if q = p then g else s.programs[q] := by
  split
  · next h => subst h; exact s.putProgram_self _ g
  · next h => exact s.putProgram_other p q g h

theorem State.modifyProgram_eq (p : Fin 16) (f : Program → Program) :
    s.modifyProgram p f = s.putProgram p (f s.programs[p]) := rfl

@[simp] theorem State.putProgram_put (p : Fin 16) (g h : Program) :
    (s.putProgram p g).putProgram p h = s.putProgram p h := by
  simp [State.putProgram]

theorem State.putProgram_same (p : Fin 16) : s.putProgram p s.programs[p] = s := by
  simp [State.putProgram]

theorem State.modifyStream_self (i : Fin 32) (f : Stream → Stream) :
    (s.modifyStream i f).streams[i] = f s.streams[i] := by simp [State.modifyStream]

@[simp] theorem State.modifyStream_self_val (i : Fin 32) (f : Stream → Stream) :
    (s.modifyStream i f).streams[i.val] = f s.streams[i.val] := by simp [State.modifyStream]

theorem State.modifyStream_other (i j : Fin 32) (f : Stream → Stream) (h : j ≠ i) :
    (s.modifyStream i f).streams[j] = s.streams[j] := by
  have : i.val ≠ j.val := fun e => h (Fin.ext e.symm)
  simp [State.modifyStream, this]

theorem State.modifyContext_eq (i : Fin 32) (f : Context → Context) :
    s.modifyContext i f = s.putContext i (f s.streams[i].ctx) := rfl

theorem State.putContext_self (i : Fin 32) (c : Context) :
    (s.putContext i c).streams[i] = ⟨s.streams[i].entry, c⟩ := by simp [State.putContext]

@[simp] theorem State.putContext_self_val (i : Fin 32) (c : Context) :
    (s.putContext i c).streams[i.val] = ⟨s.streams[i.val].entry, c⟩ := by simp [State.putContext]

theorem State.putContext_other (i j : Fin 32) (c : Context) (h : j ≠ i) :
    (s.putContext i c).streams[j] = s.streams[j] := by
  have : i.val ≠ j.val := fun e => h (Fin.ext e.symm)
  simp [State.putContext, this]

theorem State.putContext_same (i : Fin 32) : s.putContext i s.streams[i].ctx = s := by
  have : (⟨s.streams[i].entry, s.streams[i].ctx⟩ : Stream) = s.streams[i] := rfl
  simp only [State.putContext, this]
  simp

theorem State.modifyLatency_self (i : Fin 64) (f : LatencyEntry → LatencyEntry) :
    (s.modifyLatency i f).latencies[i] = f s.latencies[i] := by simp [State.modifyLatency]

@[simp] theorem State.modifyLatency_self_val (i : Fin 64) (f : LatencyEntry → LatencyEntry) :
    (s.modifyLatency i f).latencies[i.val] = f s.latencies[i.val] := by simp [State.modifyLatency]

theorem State.modifyLatency_other (i j : Fin 64) (f : LatencyEntry → LatencyEntry) (h : j ≠ i) :
    (s.modifyLatency i f).latencies[j] = s.latencies[j] := by
  have : i.val ≠ j.val := fun e => h (Fin.ext e.symm)
  simp [State.modifyLatency, this]

theorem State.modifyTrigger_self (i : Fin 48) (f : Trigger → Trigger) :
    (s.modifyTrigger i f).triggers[i] = f s.triggers[i] := by simp [State.modifyTrigger]

@[simp] theorem State.modifyTrigger_self_val (i : Fin 48) (f : Trigger → Trigger) :
    (s.modifyTrigger i f).triggers[i.val] = f s.triggers[i.val] := by simp [State.modifyTrigger]

theorem State.modifyTrigger_other (i j : Fin 48) (f : Trigger → Trigger) (h : j ≠ i) :
    (s.modifyTrigger i f).triggers[j] = s.triggers[j] := by
  have : i.val ≠ j.val := fun e => h (Fin.ext e.symm)
  simp [State.modifyTrigger, this]

@[simp] theorem State.setBankEntry_bank_self (which : Bank) (p : Fin 16) (e : ProgramEntry) :
    (s.setBankEntry which p e).bank which = (s.bank which).set p e := by cases which <;> rfl

@[simp] theorem State.setBankEntry_bank_other (which : Bank) (p : Fin 16) (e : ProgramEntry) :
    (s.setBankEntry which p e).bank which.other = s.bank which.other := by cases which <;> rfl

@[simp] theorem State.modifyProgram_activeEntry (p q : Fin 16) (f : Program → Program) :
    (s.modifyProgram p f).activeEntry q = s.activeEntry q := rfl

@[simp] theorem State.putProgram_activeEntry (p q : Fin 16) (g : Program) :
    (s.putProgram p g).activeEntry q = s.activeEntry q := rfl

@[simp] theorem State.releaseBlocks_activeEntry (p q : Fin 16) :
    (s.releaseBlocks p).activeEntry q = s.activeEntry q := rfl

end

/-! ### Parts of a program -/

section

variable (g : Program)

@[simp] theorem Program.withMeter_meter (f : Meter → Meter) : (g.withMeter f).meter = f g.meter := rfl
@[simp] theorem Program.withCorr_corr (f : Correction → Correction) : (g.withCorr f).corr = f g.corr := rfl
@[simp] theorem Program.withLip_lip (f : LipSync → LipSync) : (g.withLip f).lip = f g.lip := rfl
@[simp] theorem Program.withEgress_egress (f : ProgramEgress → ProgramEgress) : (g.withEgress f).egress = f g.egress := rfl
@[simp] theorem Program.enter_state (st : ProgramState) : (g.enter st).state = st := rfl
@[simp] theorem Program.withMeter_state (f : Meter → Meter) : (g.withMeter f).state = g.state := rfl
@[simp] theorem Program.withMeter_content (f : Meter → Meter) : (g.withMeter f).content = g.content := rfl
@[simp] theorem Program.withMeter_readIndex (f : Meter → Meter) : (g.withMeter f).readIndex = g.readIndex := rfl
@[simp] theorem Program.withMeter_fallbackInUse (f : Meter → Meter) : (g.withMeter f).fallbackInUse = g.fallbackInUse := rfl
@[simp] theorem Program.withMeter_changed (f : Meter → Meter) : (g.withMeter f).changed = g.changed := rfl
@[simp] theorem Program.withMeter_corr (f : Meter → Meter) : (g.withMeter f).corr = g.corr := rfl
@[simp] theorem Program.withMeter_delay (f : Meter → Meter) : (g.withMeter f).delay = g.delay := rfl
@[simp] theorem Program.withMeter_lip (f : Meter → Meter) : (g.withMeter f).lip = g.lip := rfl
@[simp] theorem Program.withMeter_votes (f : Meter → Meter) : (g.withMeter f).votes = g.votes := rfl
@[simp] theorem Program.withMeter_egress (f : Meter → Meter) : (g.withMeter f).egress = g.egress := rfl
@[simp] theorem Program.withCorr_state (f : Correction → Correction) : (g.withCorr f).state = g.state := rfl
@[simp] theorem Program.withCorr_content (f : Correction → Correction) : (g.withCorr f).content = g.content := rfl
@[simp] theorem Program.withCorr_readIndex (f : Correction → Correction) : (g.withCorr f).readIndex = g.readIndex := rfl
@[simp] theorem Program.withCorr_fallbackInUse (f : Correction → Correction) : (g.withCorr f).fallbackInUse = g.fallbackInUse := rfl
@[simp] theorem Program.withCorr_changed (f : Correction → Correction) : (g.withCorr f).changed = g.changed := rfl
@[simp] theorem Program.withCorr_meter (f : Correction → Correction) : (g.withCorr f).meter = g.meter := rfl
@[simp] theorem Program.withCorr_delay (f : Correction → Correction) : (g.withCorr f).delay = g.delay := rfl
@[simp] theorem Program.withCorr_lip (f : Correction → Correction) : (g.withCorr f).lip = g.lip := rfl
@[simp] theorem Program.withCorr_votes (f : Correction → Correction) : (g.withCorr f).votes = g.votes := rfl
@[simp] theorem Program.withCorr_egress (f : Correction → Correction) : (g.withCorr f).egress = g.egress := rfl
@[simp] theorem Program.withLip_state (f : LipSync → LipSync) : (g.withLip f).state = g.state := rfl
@[simp] theorem Program.withLip_content (f : LipSync → LipSync) : (g.withLip f).content = g.content := rfl
@[simp] theorem Program.withLip_readIndex (f : LipSync → LipSync) : (g.withLip f).readIndex = g.readIndex := rfl
@[simp] theorem Program.withLip_fallbackInUse (f : LipSync → LipSync) : (g.withLip f).fallbackInUse = g.fallbackInUse := rfl
@[simp] theorem Program.withLip_changed (f : LipSync → LipSync) : (g.withLip f).changed = g.changed := rfl
@[simp] theorem Program.withLip_meter (f : LipSync → LipSync) : (g.withLip f).meter = g.meter := rfl
@[simp] theorem Program.withLip_corr (f : LipSync → LipSync) : (g.withLip f).corr = g.corr := rfl
@[simp] theorem Program.withLip_delay (f : LipSync → LipSync) : (g.withLip f).delay = g.delay := rfl
@[simp] theorem Program.withLip_votes (f : LipSync → LipSync) : (g.withLip f).votes = g.votes := rfl
@[simp] theorem Program.withLip_egress (f : LipSync → LipSync) : (g.withLip f).egress = g.egress := rfl
@[simp] theorem Program.withEgress_state (f : ProgramEgress → ProgramEgress) : (g.withEgress f).state = g.state := rfl
@[simp] theorem Program.withEgress_content (f : ProgramEgress → ProgramEgress) : (g.withEgress f).content = g.content := rfl
@[simp] theorem Program.withEgress_readIndex (f : ProgramEgress → ProgramEgress) : (g.withEgress f).readIndex = g.readIndex := rfl
@[simp] theorem Program.withEgress_fallbackInUse (f : ProgramEgress → ProgramEgress) : (g.withEgress f).fallbackInUse = g.fallbackInUse := rfl
@[simp] theorem Program.withEgress_changed (f : ProgramEgress → ProgramEgress) : (g.withEgress f).changed = g.changed := rfl
@[simp] theorem Program.withEgress_meter (f : ProgramEgress → ProgramEgress) : (g.withEgress f).meter = g.meter := rfl
@[simp] theorem Program.withEgress_corr (f : ProgramEgress → ProgramEgress) : (g.withEgress f).corr = g.corr := rfl
@[simp] theorem Program.withEgress_delay (f : ProgramEgress → ProgramEgress) : (g.withEgress f).delay = g.delay := rfl
@[simp] theorem Program.withEgress_lip (f : ProgramEgress → ProgramEgress) : (g.withEgress f).lip = g.lip := rfl
@[simp] theorem Program.withEgress_votes (f : ProgramEgress → ProgramEgress) : (g.withEgress f).votes = g.votes := rfl
@[simp] theorem Program.enter_content (st : ProgramState) : (g.enter st).content = g.content := rfl
@[simp] theorem Program.enter_readIndex (st : ProgramState) : (g.enter st).readIndex = g.readIndex := rfl
@[simp] theorem Program.enter_fallbackInUse (st : ProgramState) : (g.enter st).fallbackInUse = g.fallbackInUse := rfl
@[simp] theorem Program.enter_meter (st : ProgramState) : (g.enter st).meter = g.meter := rfl
@[simp] theorem Program.enter_corr (st : ProgramState) : (g.enter st).corr = g.corr := rfl
@[simp] theorem Program.enter_delay (st : ProgramState) : (g.enter st).delay = g.delay := rfl
@[simp] theorem Program.enter_lip (st : ProgramState) : (g.enter st).lip = g.lip := rfl
@[simp] theorem Program.enter_votes (st : ProgramState) : (g.enter st).votes = g.votes := rfl
@[simp] theorem Program.enter_egress (st : ProgramState) : (g.enter st).egress = g.egress := rfl

end

end Sys2Proof.Machine
end

