-- ==== Sys2Proof/Laws/Ops.lean ====
section
/-! SUPPORT. What the shared operations can do, once for each: going through indices, the moves of a program, the
recomputation of its target, the fallback switch, the gain schedule, notices, reports and replies. -/

namespace Sys2Proof.Machine

/-! ### Indices -/

/-- What every single act keeps, going through the indices keeps. -/
theorem forEach_induct {P : State → Prop} (n : Nat) (f : Fin n → State → State) (s : State) (h0 : P s)
    (h : ∀ i t, P t → P (f i t)) : P (forEach n f s) := by
  unfold forEach
  generalize List.finRange n = l
  induction l generalizing s with
  | nil => exact h0
  | cons i l ih => exact ih _ (h i s h0)

/-- A part of the state that no single act changes stays as it was. -/
theorem forEach_keeps {α : Type} (part : State → α) (n : Nat) (f : Fin n → State → State) (s : State)
    (h : ∀ i t, part (f i t) = part t) : part (forEach n f s) = part s :=
  forEach_induct (P := fun t => part t = part s) n f s rfl fun i t e => (h i t).trans e

/-- Where no act does anything, nothing happens. -/
theorem forEach_id (n : Nat) (f : Fin n → State → State) (s : State) (h : ∀ i, f i s = s) : forEach n f s = s := by
  unfold forEach
  generalize List.finRange n = l
  induction l with
  | nil => rfl
  | cons i l ih => rw [List.foldl_cons, h i]; exact ih

theorem atIndex_fin {n : Nat} (i : Fin n) (f : Fin n → State → State) (s : State) : atIndex n i.val f s = f i s := by
  simp [atIndex]

theorem atIndex_out {n i : Nat} (f : Fin n → State → State) (s : State) (h : n ≤ i) : atIndex n i f s = s := by
  simp [atIndex, Nat.not_lt.mpr h]

/-- What the act keeps, the act at an index from outside keeps. -/
theorem atIndex_induct {P : State → Prop} (n i : Nat) (f : Fin n → State → State) (s : State) (h0 : P s)
    (h : ∀ k, P (f k s)) : P (atIndex n i f s) := by
  unfold atIndex
  split
  · exact h _
  · exact h0

/-! ### The gain schedule (R89, R90) -/

/-- Taking up changes the schedule, the output gain and the ramp alone. -/
theorem Correction.takeUp_eq (r : Int) (c : Correction) :
    c.takeUp r = { c with
      schedule := (c.takeUp r).schedule, outputGain := (c.takeUp r).outputGain, ramp := (c.takeUp r).ramp } := by
  unfold Correction.takeUp
  split <;> rfl

/-- After a taking up every entry left lies above the read index. -/
theorem Correction.takeUp_above (r : Int) (c : Correction) : ∀ x ∈ (c.takeUp r).schedule, r < x.content := by
  intro x hx
  unfold Correction.takeUp at hx
  split at hx
  · next h =>
    rw [List.getLast?_eq_none_iff, List.filter_eq_nil_iff] at h
    have := h x hx
    simpa using this
  · simpa using (List.mem_filter.mp hx).2

/-- A new decision changes Correction's state alone, and there the schedule, the output gain and the ramp. -/
theorem Program.appendGain_eq (g : Program) :
    g.appendGain = { g with corr := { g.corr with
      schedule := g.appendGain.corr.schedule, outputGain := g.appendGain.corr.outputGain
      ramp := g.appendGain.corr.ramp } } := by
  have h := Correction.takeUp_eq g.readIndex
    { g.corr with schedule := dropNear g.content.toNat g.corr.schedule ++ [⟨g.content.toNat, g.corr.gain⟩] }
  have e : g.appendGain = { g with corr := (Correction.takeUp g.readIndex
    { g.corr with schedule := dropNear g.content.toNat g.corr.schedule ++ [⟨g.content.toNat, g.corr.gain⟩] }) } := rfl
  rw [e]
  exact congrArg (fun c => { g with corr := c }) h

/-! ### Moves (R126 to R132) -/

/-- `g'` is `g` but for what a move of the actual delay may touch: the read index and place, the actual delay and the
move's own fields, and in Correction the schedule, the output gain, the ramp and the dip. -/
def Program.Moved (g g' : Program) : Prop :=
  g' = { g with
    readIndex := g'.readIndex
    delay := { g.delay with readPlace := g'.delay.readPlace }
    lip := { g.lip with
      actual := g'.lip.actual, move := g'.lip.move, pendingMove := g'.lip.pendingMove
      waitStart := g'.lip.waitStart, waitLength := g'.lip.waitLength }
    corr := { g.corr with
      schedule := g'.corr.schedule, outputGain := g'.corr.outputGain, ramp := g'.corr.ramp
      dip := g'.corr.dip, dipCount := g'.corr.dipCount } }

theorem Program.Moved.refl (g : Program) : g.Moved g := rfl

theorem Program.Moved.trans {a b c : Program} (h : a.Moved b) (k : b.Moved c) : a.Moved c := by
  unfold Program.Moved at *
  rw [h] at k
  rw [k]

/-- What a move leaves as it was. -/
theorem Program.Moved.keeps {g g' : Program} (h : g.Moved g') :
    g'.state = g.state ∧ g'.content = g.content ∧ g'.fallbackInUse = g.fallbackInUse ∧ g'.changed = g.changed ∧
    g'.meter = g.meter ∧ g'.votes = g.votes ∧ g'.egress = g.egress ∧
    g'.delay.blocks = g.delay.blocks ∧ g'.delay.rings = g.delay.rings ∧ g'.delay.writePlace = g.delay.writePlace ∧
    g'.lip.videoMicros = g.lip.videoMicros ∧ g'.lip.video = g.lip.video ∧ g'.lip.audio = g.lip.audio ∧
    g'.lip.unclamped = g.lip.unclamped ∧ g'.lip.target = g.lip.target ∧ g'.lip.audioLate = g.lip.audioLate ∧
    g'.lip.delayClamp = g.lip.delayClamp ∧ g'.lip.sendFlag = g.lip.sendFlag ∧
    g'.lip.lastReported = g.lip.lastReported ∧
    g'.corr.ring = g.corr.ring ∧ g'.corr.window = g.corr.window ∧ g'.corr.windowGate = g.corr.windowGate ∧
    g'.corr.gain = g.corr.gain ∧ g'.corr.mute = g.corr.mute ∧ g'.corr.stop = g.corr.stop ∧
    g'.corr.clips = g.corr.clips := by
  unfold Program.Moved at h
  rw [h]
  simp

theorem Program.takeUpGain_moved (g : Program) : g.Moved g.takeUpGain := by
  unfold Program.Moved Program.takeUpGain Program.withCorr Correction.takeUp
  dsimp only
  split <;> rfl

theorem Program.jumpTo_moved (d : Nat) (g : Program) : g.Moved (g.jumpTo d) := by
  refine .trans ?_ (Program.takeUpGain_moved _)
  rfl

/-- After a jump the actual delay is what was asked, and the read index and the read place follow it. -/
theorem Program.jumpTo_places (d : Nat) (g : Program) :
    (g.jumpTo d).lip.actual = d ∧ (g.jumpTo d).readIndex = (g.content.toNat : Int) - d ∧
    (g.jumpTo d).delay = { g.delay with readPlace := g.delay.placeBehind d } ∧
    (g.jumpTo d).corr = g.corr.takeUp ((g.content.toNat : Int) - d) := ⟨rfl, rfl, rfl, rfl⟩

theorem Program.requestFadeOut_moved (g : Program) : g.Moved g.requestFadeOut := by
  unfold Program.Moved Program.requestFadeOut
  split <;> rfl

theorem Program.startMove_moved (now : BitVec 48) (e : ProgramEntry) (g : Program) : g.Moved (g.startMove now e) := by
  unfold Program.startMove
  split
  · exact g.requestFadeOut_moved
  · rfl

theorem Program.judge_moved (now : BitVec 48) (e : ProgramEntry) (moved : Bool) (g : Program) :
    g.Moved (g.judge now e moved) := by
  unfold Program.judge
  split
  · split
    · exact g.startMove_moved now e
    · rfl
  · split <;> rfl
  · rfl
  · split
    · split <;> rfl
    · rfl

theorem Program.follow_moved (now : BitVec 48) (e : ProgramEntry) (moved : Bool) (g : Program) :
    g.Moved (g.follow now e moved) := by
  unfold Program.follow
  split
  · rfl
  · rfl
  · split
    · exact g.jumpTo_moved _
    · rfl
  · split
    · exact g.jumpTo_moved _
    · rfl
  · exact g.judge_moved now e moved

theorem Program.fadeOutEnd_moved (g : Program) : g.Moved g.fadeOutEnd := by
  unfold Program.fadeOutEnd
  split
  · refine .trans (b := (g.withCorr fun c => { c with dip := .down }).jumpTo g.lip.target) ?_ rfl
    exact .trans (b := g.withCorr fun c => { c with dip := .down }) rfl (Program.jumpTo_moved _ _)
  · rfl

theorem Program.fadeInEnd_moved (now : BitVec 48) (e : ProgramEntry) (g : Program) : g.Moved (g.fadeInEnd now e) := by
  unfold Program.fadeInEnd
  split
  · have h : g.Moved (g.withCorr fun c => { c with dip := .rest, dipCount := 0 }) := rfl
    dsimp only
    split
    · exact h.trans (Program.startMove_moved now e _)
    · exact h.trans rfl
  · rfl

theorem Program.quietWaitExpiry_moved (now : BitVec 48) (g : Program) : g.Moved (g.quietWaitExpiry now) := by
  unfold Program.quietWaitExpiry
  split
  · exact g.requestFadeOut_moved
  · rfl

theorem Program.quietMove_moved (g : Program) : g.Moved g.quietMove := by
  unfold Program.quietMove
  split
  · exact g.requestFadeOut_moved
  · rfl

theorem Program.endMoveAtStop_moved (g : Program) : g.Moved g.endMoveAtStop := by
  refine .trans (b := g.withLip fun l =>
    { l with move := if l.move = .waiting then .none else l.move, pendingMove := false }) rfl ?_
  exact Program.jumpTo_moved _ _

/-! ### The target delay and fallback (R54, R56, R122 to R125) -/

/-- A recomputation replaces one program: it stores the alignment and then moves. -/
theorem State.recompute_spec (p : Fin 16) (s : State) :
    ∃ (g : Program) (changed : Bool), s.recompute p = s.putProgram p g ∧
      ({ s.programs[p] with
        lip := s.alignment p s.programs[p].lip, changed := s.programs[p].changed || changed } : Program).Moved g := by
  exact ⟨_, (s.alignment p s.programs[p].lip).audioLate != s.programs[p].lip.audioLate ||
    (s.alignment p s.programs[p].lip).delayClamp != s.programs[p].lip.delayClamp, rfl,
    Program.follow_moved _ _ _ _⟩

/-- What a recomputation leaves of its program. -/
theorem State.recompute_keeps (p : Fin 16) (s : State) :
    let g := s.programs[p]
    let g' := (s.recompute p).programs[p]
    g'.state = g.state ∧ g'.content = g.content ∧ g'.fallbackInUse = g.fallbackInUse ∧ g'.meter = g.meter ∧
    g'.votes = g.votes ∧ g'.egress = g.egress ∧ g'.delay.blocks = g.delay.blocks ∧ g'.delay.rings = g.delay.rings ∧
    g'.delay.writePlace = g.delay.writePlace ∧ g'.corr.gain = g.corr.gain ∧ g'.corr.ring = g.corr.ring := by
  obtain ⟨g, c, e, m⟩ := s.recompute_spec p
  have k := m.keeps
  simp only [e, State.putProgram_self]
  exact ⟨k.1, k.2.1, k.2.2.1, k.2.2.2.2.1, k.2.2.2.2.2.1, k.2.2.2.2.2.2.1, k.2.2.2.2.2.2.2.1, k.2.2.2.2.2.2.2.2.1,
    k.2.2.2.2.2.2.2.2.2.1, k.2.2.2.2.2.2.2.2.2.2.2.2.2.2.2.2.2.2.2.2.2.2.1,
    k.2.2.2.2.2.2.2.2.2.2.2.2.2.2.2.2.2.2.2.1⟩

/-- A recomputation changes the programs alone. -/
theorem State.recompute_rest (p : Fin 16) (s : State) : s.recompute p = { s with programs := (s.recompute p).programs } :=
  rfl

theorem State.recomputeAll_rest (s : State) : s.recomputeAll = { s with programs := s.recomputeAll.programs } := by
  refine forEach_induct (P := fun t => t = { s with programs := t.programs }) 16 State.recompute s rfl fun i t h => ?_
  rw [State.recompute_rest, h]

theorem State.recomputeNaming_rest (i : Fin 64) (s : State) :
    s.recomputeNaming i = { s with programs := (s.recomputeNaming i).programs } := by
  refine forEach_induct (P := fun t => t = { s with programs := t.programs }) 16 _ s rfl fun p t h => ?_
  split
  · rw [State.recompute_rest, h]
  · exact h

theorem State.syncFallback_rest (p : Fin 16) (s : State) :
    s.syncFallback p = { s with programs := (s.syncFallback p).programs } := by
  unfold State.syncFallback
  dsimp only
  split <;> rfl

/-- A program whose fallback already follows its condition is left alone. -/
theorem State.syncFallback_same (p : Fin 16) (s : State) (h : s.wantsFallback p = s.programs[p].fallbackInUse) :
    s.syncFallback p = s := by
  unfold State.syncFallback
  dsimp only
  rw [if_pos h]

theorem State.applyVotes_rest (s : State) : s.applyVotes = { s with programs := s.applyVotes.programs } := by
  refine forEach_induct (P := fun t => t = { s with programs := t.programs }) 16 _ s rfl fun p t h => ?_
  rw [State.syncFallback_rest, h]
  rfl

/-! ### Going through the programs -/

/-- Acts that each replace their own program, by a rule that reads the rest of the part and that program alone, do not
disturb one another. -/
theorem forEach_programs (f : Fin 16 → State → State) (F : Fin 16 → State → Program) (s : State)
    (put : ∀ p t, f p t = t.putProgram p (F p t))
    (own : ∀ p t ps, ps[p] = t.programs[p] → F p { t with programs := ps } = F p t) (p : Fin 16) :
    (forEach 16 f s).programs[p] = F p s := by
  have key : ∀ (l : List (Fin 16)) (t : State), l.Nodup → t = { s with programs := t.programs } →
      (∀ q ∈ l, t.programs[q] = s.programs[q]) →
      (l.foldl (fun t i => f i t) t).programs[p] = if p ∈ l then F p s else t.programs[p] := by
    intro l
    induction l with
    | nil => intro t _ _ _; simp
    | cons q l ih =>
      intro t nd e keep
      have nd' := List.nodup_cons.mp nd
      rw [List.foldl_cons, ih (f q t) nd'.2 (by rw [put, e]; rfl)]
      · have hq : F q t = F q s := by
          rw [e]; exact own q s _ (keep q (by simp))
        by_cases hp : p = q
        · subst hp
          simp [nd'.1, put, hq]
        · simp [hp, put]
          split
          · rfl
          · exact State.putProgram_other t q p _ hp
      · intro r hr
        have : r ≠ q := by rintro rfl; exact nd'.1 hr
        rw [put, State.putProgram_other _ _ _ _ this]
        exact keep r (by simp [hr])
  have := key (List.finRange 16) s (List.nodup_finRange 16) rfl (fun _ _ => rfl)
  simpa [forEach] using this

/-- What a recomputation of a program reads: the program, its entries, the entries of the streams and of the Latency
Table, and the count. -/
theorem State.recompute_congr (p : Fin 16) (t u : State)
    (streams : ∀ i : Fin 32, t.streams[i].entry = u.streams[i].entry) (latencies : t.latencies = u.latencies)
    (egress : t.egressTable = u.egressTable) (entry : t.activeEntry p = u.activeEntry p)
    (count : t.house.count = u.house.count) (program : t.programs[p] = u.programs[p]) :
    (t.recompute p).programs[p] = (u.recompute p).programs[p] := by
  have program' : t.programs[p.val] = u.programs[p.val] := program
  have slots : t.slotLatency = u.slotLatency := by
    funext k
    have entries : t.streams.toList.map (·.entry) = u.streams.toList.map (·.entry) := by
      apply List.ext_getElem
      · simp
      · intro n h _
        simpa using streams ⟨n, by simpa using h⟩
    have byEntry : ∀ s : State, (s.streams.toList.map fun t => if t.entry.covers k then t.entry.latency else 0) =
        (s.streams.toList.map (·.entry)).map fun e => if e.covers k then e.latency else 0 := by simp
    unfold State.slotLatency
    rw [byEntry, byEntry, entries]
  have micros : t.videoMicros = u.videoMicros := by
    funext e
    unfold State.videoMicros
    rw [latencies]
  have aligned : ∀ l, t.alignment p l = u.alignment p l := by
    intro l
    unfold State.alignment State.audioLatency
    simp only [entry, slots, micros, program, egress]
  simp only [State.recompute, State.modifyProgram, Fin.getElem_fin, Vector.getElem_set_self, aligned, entry, program', count]

/-- A recomputation of a program reads the rest of the part and that program alone. -/
theorem State.recompute_own (p : Fin 16) (t : State) (ps : Vector Program 16) (h : ps[p] = t.programs[p]) :
    (State.recompute p { t with programs := ps }).programs[p] = (t.recompute p).programs[p] :=
  State.recompute_congr p _ t (fun _ => rfl) rfl rfl rfl rfl h

/-- Computing every program again computes each one as it stands. -/
theorem State.recomputeAll_programs (s : State) (p : Fin 16) :
    s.recomputeAll.programs[p] = (s.recompute p).programs[p] :=
  forEach_programs State.recompute (fun p t => (t.recompute p).programs[p]) s
    (fun p t => by simp [State.recompute, State.modifyProgram, State.putProgram]) State.recompute_own p

/-- The programs whose chain names an entry are computed again, and no other. -/
theorem State.recomputeNaming_programs (i : Fin 64) (s : State) (p : Fin 16) :
    (s.recomputeNaming i).programs[p] =
      if i ∈ (s.activeEntry p).chain then (s.recompute p).programs[p] else s.programs[p] := by
  refine forEach_programs _
    (fun p t => if i ∈ (t.activeEntry p).chain then (t.recompute p).programs[p] else t.programs[p]) s
    (fun p t => ?_) (fun p t ps h => ?_) p
  · split
    · simp [State.recompute, State.modifyProgram, State.putProgram]
    · simp [State.putProgram]
  · have a : ({ t with programs := ps } : State).activeEntry p = t.activeEntry p := rfl
    show (if _ then _ else _) = _
    rw [State.recompute_own p t ps h, a]
    simp only [h]

/-- The fallback test of a program reads the rest of the part and that program alone. -/
theorem State.syncFallback_own (p : Fin 16) (t : State) (ps : Vector Program 16) (h : ps[p] = t.programs[p]) :
    (State.syncFallback p { t with programs := ps }).programs[p] = (t.syncFallback p).programs[p] := by
  have h' : ps[p.val] = t.programs[p.val] := h
  have w : ({ t with programs := ps } : State).wantsFallback p = t.wantsFallback p := by
    simp [State.wantsFallback, State.activeEntry, State.bank, h']
  unfold State.syncFallback
  simp only [w, h]
  split
  · exact h
  · obtain ⟨f, e⟩ : ∃ f : Program → Program, f = fun g =>
        { g with
          fallbackInUse := t.wantsFallback p
          changed := true
          meter := g.meter.zeroChanged (effectiveSlots (t.activeEntry p) g.fallbackInUse)
            (effectiveSlots (t.activeEntry p) (t.wantsFallback p)) } := ⟨_, rfl⟩
    have := State.recompute_own p (t.modifyProgram p f)
      (State.modifyProgram p f { t with programs := ps }).programs (by simp [State.modifyProgram, h'])
    rw [e] at this
    exact this

/-- The fallback test of a program replaces that program alone. -/
theorem State.syncFallback_put (p : Fin 16) (t : State) :
    t.syncFallback p = t.putProgram p (t.syncFallback p).programs[p] := by
  unfold State.syncFallback
  dsimp only
  split
  · simp [State.putProgram]
  · simp [State.recompute, State.modifyProgram, State.putProgram]

/-- What the new vote counts make of a program: its counts, and then its fallback test. -/
theorem State.applyVotes_programs (s : State) (p : Fin 16) :
    s.applyVotes.programs[p] =
      ((s.modifyProgram p fun g => { g with votes := s.votesOf p }).syncFallback p).programs[p] := by
  refine forEach_programs _
    (fun p t => ((t.modifyProgram p fun g => { g with votes := s.votesOf p }).syncFallback p).programs[p]) s
    (fun p t => ?_) (fun p t ps h => ?_) p
  · rw [State.syncFallback_put]
    simp [State.putProgram, State.modifyProgram]
  · have h' : ps[p.val] = t.programs[p.val] := h
    exact State.syncFallback_own p (t.modifyProgram p fun g => { g with votes := s.votesOf p })
      (State.modifyProgram p (fun g => { g with votes := s.votesOf p }) { t with programs := ps }).programs
      (by simp [State.modifyProgram, h'])

/-! ### Queues -/

/-- An offer to the latency report queue changes that queue, or a flag of PART STATUS. -/
theorem State.offerReport_rest (r : LatencyReport) (s : State) :
    s.offerReport r = { s with reportQueue := (s.offerReport r).reportQueue, flags := (s.offerReport r).flags } := by
  unfold State.offerReport
  split
  · rfl
  · split <;> rfl

theorem State.offerReport_length (r : LatencyReport) (s : State) (h : s.reportQueue.length ≤ 16) :
    (s.offerReport r).reportQueue.length ≤ 16 := by
  unfold State.offerReport
  split
  · next k => simpa [Config.reportPlaces] using k
  · split
    · simpa using h
    · exact h

theorem State.offerNotice_rest (n : Notice) (s : State) :
    s.offerNotice n = { s with
      notices := (s.offerNotice n).notices, flags := (s.offerNotice n).flags
      lostCount := (s.offerNotice n).lostCount } := by
  unfold State.offerNotice
  split <;> rfl

theorem State.offerPass_rest (f : List Byte) (s : State) :
    s.offerPass f = { s with passQueue := (s.offerPass f).passQueue, flags := (s.offerPass f).flags } := by
  unfold State.offerPass
  split <;> rfl

theorem State.offerOrder_rest (o : Order) (s : State) :
    s.offerOrder o = { s with orders := (s.offerOrder o).orders, flags := (s.offerOrder o).flags } := by
  unfold State.offerOrder
  split <;> rfl

/-- A meter update changes the programs, the report queue and a flag of PART STATUS. -/
theorem State.meterUpdate_rest (p : Fin 16) (s : State) :
    s.meterUpdate p = { s with
      programs := (s.meterUpdate p).programs, reportQueue := (s.meterUpdate p).reportQueue
      flags := (s.meterUpdate p).flags } := by
  unfold State.meterUpdate
  split
  · rfl
  · split
    · unfold State.reportLatency
      dsimp only
      split
      · rfl
      · rw [State.offerReport_rest]
        rfl
    · rfl

/-- The completion of a deferred order places one reply and takes the order out, or does nothing. -/
theorem State.completeDeferred_spec (mine : Order → Bool) (s : State) :
    s.completeDeferred mine = s ∨
    ∃ o ∈ s.orders, o.inProgress = true ∧ mine o = true ∧ s.resetPhase = .none ∧
      s.completeDeferred mine =
        s.answer o (s.orders.eraseP fun o => o.inProgress && mine o) o.table .done [] false := by
  unfold State.completeDeferred
  split
  · next ph =>
    split
    · next o h =>
      have t := List.find?_some h
      simp only [Bool.and_eq_true] at t
      exact .inr ⟨o, List.mem_of_find?_eq_some h, t.1, t.2, ph, rfl⟩
    · exact .inl rfl
  · exact .inl rfl

theorem State.packetComplete_rest (p : Fin 16) (s : State) :
    s.packetComplete p = { s with
      programs := (s.packetComplete p).programs, orders := (s.packetComplete p).orders
      replyQueue := (s.packetComplete p).replyQueue } := by
  unfold State.packetComplete
  split
  · dsimp only
    split
    · unfold State.completeStop
      rcases State.completeDeferred_spec _ _ with h | ⟨o, _, _, _, _, h⟩ <;> rw [h] <;> rfl
    · rfl
  · rfl

/-- A program's house sample changes the programs and the delay pool's store. -/
theorem State.programSample_rest (p : Fin 16) (s : State) :
    s.programSample p = { s with programs := (s.programSample p).programs, memory := (s.programSample p).memory } := by
  unfold State.programSample
  split <;> rfl

/-- A new entry coming into force changes the programs and the free list. -/
theorem State.bringIn_rest (old : ProgramEntry) (p : Fin 16) (s : State) :
    s.bringIn old p = { s with programs := (s.bringIn old p).programs, freeList := (s.bringIn old p).freeList } := by
  unfold State.bringIn
  dsimp only
  split <;> rfl

/-! ### Taking an order (R168 to R170) -/

section

variable {s : State} {before after : List Order} {o : Order} {kind : Nat}

theorem State.OrderReady.first (h : s.OrderReady before o after kind) : firstWaiting s.orders = some o := by
  unfold firstWaiting
  rw [h.queue]
  have : ∀ l : List Order, (∀ x ∈ l, x.inProgress = true) →
      (l ++ o :: after).find? (fun o => !o.inProgress) = some o := by
    intro l
    induction l with
    | nil => intro _; simp [h.waiting]
    | cons x l ih =>
      intro k
      have hx := k x (by simp)
      simpa [hx] using ih fun y hy => k y (by simp [hy])
  exact this before h.older

theorem State.OrderReady.withoutTaken (h : s.OrderReady before o after kind) :
    s.withoutTaken = { s with orders := before ++ after } := by
  have : ∀ l : List Order, (∀ x ∈ l, x.inProgress = true) → withoutWaiting (l ++ o :: after) = l ++ after := by
    intro l
    induction l with
    | nil => intro _; simp [withoutWaiting, h.waiting]
    | cons x l ih =>
      intro k
      have hx := k x (by simp)
      have := ih fun y hy => k y (by simp [hy])
      unfold withoutWaiting at this ⊢
      simpa [hx] using this
  unfold State.withoutTaken
  rw [h.queue, this before h.older]

theorem State.OrderReady.deferred (h : s.OrderReady before o after kind) :
    s.deferOrder = { s with orders := before ++ { o with inProgress := true } :: after, cursor := none } := by
  have : ∀ l : List Order, (∀ x ∈ l, x.inProgress = true) →
      startWaiting (l ++ o :: after) = l ++ { o with inProgress := true } :: after := by
    intro l
    induction l with
    | nil => intro _; simp [startWaiting, h.waiting]
    | cons x l ih =>
      intro k
      have hx := k x (by simp)
      have := ih fun y hy => k y (by simp [hy])
      simpa [startWaiting, hx] using this
  unfold State.deferOrder
  rw [h.queue, this before h.older]

theorem State.OrderReady.takeable (h : s.OrderReady before o after kind) : s.takeable = some o := by
  have free : s.replyPlaceFree = true := by
    unfold State.replyPlaceFree
    exact decide_eq_true h.place
  unfold State.takeable
  rw [if_pos ⟨h.phase, free⟩]
  exact h.first

/-- No order is refused for its kind where the oldest waiting one has a kind of the table. -/
theorem State.OrderReady.takeUnknown (h : s.OrderReady before o after kind) (k : kind < 16) (n : Nat) :
    s.takeUnknown n = s := by
  cases n with
  | zero => rfl
  | succ n =>
    unfold State.takeUnknown
    have : ¬ 16 ≤ o.kind.toNat := by rw [h.ofKind]; omega
    simp only [h.takeable, this, if_false]

/-- The command of the order's own kind hands the order over. -/
theorem State.OrderReady.take (h : s.OrderReady before o after kind) (k : kind < 16)
    (handle : Order → State → State) : s.take kind handle = handle o s := by
  unfold State.take
  dsimp only
  rw [h.takeUnknown k, h.takeable]
  simp [h.ofKind]

/-- The reply to the order that has been taken out. -/
theorem State.OrderReady.reply (h : s.OrderReady before o after kind) (table : Byte) (status : Status)
    (data : List Byte) (cursor : Option Cursor) :
    s.withoutTaken.reply o table status data cursor = s.answered before o after table status data cursor := by
  rw [h.withoutTaken]
  simp [State.reply, State.answer, State.answered]

end

/-- Where every reply place is filled no order is taken. -/
theorem State.takeable_none (s : State) (h : 8 ≤ s.replyQueue.length) : s.takeable = none := by
  unfold State.takeable
  rw [if_neg]
  rintro ⟨_, free⟩
  have room : s.replyQueue.length + s.inProgress < 8 := of_decide_eq_true free
  omega

/-- Each refusal of an unknown kind fills a reply place, so eight turns suffice. -/
theorem State.takeUnknown_succ (n : Nat) (s : State) (h : 8 ≤ s.replyQueue.length + n) :
    s.takeUnknown (n + 1) = s.takeUnknown n := by
  induction n generalizing s with
  | zero =>
    show (match s.takeable with | some _ => _ | none => s) = s
    rw [s.takeable_none (by simpa using h)]
  | succ n ih =>
    conv_lhs => unfold State.takeUnknown
    conv_rhs => unfold State.takeUnknown
    split
    · split
      · exact ih _ (by simp [State.reply, State.answer, State.withoutTaken]; omega)
      · rfl
    · rfl

/-- An order of unknown kind is refused, and the orders behind it are looked at as they then stand (log 16). -/
theorem State.OrderReady.takeUnknown_unknown {s : State} {before after : List Order} {o : Order} {kind : Nat}
    (h : s.OrderReady before o after kind) (k : 16 ≤ kind) :
    s.takeUnknown Config.orderPlaces =
      (s.answered before o after o.table .illegal [] none).takeUnknown Config.orderPlaces := by
  conv_lhs => unfold State.takeUnknown
  show (match s.takeable with | some _ => _ | none => s) = _
  rw [h.takeable]
  dsimp only
  rw [if_pos (by rw [h.ofKind]; exact k), h.reply]
  exact (State.takeUnknown_succ 7 _ (by simp [State.answered])).symm

/-- While a RESET PART is under way no order is taken. -/
theorem State.take_none (s : State) (h : s.resetPhase ≠ .none) (kind : Nat) (handle : Order → State → State) :
    s.take kind handle = s := by
  have t : s.takeable = none := by
    unfold State.takeable
    rw [if_neg fun k => h k.1]
  have u : s.takeUnknown Config.orderPlaces = s := by
    show s.takeUnknown 8 = s
    unfold State.takeUnknown
    simp only [t]
  unfold State.take
  simp only [u, t]

end Sys2Proof.Machine
end

