-- ==== Sys2Proof/Laws/Writes.lean ====
section
/-! SUPPORT. What a write of a table entry by an order can do: the block that judges it reads no order queue, and the three
writing orders answer with that block's status (R172, R173, R175). -/

namespace Sys2Proof.Machine

/-! ### The order queue and the blocks -/

/-- `s` with another order queue. -/
def State.withOrders (orders : List Order) (s : State) : State := { s with orders := orders }

section

variable (l : List Order) (p : Fin 16) (s : State)

@[simp] theorem State.withOrders_programs : (s.withOrders l).programs = s.programs := rfl
@[simp] theorem State.withOrders_activeBank : (s.withOrders l).activeBank = s.activeBank := rfl
@[simp] theorem State.withOrders_activeEntry : (s.withOrders l).activeEntry p = s.activeEntry p := rfl
@[simp] theorem State.withOrders_wantsFallback : (s.withOrders l).wantsFallback p = s.wantsFallback p := rfl
@[simp] theorem State.withOrders_votesOf : (s.withOrders l).votesOf p = s.votesOf p := rfl

theorem State.withOrders_streamRefused (i : Fin 32) (e : StreamEntry) :
    (s.withOrders l).streamRefused i e = s.streamRefused i e := rfl

theorem State.withOrders_triggerRefused (i : Fin 48) (e : TriggerEntry) :
    (s.withOrders l).triggerRefused i e = s.triggerRefused i e := rfl

theorem State.withOrders_modifyProgram (f : Program → Program) :
    (s.withOrders l).modifyProgram p f = (s.modifyProgram p f).withOrders l := rfl

theorem State.withOrders_recompute : (s.withOrders l).recompute p = (s.recompute p).withOrders l := rfl

theorem State.withOrders_releaseBlocks : (s.withOrders l).releaseBlocks p = (s.releaseBlocks p).withOrders l := rfl

theorem State.withOrders_setBankEntry (which : Bank) (e : ProgramEntry) :
    (s.withOrders l).setBankEntry which p e = (s.setBankEntry which p e).withOrders l := by cases which <;> rfl

/-- What goes through the indices without reading the queue leaves it to be set before or after. -/
theorem State.withOrders_forEach (n : Nat) (f : Fin n → State → State)
    (h : ∀ i t, f i (t.withOrders l) = (f i t).withOrders l) : forEach n f (s.withOrders l) = (forEach n f s).withOrders l := by
  unfold forEach
  generalize List.finRange n = q
  induction q generalizing s with
  | nil => rfl
  | cons i q ih => simp only [List.foldl_cons, h]; exact ih _

theorem State.withOrders_storeStream (i : Fin 32) (e : StreamEntry) :
    (s.withOrders l).storeStream i e = (s.storeStream i e).withOrders l :=
  State.withOrders_forEach l (s.modifyStream i fun t => ⟨e, t.ctx.restart e.valid⟩) 16 State.recompute
    fun p t => State.withOrders_recompute l p t

theorem State.withOrders_syncFallback : (s.withOrders l).syncFallback p = (s.syncFallback p).withOrders l := by
  unfold State.syncFallback
  dsimp only
  by_cases h : s.wantsFallback p = s.programs[p].fallbackInUse
  · rw [if_pos h, if_pos (show (s.withOrders l).wantsFallback p = (s.withOrders l).programs[p].fallbackInUse from h)]
  · rw [if_neg h, if_neg (show ¬ (s.withOrders l).wantsFallback p = (s.withOrders l).programs[p].fallbackInUse from h)]
    simp only [State.withOrders_wantsFallback, State.withOrders_activeEntry, State.withOrders_modifyProgram,
      State.withOrders_recompute]

theorem State.withOrders_applyVotes : (s.withOrders l).applyVotes = s.applyVotes.withOrders l := by
  refine State.withOrders_forEach l s 16 _ fun p t => ?_
  rw [State.withOrders_votesOf, State.withOrders_modifyProgram, State.withOrders_syncFallback]

theorem State.withOrders_bringIn (old : ProgramEntry) :
    (s.withOrders l).bringIn old p = (s.bringIn old p).withOrders l := by
  unfold State.bringIn
  dsimp only
  by_cases h : ringsReleased (s.activeEntry p) (s.modifyProgram p (·.outcome old (s.activeEntry p))).programs[p] = true
  · simp only [if_pos h]
    rw [if_pos (show ringsReleased ((s.withOrders l).activeEntry p) (State.modifyProgram p
      (fun x => x.outcome old ((s.withOrders l).activeEntry p)) (s.withOrders l)).programs[p] = true from h)]
    simp only [State.withOrders_wantsFallback, State.withOrders_programs, State.withOrders_activeEntry,
      State.withOrders_modifyProgram, State.withOrders_releaseBlocks, State.withOrders_recompute]
    rfl
  · simp only [if_neg h]
    rw [if_neg (show ¬ ringsReleased ((s.withOrders l).activeEntry p) (State.modifyProgram p
      (fun x => x.outcome old ((s.withOrders l).activeEntry p)) (s.withOrders l)).programs[p] = true from h)]
    simp only [State.withOrders_wantsFallback, State.withOrders_programs, State.withOrders_activeEntry,
      State.withOrders_modifyProgram, State.withOrders_recompute]
    rfl

theorem State.withOrders_writeLatency (i : Fin 64) (w : LatencyWrite) :
    (s.withOrders l).writeLatency i w = (s.writeLatency i w).withOrders l := by
  unfold State.writeLatency
  dsimp only
  by_cases h : (s.modifyLatency i (·.written w)).latencies[i].contribution = s.latencies[i].contribution
  · rw [if_pos h]; exact if_pos h
  · rw [if_neg h]
    refine (if_neg h).trans ?_
    unfold State.recomputeNaming
    refine State.withOrders_forEach l (s.modifyLatency i (·.written w)) 16 _ fun p t => ?_
    rw [State.withOrders_activeEntry, State.withOrders_recompute]
    split <;> rfl

theorem State.withOrders_offerNotice (n : Notice) : (s.withOrders l).offerNotice n = (s.offerNotice n).withOrders l := by
  unfold State.offerNotice
  by_cases h : s.notices.length < Config.noticePlaces
  · rw [if_pos h]; exact if_pos h
  · rw [if_neg h]; exact if_neg h

theorem State.withOrders_writeTrigger (i : Fin 48) (e : TriggerEntry) :
    (s.withOrders l).writeTrigger i e = (s.writeTrigger i e).withOrders l := by
  unfold State.writeTrigger
  dsimp only
  rw [← State.withOrders_applyVotes]
  refine congrArg State.applyVotes ?_
  by_cases h : (s.triggers[i].status.state.holds && s.triggers[i].entry.responses.notice) = true
  · rw [if_pos h, if_pos (show ((s.withOrders l).triggers[i].status.state.holds &&
      (s.withOrders l).triggers[i].entry.responses.notice) = true from h), State.withOrders_offerNotice]
    rfl
  · rw [if_neg h, if_neg (show ¬ ((s.withOrders l).triggers[i].status.state.holds &&
      (s.withOrders l).triggers[i].entry.responses.notice) = true from h)]
    rfl

/-- The block that judges a write reads no order queue and leaves it. -/
theorem State.withOrders_writeEntry (which : Bank) (i : Nat) (n : NewEntry) :
    (s.withOrders l).writeEntry which i n =
      ((s.writeEntry which i n).1, (s.writeEntry which i n).2.withOrders l) := by
  cases n with
  | settings c => rfl
  | stream e =>
    simp only [State.writeEntry, State.writeStream, State.withOrders_streamRefused, State.withOrders_storeStream]
    split <;> rfl
  | program e =>
    simp only [State.writeEntry, State.writeProgram, State.withOrders_programs, State.withOrders_activeEntry,
      State.withOrders_activeBank, State.withOrders_setBankEntry, State.withOrders_bringIn]
    split
    · split <;> rfl
    · rfl
  | egress e =>
    simp only [State.writeEntry, State.writeEgress]
    by_cases h : s.programs[Fin.ofNat 16 i].state.processing = true
    · rw [if_pos h]; exact if_pos h
    · rw [if_neg h]; exact if_neg h
  | latency w =>
    simp only [State.writeEntry, State.tryLatency, State.withOrders_writeLatency]
    show (if s.latencyConflict _ w = true then _ else _) = _
    split <;> rfl
  | trigger e =>
    simp only [State.writeEntry, State.tryTrigger, State.withOrders_writeTrigger, State.withOrders_triggerRefused]
    split <;> simp only

end

/-! ### The three writing orders -/

/-- The table id of an order that names a table. -/
theorem tableCode_of {b : Byte} {table : Table} (h : tableCodes[b.toNat]? = some table) :
    BitVec.ofNat 8 (tableCodes.idxOf table) = b := by
  have nd : tableCodes.Nodup := by decide
  obtain ⟨lt, e⟩ := List.getElem?_eq_some_iff.mp h
  rw [← e, nd.idxOf_getElem _ lt]
  simp

/-- An order that names an entry of a written table passes steps 1 and 2 of R172. -/
theorem Order.Names.place {o : Order} {table : Table} {which : Bank} {i : Nat} (h : o.Names table which i)
    (w : table.writable = true) : o.place true = .ok (table, which, i) := by
  obtain ⟨named, index, lt, program, other⟩ := h
  have t : o.tableOf true = some table := by unfold Order.tableOf; rw [named]; simp [w]
  have b : o.bankOf table = some which := by
    unfold Order.bankOf
    by_cases q : table = .program
    · rw [if_pos q]; exact program q
    · rw [if_neg q, other q]
  unfold Order.place
  rw [t]; dsimp only; rw [b]; dsimp only; rw [if_pos (by omega), index]

theorem readEntry_writable {table : Table} {bs : List Byte} {n : NewEntry} (h : readEntry table bs = some n) :
    table.writable = true := by
  cases table <;> first | rfl | cases h

theorem State.clearedEntry_writable {s : State} {table : Table} {i : Nat} {n : NewEntry}
    (h : s.clearedEntry table i = some n) : table.writable = true := by
  cases table <;> first | rfl | cases h

section

variable {s : State} {before after : List Order} {o : Order} {table : Table} {which : Bank} {i : Nat} {n : NewEntry}

theorem State.withOrders_reply (t : State) (id : Byte) (status : Status) (data : List Byte) (cursor : Option Cursor) :
    (t.withOrders (before ++ after)).reply o id status data cursor = t.answered before o after id status data cursor := by
  simp [State.withOrders, State.reply, State.answer, State.answered]

/-- Step 3 of R172 passes, and the block judges the write. -/
theorem State.tryWrite_read (l : List Order) (len : table.writeLength ≤ o.contents.length)
    (read : Machine.readEntry table o.contents = some n) :
    (s.withOrders l).tryWrite table which i o.contents =
      ((s.writeEntry which i n).1, (s.writeEntry which i n).2.withOrders l) := by
  unfold State.tryWrite
  rw [if_neg (by omega), read]
  exact State.withOrders_writeEntry l s which i n

/-- A write by any of the three orders: the block's status and effect, and the cursor the order leaves. -/
theorem State.Writes.exec_eq {c : Instr} {cursor : Option Cursor}
    (h : s.Writes before o after table which i n c cursor) :
    exec c s = .next ((s.writeEntry which i n).2.answered before o after (BitVec.ofNat 8 (tableCodes.idxOf table))
      (s.writeEntry which i n).1 [] cursor) := by
  cases h with
  | entry ready names len read =>
    show Host.Outcome.next (State.take 3 _ s) = _
    rw [ready.take (by omega)]
    unfold State.writeEntryOrder
    dsimp only
    rw [names.place (readEntry_writable read), ready.withoutTaken, tableCode_of names.1]
    dsimp only
    have := State.tryWrite_read (s := s) (which := which) (i := i) (before ++ after) len read
    unfold State.withOrders at this
    rw [this]
    exact congrArg _ (State.withOrders_reply _ _ _ _ _)
  | next ready cur lt len read =>
    show Host.Outcome.next (State.take 4 _ s) = _
    rw [ready.take (by omega)]
    unfold State.writeNext
    dsimp only
    rw [cur]
    dsimp only
    rw [if_pos lt, ready.withoutTaken]
    have := State.tryWrite_read (s := s) (which := which) (i := i) (before ++ after) len read
    unfold State.withOrders at this
    rw [this]
    exact congrArg _ (State.withOrders_reply _ _ _ _ _)
  | clear ready names cleared =>
    show Host.Outcome.next (State.take 5 _ s) = _
    rw [ready.take (by omega)]
    unfold State.immediate clearAct
    dsimp only
    rw [names.place (State.clearedEntry_writable cleared), ready.withoutTaken, tableCode_of names.1]
    dsimp only
    have c : ({ s with orders := before ++ after } : State).clearedEntry table i = some n := by
      rw [← cleared]; cases table <;> rfl
    rw [c]
    dsimp only
    have := State.withOrders_writeEntry (before ++ after) s which i n
    unfold State.withOrders at this
    rw [this]
    exact congrArg _ (State.withOrders_reply _ _ _ _ _)

end

end Sys2Proof.Machine
end

