-- ==== Sys2Proof/WellFormed.lean ====
section
/-! DEFINITION. Which commands are well formed: each index names something the part has, and a frame holds at least an
Ethernet header. -/

namespace Sys2Proof

/-- A frame holds its two MAC addresses and its EtherType (R1). -/
def Instr.frameOk (frame : List Byte) : Bool := 14 ≤ frame.length

/-- Stream numbers are 0 to 31 (R7), program numbers 0 to 15 (R43), Latency Table indices 0 to 63 (R116). -/
def Instr.wellFormed : Instr → Bool
  | .ingressFrame frame => Instr.frameOk frame
  | .loopUpdate i => i < 32
  | .gapTimeout i => i < 32
  | .holdoverLimit i => i < 32
  | .meterUpdate p => p < 16
  | .quietWaitExpiry p => p < 16
  | .fadeOutEnd p => p < 16
  | .fadeInEnd p => p < 16
  | .packetComplete p => p < 16
  | .entryStale i => i < 64
  | .wordClockEdge => true
  | .bridgedSample => true
  | .referenceAbsent => true
  | .freeRunSampleEnd => true
  | .framePulse => true
  | .pulseAbsent => true
  | .synthesizedBoundary => true
  | .alarmEvaluation => true
  | .egressChoice => true
  | .readyWithdrawn => true
  | .readyReturn => true
  | .egressFrameEnd => true
  | .nop => true
  | .readEntry => true
  | .readNext => true
  | .writeEntry => true
  | .writeNext => true
  | .clearEntry => true
  | .swapProgramBank => true
  | .startProgram => true
  | .stopProgram => true
  | .allocateDelay => true
  | .releaseDelay => true
  | .resetStream => true
  | .resetIntegration => true
  | .acknowledge => true
  | .sendLatency => true
  | .resetPart => true
  | .partResetActs => true
  | .powerOnReset _ => true

end Sys2Proof
end

