-- ==== Sys2Proof/Tests/Slice0.lean ====
section
/-! SUPPORT. Tests on single steps, with values from the spec's examples, and for each statement with hypotheses a state
that meets them. -/

open Sys2Proof Sys2Proof.Machine

namespace Sys2Proof.Tests

set_option Elab.async false

/-! ### Helpers -/

/-- The state a command leaves; every command leaves one. -/
def after (c : Instr) (s : State) : State :=
  match exec c s with
  | .next t => t
  | _ => s

def frameOf (kind key : Nat) (content : List Byte) : List Byte :=
  natToBytes 6 0x112233445566 ++ natToBytes 6 0x0A0B0C0D0E0F ++ natToBytes 2 0x9A30
    ++ [1#8, BitVec.ofNat 8 kind] ++ natToBytes 2 key ++ content

def orderOf (kind table index : Nat) (contents : List Byte) : Order :=
  ⟨⟨.raw, 0x0A0B0C0D0E0F#48, 0, 0, 0⟩, 0x40#8, BitVec.ofNat 8 kind, BitVec.ofNat 8 table, 0, index, contents, false⟩

/-- A SWAP in progress, which holds an order place and a reply place. -/
def swapOrder : Order := { orderOf 6 0 0 [] with inProgress := true }

/-- The order waits behind a SWAP in progress, and one reply place is free. -/
def withOrder (o : Order) (s : State) : State :=
  { s with orders := [swapOrder, o], replyQueue := List.replicate 6 ⟨[], false⟩ }

/-- `withOrder` gives the shape that the statements about orders ask for. -/
theorem withOrder_ready (kind table index : Nat) (contents : List Byte) (s : State) (k : kind < 256)
    (h : s.resetPhase = .none) :
    (withOrder (orderOf kind table index contents) s).OrderReady [swapOrder] (orderOf kind table index contents) [] kind where
  queue := rfl
  older := by simp [swapOrder]
  waiting := rfl
  ofKind := by simp [orderOf, Nat.mod_eq_of_lt k]
  place := by simp [withOrder, State.inProgress, swapOrder, orderOf]
  phase := h

/-- Status, credit, table id and data length of the newest reply, and its data (Table 11-3). -/
def lastReply (s : State) : List Nat := ((s.replyQueue.getLastD ⟨[], false⟩).bytes.drop 21).map (·.toNat)

def lastStatus (s : State) : Nat := (lastReply s).headD 99

/-- A state whose program 15 is `g`. -/
def withG (g : Program) : State := State.reset.putProgram 15 g

/-- Reset with the bank A entry of program 15 in place. -/
def withEntry (e : ProgramEntry) (s : State) : State := s.setBankEntry .a 15 e

def stereo : ProgramEntry :=
  { ProgramEntry.powerOn with valid := true, members := [⟨0, .front⟩, ⟨1, .front⟩] }

def running : Program :=
  { Program.reset with state := .running, delay := ⟨1, [[0], [1]], 0, 0⟩ }

/-- A state whose stream 31 is valid under key 5 with the context `c`. -/
def withStream (e : StreamEntry) (c : Context) : State := State.reset.modifyStream 31 fun _ => ⟨e, c⟩

def mono : StreamEntry := { StreamEntry.powerOn with valid := true, key := 5, format := .s16 }

/-- A media packet of `n` frames for `mono` (Table 11-2). -/
def mediaBytes (sequence n : Nat) : List Byte :=
  natToBytes 2 sequence ++ [1#8, 1#8, 0#8] ++ natToBytes 1 n ++ natToBytes 4 0
    ++ (List.range n).flatMap fun k => natToBytes 2 (k + 1)

/-! ### Well-formedness -/

theorem test_wellFormed_frame : (Instr.ingressFrame (List.replicate 13 0)).wellFormed = false ∧
    (Instr.ingressFrame (List.replicate 14 0)).wellFormed = true := by decide
theorem test_wellFormed_stream : [Instr.loopUpdate 32, .gapTimeout 32, .holdoverLimit 32].all (·.wellFormed == false) ∧
    (Instr.loopUpdate 31).wellFormed = true := by decide
theorem test_wellFormed_program :
    [Instr.meterUpdate 16, .quietWaitExpiry 16, .fadeOutEnd 16, .fadeInEnd 16, .packetComplete 16].all
      (·.wellFormed == false) ∧ (Instr.packetComplete 15).wellFormed = true := by decide
theorem test_wellFormed_entry : (Instr.entryStale 64).wellFormed = false ∧ (Instr.entryStale 63).wellFormed = true := by
  decide

/-! ### Commands -/

/-- 11.4: the order frame of the example, padded, joins the queue with its fields. -/
theorem test_ingress_order :
    let o := (after (.ingressFrame (frameOf 2 0xFF00 [7#8, 0x31#8, 1#8, 3#8, 0#8, 0#8, 3#8]))
      { State.reset with settings := { State.reset.settings with unit := 7 } }).orders
    o.map (fun x => (x.tag, x.kind, x.table, x.index, x.path.sourceMac)) =
      [(0x31#8, 1#8, 3#8, 3, 0x0A0B0C0D0E0F#48)] := by decide +kernel

/-- 11.4: the reply to it. -/
theorem test_readEntry_reply :
    ((after .readEntry { State.reset with
      settings := { State.reset.settings with unit := 7 }
      orders := [{ orderOf 1 3 3 [] with tag := 0x31#8 }] }).replyQueue.map (·.bytes.map (·.toNat))) =
    [[0x0A, 0x0B, 0x0C, 0x0D, 0x0E, 0x0F, 2, 0, 0, 0, 0, 7, 0x9A, 0x30, 1, 3, 0xFF, 0, 7, 0x31, 1, 0, 8, 3, 0, 20,
      0, 255, 255, 255, 255, 255, 255, 0, 0, 0, 0, 0, 0, 0, 0, 48, 0, 0, 0, 3, 0, 0, 0, 0, 0, 0, 0, 0, 0, 0, 0, 0, 0, 0]] := by
  decide +kernel

/-- Table 1-6: packet 1000 in order raises the fill from 256 to 304 and s to 1001. -/
def locked1000 (expected fill : Nat) : State :=
  withStream mono { Context.reset with
    state := .locked, expected := some (BitVec.ofNat 16 expected), last := some ⟨48, [0]⟩
    writeIndex := BitVec.ofNat 32 fill, minFill := 160 }

theorem test_media_inOrder :
    let c := (after (.ingressFrame (frameOf 1 5 (mediaBytes 1000 48))) (locked1000 1000 256)).streams[31].ctx
    c.fill = 304 ∧ c.expected = some 1001 ∧ c.maxFill = 304 ∧ c.buffer.getLast? = some [0x003000#24] ∧
    c.state = .locked := by decide +kernel

/-- Table 1-6: packet 9000 after s = 1005 resynchronizes. -/
theorem test_media_resync :
    let c := (after (.ingressFrame (frameOf 1 5 (mediaBytes 9000 48))) (locked1000 1005 352)).streams[31].ctx
    c.fill = 48 ∧ c.expected = some 9001 ∧ c.minFill = 0 ∧ c.flags = ⟨false, false, true, false, false, false⟩ ∧
    c.state = .acquire := by decide +kernel

/-- Table 1-6: packet 1002 after s = 1004 is late. -/
theorem test_media_late :
    let c := (after (.ingressFrame (frameOf 1 5 (mediaBytes 1002 48))) (locked1000 1004 352)).streams[31].ctx
    c.fill = 352 ∧ c.expected = some 1004 ∧ c.flags = ⟨true, false, false, false, false, false⟩ := by decide +kernel

/-- R14: two missing packets of 48 frames are concealed by 96 frames. -/
theorem test_media_gap :
    let c := (after (.ingressFrame (frameOf 1 5 (mediaBytes 1003 48))) (locked1000 1001 160)).streams[31].ctx
    c.fill = 304 ∧ c.expected = some 1004 ∧ c.flags = ⟨false, true, false, false, false, false⟩ := by decide +kernel

/-- R182: two lanes of 24-bit samples, interleaved by lane within each frame. -/
theorem test_mediaSamples :
    let e := { mono with lanes := 2, format := .s24 }
    let m : MediaPacket := ⟨1, 1, 2, 1, 2, [1#8, 2#8, 3#8, 0xFF#8, 0xFF#8, 0xFE#8, 0#8, 0#8, 5#8, 0x80#8, 0#8, 0#8]⟩
    m.formatOk e = true ∧ m.decoded e = [[0x010203#24, 0xFFFFFE#24], [0x000005#24, 0x800000#24]] := by decide +kernel

theorem test_wordClockEdge :
    let t := after .wordClockEdge State.reset
    t.house.count = 1 ∧ t.house.reference = .present := by decide +kernel

theorem test_bridgedSample : (after .bridgedSample State.reset).house.count = 0 ∧
    (after .bridgedSample { State.reset with house := { House.reset with reference := .present } }).house.count = 1 := by
  decide +kernel

/-- R22: the count wraps. -/
theorem test_freeRunSampleEnd_wraps :
    (after .freeRunSampleEnd { State.reset with
      house := { House.reset with count := 281474976710655#48, lastBoundary := 281474976710655#48 } }).house.count = 0 := by
  decide +kernel

theorem test_referenceAbsent :
    (after .referenceAbsent { State.reset with house := { House.reset with reference := .present } }).house.reference =
      .absent := by decide +kernel

def atCount (count last : Nat) (pulse : Presence) : State :=
  { State.reset with
    house := { House.reset with count := BitVec.ofNat 48 count, lastBoundary := BitVec.ofNat 48 last, pulse := pulse } }

theorem test_framePulse :
    let t := after .framePulse (atCount 1234 0 .absent)
    t.house.pulse = .present ∧ t.house.lastBoundary = 1234 := by decide +kernel

theorem test_pulseAbsent : (after .pulseAbsent (atCount 9700 100 .present)).house.pulse = .absent ∧
    (after .pulseAbsent (atCount 9699 100 .present)).house.pulse = .present := by decide +kernel

/-- R26: boundaries fall at counts 1920, 3840. -/
theorem test_synthesizedBoundary : (after .synthesizedBoundary (atCount 1919 0 .absent)).house.lastBoundary = 0 ∧
    (after .synthesizedBoundary (atCount 3840 1920 .absent)).house.lastBoundary = 3840 := by decide +kernel

/-- 3.7, step 5 and the boundary: a pending swap acts at the pulse, and the SWAP is answered DONE. -/
def swapping : State :=
  { withEntry stereo State.reset with
    swapPending := true, orders := [orderOf 0 0 0 [], swapOrder]
    programs := State.reset.programs.set 15 { running with corr := { Correction.reset with gain := -900 } }
    bankB := State.reset.bankB.set 15 { stereo with mode := .track, maxCut := 600 } }

theorem test_framePulse_swap :
    let t := after .framePulse swapping
    t.activeBank = .b ∧ t.swapPending = false ∧ t.orders.length = 1 ∧ lastStatus t = 0 ∧
    t.programs[15].state = .running ∧ t.programs[15].corr.gain = -600 := by decide +kernel

/-- 2.9, with T = 512, Gp = 8, Gi = 1 and I_r = 1000: a mean fill of 556 gives e = 44. -/
def looping (state : ContextState) (fill lockCount : Nat) : State :=
  withStream { mono with targetFill := 512 } { Context.reset with
    state := state, integrator := 1000, correction := 1000, windowSum := fill * 480 + 479, windowCount := 480
    lockCount := lockCount }

theorem test_loopUpdate :
    let c := (after (.loopUpdate 31) (looping .track 556 3)).streams[31].ctx
    c.lastError = 44 ∧ c.integrator = 1044 ∧ c.correction = 1396 ∧ c.step = 4294967296 + 357376 ∧ c.lockCount = 0 := by
  decide +kernel

/-- R35: the eighth update within the window locks; an error of −300 unlocks. -/
theorem test_loopUpdate_lock :
    (after (.loopUpdate 31) (looping .track 512 7)).streams[31].ctx.state = .locked ∧
    (after (.loopUpdate 31) (looping .locked 212 1)).streams[31].ctx.state = .track := by decide +kernel

/-- A stream in `state` whose last packet came at 1000 and whose holdover began there. -/
def quietStream (state : ContextState) (count : Nat) : State :=
  { withStream mono { Context.reset with state := state, acceptTime := 1000, holdoverStart := 1000, lockCount := 9 } with
    house := { House.reset with count := BitVec.ofNat 48 count } }

theorem test_gapTimeout :
    (after (.gapTimeout 31) (quietStream .locked 1960)).streams[31].ctx.state = .holdover ∧
    (after (.gapTimeout 31) (quietStream .locked 1960)).streams[31].ctx.holdoverStart = 1960 ∧
    (after (.gapTimeout 31) (quietStream .locked 1959)).streams[31].ctx.state = .locked := by decide +kernel

theorem test_holdoverLimit :
    (after (.holdoverLimit 31) (quietStream .holdover 97000)).streams[31].ctx.state = .lost ∧
    (after (.holdoverLimit 31) (quietStream .holdover 96999)).streams[31].ctx.state = .holdover := by decide +kernel

/-- 4.7, sub-block 4: the mean square of −23.000 LU in each of four sub-blocks; M = S = −2300, bin 470, Γ and I. -/
def metered (processedIn : ProgramState) (energies : Nat) : Program :=
  { running with meter := { Meter.reset with
    energies := List.replicate energies (mkRat 1175 200000), due := some processedIn
    sums := (Vector.replicate 8 0).set 0 (mkRat (1175 * 4800) 200000), subBlocks := 3 } }

theorem test_meterUpdate :
    let m := (after (.meterUpdate 15) (withEntry stereo (withG (metered .running 3)))).programs[15].meter
    m.momentary = some (-2300) ∧ m.shortTerm = some (-2300) ∧ m.histogram[470] = 1 ∧ m.gate = some (-3295) ∧
    m.integrated = some (-2295) ∧ m.subBlocks = 4 ∧ m.due = none := by decide +kernel

/-- 4.7, sub-block 3: no M before the fourth update. -/
theorem test_meterUpdate_third :
    let m := (after (.meterUpdate 15) (withEntry stereo (withG (metered .running 2)))).programs[15].meter
    m.momentary = none ∧ m.shortTerm = some (-2300) ∧ m.integrated = none := by decide +kernel

/-- 4.8: Γ and I of the histogram of the example. -/
theorem test_gate : meanLoudness [(-2305, 600), (-2855, 300), (-4115, 100)] - 1000 = -3469 := by decide +kernel

/-- R67: full scale, and the floor. -/
theorem test_loudness : loudness 1 = -69 ∧ loudness 0 = -12000 := by decide +kernel

/-- 5.6: the window loudness and one step of the gain law. -/
def lawEntry : ProgramEntry := { stereo with mode := .track, window := 4 }

def lawProgram : Program :=
  { running with
    content := 1200000, readIndex := 1192800
    corr := { Correction.reset with
      gain := -100, outputGain := -100, window := some (-2000), ring := List.replicate 40 (-2000) } }

theorem test_window :
    windowLoudness (List.replicate 20 (-2000) ++ List.replicate 10 (-3400) ++ List.replicate 10 (-8000)) =
      (some (-3168), some (-2000)) := by decide +kernel

theorem test_gainLaw :
    (lawProgram.gainLaw lawEntry (some (-2000))).corr.gain = -120 ∧
    (lawProgram.gainLaw lawEntry (some (-2000))).corr.schedule = [⟨1200000, -120⟩] ∧
    (lawProgram.gainLaw lawEntry (some (-5200))).corr.gain = -100 := by decide +kernel

/-- Table 5-4, rows 5 and 6: the fade-out ends, the jump takes up 484,800 : −140 and leaves the newest entry. -/
def jumping : Program :=
  { running with
    content := 490240, readIndex := 475840, delay := ⟨15, [], 0, 0⟩
    lip := { LipSync.reset with target := 4800, actual := 14400, move := .fadingOut }
    corr := { Correction.reset with
      gain := -160, outputGain := -100, dip := .fadeOut, dipCount := 240
      schedule := [⟨480000, -120⟩, ⟨484800, -140⟩, ⟨489600, -160⟩] } }

theorem test_fadeOutEnd :
    let g := (after (.fadeOutEnd 15) (withG jumping)).programs[15]
    g.readIndex = 485440 ∧ g.corr.schedule = [⟨489600, -160⟩] ∧ g.corr.outputGain = -140 ∧ g.lip.actual = 4800 ∧
    g.lip.move = .fadingIn ∧ g.corr.dip = .fadeIn := by decide +kernel

def fadingIn (pendingMove : Bool) : Program :=
  { running with
    lip := { LipSync.reset with move := .fadingIn, pendingMove := pendingMove }
    corr := { Correction.reset with dip := .fadeIn, dipCount := 240 } }

/-- Table 7-3, n + 480 and n + 960. -/
theorem test_fadeInEnd :
    (after (.fadeInEnd 15) (withG (fadingIn true))).programs[15].lip.move = .fadingOut ∧
    (after (.fadeInEnd 15) (withG (fadingIn false))).programs[15].lip.move = .none ∧
    (after (.fadeInEnd 15) (withG (fadingIn false))).programs[15].corr.dip = .rest := by decide +kernel

/-- A wait of 30 s from count 0. -/
def waiting (count : Nat) : State :=
  { withG { running with lip := { LipSync.reset with move := .waiting, waitLength := 1440000 } } with
    house := { House.reset with count := BitVec.ofNat 48 count } }

theorem test_quietWaitExpiry :
    (after (.quietWaitExpiry 15) (waiting 1440000)).programs[15].lip.move = .fadingOut ∧
    (after (.quietWaitExpiry 15) (waiting 1439999)).programs[15].lip.move = .waiting := by decide +kernel

def aged (age : Nat) : State :=
  State.reset.modifyLatency 63 fun e => { e with valid := true, latency := some 7, state := .fresh, age := age }

theorem test_entryStale :
    (after (.entryStale 63) (aged 240000)).latencies[63].state = .stale ∧
    (after (.entryStale 63) (aged 239999)).latencies[63].state = .fresh := by decide +kernel

/-- 7.7: A = 328, V = 2952, U = 2600, and without blocks a target of 0 under DELAY_CLAMP. -/
def chained : State :=
  let s := withEntry { stereo with chain := [5, 6], offset := 1500, trim := -24 } State.reset
  let s := s.modifyStream 0 fun t => { t with entry := { StreamEntry.powerOn with valid := true, lanes := 2 } }
  let s := s.modifyLatency 5 fun e => { e with valid := true, reporter := 7, latency := some 40000, state := .fresh }
  let s := s.modifyLatency 6 fun e => { e with valid := true, reporter := 8, latency := some 20000, state := .fresh }
  s.modifyProgram 15 fun g => { g with state := .stopped }

theorem test_target :
    let l := (chained.recompute 15).programs[15].lip
    l.audio = 328 ∧ l.video = 2952 ∧ l.unclamped = 2600 ∧ l.target = 0 ∧ l.delayClamp = true := by decide +kernel

/-- 7.7: ALLOCATE DELAY with R = 4800 gives B = 5, C = 5119, and D_target and D_actual follow to 2600. -/
theorem test_allocateDelay :
    let t := after .allocateDelay (withOrder (orderOf 9 0 15 (natToBytes 4 4800)) chained)
    t.programs[15].lip.actual = 2600 ∧ t.programs[15].delay.rings = [[0, 1, 2, 3, 4], [5, 6, 7, 8, 9]] ∧
    (lastReply t).take 12 = [0, 7, 0, 0, 7, 5, 0, 0, 0x13, 0xFF, 0x07, 0xF6] := by decide +kernel

/-- 7.7: a report of 80,000 for entry 5. -/
theorem test_ingress_latency :
    let s := chained.modifyProgram 15 fun g => { g with
      state := .running, content := 96100, delay := ⟨5, [[0, 1, 2, 3, 4], [5, 6, 7, 8, 9]], 0, 0⟩
      lip := { g.lip with target := 2600, actual := 2600 } }
    let t := after (.ingressFrame (frameOf 4 0 ([0#8] ++ natToBytes 4 7 ++ natToBytes 4 80000))) s
    t.programs[15].lip.unclamped = 4520 ∧ t.programs[15].lip.target = 4520 ∧ t.programs[15].lip.actual = 2600 ∧
    t.programs[15].lip.move = .fadingOut ∧ t.programs[15].corr.dip = .fadeOut := by decide +kernel

/-- Table 8-7, E2: trigger 10 fires at once and arms trigger 11, which goes PENDING. -/
def trigger10 : TriggerEntry :=
  { TriggerEntry.powerOn with
    enable := true, condition := .streamHoldover, object := 3, clearCount := 2
    responses := ⟨true, false, false, false, false⟩ }

def trigger11 : TriggerEntry :=
  { TriggerEntry.powerOn with
    enable := true, level2 := true, arming := some 10, armWindow := 2, condition := .silence, object := 2
    parameter := -6000, fireCount := 3, clearCount := 2, latch := true, responses := ⟨true, false, false, false, true⟩
    target := some 2 }

def armed : State :=
  let s := State.reset.modifyTrigger 10 fun _ => ⟨trigger10, { TriggerStatus.reset with state := .watching }⟩
  let s := s.modifyTrigger 11 fun _ => ⟨trigger11, { TriggerStatus.reset with state := .watching }⟩
  let s := s.modifyContext 3 fun c => { c with state := .holdover, formatCount := 9 }
  let s := s.modifyProgram 2 fun g => { g with
    state := .running, meter := { g.meter with momentary := some (-6100) } }
  { s with evaluationDue := true, notices := [] }

theorem test_alarmEvaluation :
    let t := after .alarmEvaluation armed
    t.triggers[10].status.state = .active ∧ t.triggers[11].status.state = .pending ∧
    t.triggers[11].status.armed = true ∧ t.triggers[11].status.windowRemaining = 2 ∧
    t.notices.map (fun n => (n.kind, n.trigger)) = [(.fired, some 10)] ∧ t.streams[3].ctx.formatCount = 0 := by
  decide +kernel

/-- R146: trigger 10, rewritten as a level-2 trigger while ACTIVE, sets the window of trigger 11 and no longer arms it. -/
def rearmed : State :=
  armed.modifyTrigger 10 fun _ =>
    ⟨{ trigger10 with level2 := true, arming := some 9 }, { TriggerStatus.reset with state := .active }⟩

theorem test_alarmEvaluation_rewritten :
    let t := (after .alarmEvaluation rearmed).triggers[11].status
    t.windowRemaining = 2 ∧ t.armed = false ∧ t.state = .watching := by decide +kernel

/-- Table 8-7, E15 to E18: trigger 11 clears at the second false evaluation in a row, and is latched then. -/
theorem test_triggerClears :
    let t : Trigger := ⟨trigger11, { TriggerStatus.reset with state := .active, fireTotal := 1 }⟩
    let e15 := t.step (false, -5900)
    let e16 := e15.step (true, -6100)
    let e17 := e16.step (false, -5900)
    let e18 := e17.step (false, -5800)
    [e15, e16, e17, e18].map (fun x => (x.status.state, x.status.count, x.status.latched)) =
      [(.clearing, 1, false), (.active, 0, false), (.clearing, 1, false), (.watching, 0, true)] ∧
    e18.status.fireTotal = 1 ∧ e18.status.lastMeasured = -5800 := by decide

/-- Table 8-7, E10: trigger 11 goes ACTIVE, and program 2 reads its fallback lanes; R64: the member whose fallback slot is
its own keeps its filter states. -/
def failing : State :=
  let s := armed.modifyTrigger 11 fun t => { t with status := { t.status with state := .pending, count := 2 } }
  let s := s.modifyProgram 2 fun g => { g with meter := { g.meter with
    filters := .replicate 8 ⟨⟨1, 0, 0, 0⟩, ⟨0, 0, 0, 0⟩⟩ } }
  s.setBankEntry .a 2 { stereo with fallback := some [5, 1] }

theorem test_alarmEvaluation_fallback :
    let g := (after .alarmEvaluation failing).programs[2]
    g.votes.fallback = 1 ∧ g.fallbackInUse = true ∧ g.changed = true ∧
    g.meter.filters.toList.map (·.shelf.x1) = [0, 1, 1, 1, 1, 1, 1, 1] := by decide +kernel

/-- A program with a packet in progress that its content index has brought to its end. -/
def packed (queue : List (List Byte)) (g : Program) : State :=
  withEntry stereo (withG { g with
    content := 48, egress := ⟨7, [[1#24, 2#24], [0xFFFFFE#24, 3#24]], 5, queue, false⟩ })

/-- Table 9-5, step 7: a third frame displaces the oldest. -/
theorem test_packetComplete :
    let g := (after (.packetComplete 15) (packed [[1#8], [2#8]] running)).programs[15]
    g.egress.queue.map (·.headD 0) = [2#8, 0xFF#8] ∧ g.egress.drop = true ∧ g.egress.sequence = 8 ∧
    g.egress.progress = [] := by decide +kernel

/-- Tables 11-1 and 11-2: the media frame, the samples in the upper 24 bits of their containers. -/
theorem test_mediaFrame :
    ((after (.packetComplete 15) (packed [] running)).programs[15].egress.queue.map (·.map (·.toNat))) =
    [[255, 255, 255, 255, 255, 255, 2, 0, 0, 0, 0, 0, 0x9A, 0x30, 1, 1, 0, 0, 0, 7, 1, 2, 2, 48, 0, 0, 0, 5,
      0, 0, 1, 0, 0, 0, 2, 0, 255, 255, 254, 0, 0, 0, 3, 0, 0, 0, 0, 0, 0, 0, 0, 0, 0, 0, 0, 0, 0, 0, 0, 0]] := by
  decide +kernel

/-- R159 and R181: in the UDP carrier the part header follows an IPv4 and a UDP header; the checksum by hand. -/
theorem test_mediaFrame_udp :
    let s := packed [] running
    let s := { s with
      settings := { s.settings with ipv4 := 0x0A000001 }
      egressTable := s.egressTable.set 15 { s.egressTable[15] with carrier := .udp, ipv4 := 0xE0000005, port := 5004 } }
    ((after (.packetComplete 15) s).programs[15].egress.queue.map fun f => ((f.drop 12).take 36).map (·.toNat)) =
    [[8, 0, 0x45, 0, 0, 58, 0, 0, 0x40, 0, 64, 17, 0x50, 0xAD, 10, 0, 0, 1, 0xE0, 0, 0, 5,
      0x13, 0x8C, 0x13, 0x8C, 0, 38, 0, 0, 1, 1, 0, 0, 0, 7]] := by decide +kernel

/-- Table 9-5, step 8: after program 4 the choice wraps to program 1. -/
def queued : State :=
  let s := State.reset.modifyProgram 1 fun g => { g with egress := { g.egress with queue := [[1#8], [2#8]] } }
  let s := s.modifyProgram 4 fun g => { g with egress := { g.egress with queue := [[3#8]] } }
  { s with lastProgram := 4 }

theorem test_egressChoice :
    let t := after .egressChoice queued
    t.lastProgram = 1 ∧ t.sending = some ⟨[1#8], false⟩ ∧ t.programs[1].egress.queue = [[2#8]] := by decide +kernel

/-- R162: after pass-through the classes begin at the replies, and the STARTED notice of reset is the only frame. -/
theorem test_egressChoice_notice :
    let t := after .egressChoice State.reset
    t.lastClass = .notices ∧ t.notices = [] ∧
    (t.sending.map fun f => (f.bytes.drop 14).map (·.toNat)) =
      some [1, 5, 0xFF, 1, 0, 0, 255, 0, 0, 0, 255, 0, 0, 0, 0, 0, 0, 0, 0, 0, 0, 0,
        0, 0, 0, 0, 0, 0, 0, 0, 0, 0, 0, 0, 0, 0, 0, 0, 0, 0, 0, 0, 0, 0, 0, 0] := by decide +kernel

theorem test_ready : (after .readyWithdrawn State.reset).ready = false ∧
    (after .readyReturn { State.reset with ready := false }).ready = true := by decide +kernel

theorem test_egressFrameEnd :
    (after .egressFrameEnd { State.reset with sending := some ⟨[], true⟩ }).resetPhase = .due ∧
    (after .egressFrameEnd { State.reset with sending := some ⟨[], false⟩ }).sending = none := by decide +kernel

/-- Table 10-6, 0x41: a NOP behind whose reply three orders wait shows the credit 5 and leaves the cursor. -/
theorem test_nop :
    let c : Cursor := ⟨false, .triggerStatus, .a, 47⟩
    let t := after .nop { State.reset with
      cursor := some c, orders := orderOf 0 0 0 [] :: List.replicate 3 (orderOf 2 0 0 []) }
    (lastReply t).take 5 = [0, 5, 0, 0, 0] ∧ t.cursor = some c ∧ t.orders.length = 3 := by decide +kernel

/-- Table 10-6, 0x43 and 0x44: past the last entry RANGE, without a cursor SEQUENCE. -/
theorem test_readNext :
    let o := orderOf 2 0 0 []
    let s := after .readNext { State.reset with cursor := some ⟨false, .triggerStatus, .a, 48⟩, orders := [o, o] }
    (lastReply s).take 2 = [2, 7] ∧ s.cursor = none ∧ (lastReply (after .readNext s)).take 2 = [3, 8] := by decide +kernel

def latencyBytesOf (reporter : Nat) : List Byte :=
  flagByte true ++ natToBytes 4 reporter ++ [1#8] ++ List.replicate 13 0

/-- Table 10-7, 0x45, 0x48 and 0x49. -/
def entry5 : State := State.reset.modifyLatency 5 fun e => { e with valid := true, reporter := 7000 }

theorem test_writeEntry :
    let t := after .writeEntry (withOrder (orderOf 3 4 62 (latencyBytesOf 9001)) entry5)
    let u := after .writeEntry (withOrder (orderOf 3 4 63 (latencyBytesOf 7000)) entry5)
    lastStatus t = 0 ∧ t.latencies[62].reporter = 9001 ∧ t.cursor = some ⟨true, .latency, .a, 63⟩ ∧
    lastStatus u = 2 ∧ u.latencies[63].valid = false ∧ u.cursor = some ⟨true, .latency, .a, 64⟩ := by decide +kernel

theorem test_writeNext :
    let s := { withOrder (orderOf 4 0 0 (latencyBytesOf 9001)) entry5 with cursor := some ⟨true, .latency, .a, 64⟩ }
    let u := after .writeNext { s with cursor := some ⟨true, .latency, .a, 63⟩ }
    lastStatus (after .writeNext s) = 2 ∧ lastStatus u = 0 ∧ u.latencies[63].reporter = 9001 := by decide +kernel

theorem test_clearEntry :
    let t := after .clearEntry (withOrder (orderOf 5 4 5 []) entry5)
    lastStatus t = 0 ∧ t.latencies[5].valid = false ∧
    lastStatus (after .clearEntry (withOrder (orderOf 5 6 0 []) State.reset)) = 1 := by decide +kernel

/-- Table 3-5, steps 5 and 6. -/
theorem test_swapProgramBank :
    let s : State := { State.reset with orders := [orderOf 6 0 0 [], orderOf 6 0 1 []] }
    let t := after .swapProgramBank s
    t.swapPending = true ∧ t.orders.map (·.inProgress) = [true, false] ∧ t.replyQueue = [] ∧
    lastStatus (after .swapProgramBank t) = 5 := by decide +kernel

def startable (state : ProgramState) : State :=
  withEntry stereo (withG { running with
    state := state, content := 5, lip := { LipSync.reset with target := 100, actual := 100 } })

/-- R48: START in STOPPED with blocks makes FILLING, read index −D_actual; in FREE it is refused with STATE. -/
theorem test_startProgram :
    let t := after .startProgram (withOrder (orderOf 7 0 15 []) (startable .stopped))
    lastStatus t = 0 ∧ t.programs[15].state = .filling ∧ t.programs[15].readIndex = -100 ∧
    t.programs[15].delay.readPlace = 924 ∧ t.programs[15].content = 0 ∧
    lastStatus (after .startProgram (withOrder (orderOf 7 0 15 []) (startable .free))) = 4 := by decide +kernel

theorem test_stopProgram :
    let t := after .stopProgram (withOrder (orderOf 8 0 15 []) (startable .running))
    t.programs[15].state = .stopping ∧ t.orders.map (·.inProgress) = [true, true] ∧ t.replyQueue.length = 6 ∧
    lastStatus (after .stopProgram (withOrder (orderOf 8 0 15 []) (startable .stopping))) = 5 := by decide +kernel

/-- R106: the blocks go to the tail of the list in member and ring order. -/
theorem test_releaseDelay :
    let s := withEntry stereo (withG { running with state := .stopped, delay := ⟨2, [[7, 3], [9, 1]], 0, 0⟩ })
    let t := after .releaseDelay (withOrder (orderOf 10 0 15 []) { s with freeList := [5] })
    t.freeList = [5, 7, 3, 9, 1] ∧ t.programs[15].delay.rings = [] ∧ (lastReply t).take 7 = [0, 7, 0, 0, 2, 0, 5] := by
  decide +kernel

theorem test_resetStream :
    let t := after .resetStream (withOrder (orderOf 11 0 31 []) (locked1000 1000 256))
    lastStatus t = 0 ∧ t.streams[31].ctx.state = .acquire ∧ t.streams[31].ctx.expected = none ∧
    t.streams[31].entry = mono := by decide +kernel

theorem test_resetIntegration :
    let s := withG { running with meter := { Meter.reset with integrated := some 5, momentary := some 6 } }
    let t := after .resetIntegration (withOrder (orderOf 12 0 15 []) s)
    lastStatus t = 0 ∧ t.programs[15].meter.integrated = none ∧ t.programs[15].meter.momentary = some 6 := by
  decide +kernel

def latched : State := State.reset.modifyTrigger 47 fun t => { t with status := { t.status with latched := true } }

theorem test_acknowledge :
    (after .acknowledge (withOrder (orderOf 13 0 47 []) latched)).triggers[47].status.latched = false ∧
    (after .acknowledge (withOrder (orderOf 13 0 65535 []) latched)).triggers[47].status.changed = true ∧
    lastStatus (after .acknowledge (withOrder (orderOf 13 0 48 []) latched)) = 2 := by decide +kernel

theorem test_sendLatency :
    (after .sendLatency (withOrder (orderOf 14 0 15 []) State.reset)).programs[15].lip.sendFlag = true := by decide +kernel

theorem test_resetPart :
    let t := after .resetPart (withOrder (orderOf 15 0 0 []) { State.reset with swapPending := true })
    lastStatus t = 0 ∧ t.resetPhase = .awaiting ∧ t.swapPending = false ∧
    (t.replyQueue.getLastD ⟨[], false⟩).resetsPart = true := by decide +kernel

theorem test_partResetActs :
    let t := after .partResetActs { latched with
      resetPhase := .due, settings := { State.reset.settings with staleTimeout := 9 } }
    t.triggers[47].status.latched = false ∧ t.settings.staleTimeout = 9 ∧ t.resetPhase = .none := by decide +kernel

theorem test_powerOnReset :
    let t := after (.powerOnReset 7) { latched with settings := { State.reset.settings with staleTimeout := 9 } }
    t.settings.staleTimeout = 5 ∧ t.settings.unit = 7 ∧ t.notices = [.startedNotice] ∧
    (after (.powerOnReset 255) latched).settings.unit = 0 := by decide +kernel

/-- R181: the header of a frame from 10.0.0.1 to 224.0.0.5 with 12 bytes behind the UDP header. -/
theorem test_checksum : 65535 - headerSum (ipv4Header 0x0A000001#32 0xE0000005#32 12 0) = 0x50BF := by decide +kernel

/-! ### Witnesses: a state and operands that meet the hypotheses of each statement, clause by clause -/

theorem witness_StepRunsFrontCommand :
    ({ State.reset with pending := [.nop, .egressChoice] } : State).pending = .nop :: [.egressChoice] ∧
    State.reset.pending = [] := ⟨rfl, rfl⟩

def crowded (orders passed : Nat) : State :=
  { State.reset with orders := List.replicate orders (orderOf 0 0 0 []), passQueue := List.replicate passed [] }

theorem witness_OrderFrameJoinsQueue :
    (crowded 7 15).orders.length < 8 ∧ (crowded 7 15).settings.unit ≠ 255 ∧ (crowded 7 15).passQueue.length < 16 := by
  decide

/-- A frame in the UDP carrier to the multicast address 224.0.0.5, its IPv4 header of `words` words. -/
def carried (words kind key : Nat) (content : List Byte) : List Byte :=
  natToBytes 12 0 ++ natToBytes 2 0x0800 ++ natToBytes 1 (64 + words) ++ List.replicate 8 0 ++ [17#8]
    ++ List.replicate 6 0 ++ natToBytes 4 0xE0000005 ++ List.replicate (4 * words - 20 + 8) 0
    ++ [1#8, BitVec.ofNat 8 kind] ++ natToBytes 2 key ++ content

/-- Orders to this unit, to unit 255 under the management key and under another, and to another unit, in both carriers. -/
theorem witness_OrderFrameJoinsQueue_carriers :
    let c := State.reset.settings
    ∀ x ∈ [(0#8, 0xFF00), (255#8, 0xFF00), (255#8, 1), (9#8, 0xFF00)], ∀ y ∈ [(14, frameOf 2 x.2), (42, carried 5 2 x.2),
        (82, carried 15 2 x.2)],
      let frame := y.2 (x.1 :: List.replicate 6 0)
      headerPlace c frame = some y.1 ∧ fieldAt frame y.1 1 = 1 ∧ fieldAt frame (y.1 + 1) 1 = 2 ∧
      y.1 + 11 = frame.length ∧ wordAt 8 frame (y.1 + 4) 1 = x.1 ∧
      wordAt 16 frame (y.1 + 2) 2 = BitVec.ofNat 16 x.2 ∧ c.unit = 0 ∧ c.managementKey = 0xFF00 := by decide +kernel

theorem witness_OrderFrameDropped : 8 ≤ (crowded 8 0).orders.length ∧ (List.replicate 6 (0 : Byte)).length < 7 := by decide

/-- Order frames whose order header is short by 1 and by 7 bytes, in both carriers. -/
theorem witness_OrderFrameDropped_carriers : ∀ n ∈ [6, 0], ∀ y ∈ [(14, frameOf 2 5), (42, carried 5 2 5), (82, carried 15 2 5)],
    let frame := y.2 (List.replicate n 0)
    headerPlace State.reset.settings frame = some y.1 ∧ fieldAt frame y.1 1 = 1 ∧ fieldAt frame (y.1 + 1) 1 = 2 ∧
    y.1 + 4 + n = frame.length ∧ frame.length < y.1 + 11 := by decide +kernel

def strange : List Byte := List.replicate 12 0 ++ [0x88#8, 0xB5#8]

theorem witness_StrangeFramePassesOrVanishes : 14 ≤ strange.length ∧
    wordAt 16 strange 12 2 ≠ State.reset.settings.partEtherType ∧ wordAt 16 strange 12 2 ≠ 0x0800#16 := by decide +kernel

/-- A frame in neither carrier, one of version 2, one of kind 3, a short latency report, and an order under a wrong key. -/
theorem witness_StrangeFramePassesOrVanishes_other : ∀ frame ∈ [strange, (frameOf 2 0xFF00 []).set 14 2, frameOf 3 0 [],
    frameOf 4 0 (List.replicate 8 0), frameOf 2 1 (List.replicate 7 0)], IsOther State.reset.settings frame := by
  have h : ∀ frame ∈ [strange, (frameOf 2 0xFF00 []).set 14 2, frameOf 3 0 [], frameOf 4 0 (List.replicate 8 0),
      frameOf 2 1 (List.replicate 7 0)], headerPlace State.reset.settings frame = none ∨
      (headerPlace State.reset.settings frame = some 14 ∧ (fieldAt frame 14 1 ≠ 1 ∨ fieldAt frame 15 1 ∉ [1, 2, 4] ∨
        (fieldAt frame 15 1 = 4 ∧ frame.length < 14 + 13) ∨
        (fieldAt frame 15 1 = 2 ∧ 14 + 11 ≤ frame.length ∧ wordAt 8 frame 18 1 = State.reset.settings.unit ∧
          wordAt 16 frame 16 2 ≠ State.reset.settings.managementKey))) := by decide +kernel
  intro frame m off place
  rcases h frame m with n | ⟨n, r⟩
  · rw [n] at place; cases place
  · rw [n] at place; cases place; exact r

theorem witness_StrangeFramePassesOrVanishes_foreign :
    headerPlace State.reset.settings (frameOf 1 5 []) = some 14 ∧ fieldAt (frameOf 1 5 []) 14 1 = 1 ∧
    fieldAt (frameOf 1 5 []) 15 1 = 1 ∧ ∀ i : Fin 32, State.reset.streams[i].entry.valid = true →
      State.reset.streams[i].entry.key ≠ wordAt 16 (frameOf 1 5 []) 16 2 &&& State.reset.settings.keyMask := by
  decide +kernel

def reported (lock : Bool) (latency : Option Nat) : State :=
  State.reset.modifyLatency 63 fun e => { e with valid := true, reporter := 9, lock := lock, latency := latency }

theorem witness_LatencyReportRefreshes (lock : Bool) (latency : Option Nat) :
    (reported lock latency).latencies[(63 : Fin 64)].valid = true ∧
    (reported lock latency).latencies[(63 : Fin 64)].reporter = 9 ∧
    (∀ j : Fin 64, j < 63 → (reported lock latency).latencies[j].valid = true →
      (reported lock latency).latencies[j].reporter ≠ 9) ∧
    (reported lock latency).latencies[(63 : Fin 64)].lock = lock ∧
    (reported lock latency).latencies[(63 : Fin 64)].latency = latency := by
  refine ⟨rfl, rfl, fun j h v => ?_, rfl, rfl⟩
  rw [reported, State.modifyLatency_other _ _ _ _ (ne_of_lt h)] at v
  simp [State.reset, LatencyEntry.powerOn] at v

/-- Reports of 50,000 µs by reporter 9 in both carriers, without padding. -/
theorem witness_LatencyReportRefreshes_carriers :
    ∀ y ∈ [(14, frameOf 4 5), (42, carried 5 4 5), (82, carried 15 4 5)],
      let frame := y.2 (1 :: natToBytes 4 9 ++ natToBytes 4 50000)
      headerPlace State.reset.settings frame = some y.1 ∧ fieldAt frame y.1 1 = 1 ∧ fieldAt frame (y.1 + 1) 1 = 4 ∧
      y.1 + 13 = frame.length ∧ wordAt 32 frame (y.1 + 5) 4 = 9 ∧ wordAt 32 frame (y.1 + 9) 4 = 50000 := by decide +kernel

/-- A report of another value for an entry that the chain of program 15 names. -/
theorem witness_LatencyReportRefreshes_chain :
    chained.latencies[(5 : Fin 64)].valid = true ∧ chained.latencies[(5 : Fin 64)].reporter = 7 ∧
    (∀ j : Fin 64, j < 5 → chained.latencies[j].valid = true → chained.latencies[j].reporter ≠ 7) ∧
    chained.latencies[(5 : Fin 64)].lock = false ∧ chained.latencies[(5 : Fin 64)].latency ≠ some 50000 ∧
    (5 : Fin 64) ∈ (chained.activeEntry 15).chain ∧ (5 : Fin 64) ∉ (chained.activeEntry 14).chain := by decide +kernel

/-- Every entry but the last is valid, and the last is where `last` says so. -/
def learning (last : Bool) : State :=
  { State.reset with
    latencies := (Vector.replicate 64 { LatencyEntry.powerOn with valid := true, reporter := 1 }).set 63
      { LatencyEntry.powerOn with valid := last } }

theorem witness_LatencyReportRefreshes_learned :
    (∀ j : Fin 64, (learning true).latencies[j].valid = true → (learning true).latencies[j].reporter ≠ 9) ∧
    (∀ j : Fin 64, (learning false).latencies[j].valid = true → (learning false).latencies[j].reporter ≠ 9) ∧
    (learning false).settings.learn = true ∧ (learning false).latencies[(63 : Fin 64)].valid = false ∧
    (∀ j : Fin 64, j < 63 → (learning false).latencies[j].valid = true) ∧
    (∀ j : Fin 64, (learning true).latencies[j].valid = true) ∧
    ({ State.reset.settings with learn := false } : Settings).learn = false := by decide +kernel

/-- The hypotheses of the statements about media packets, for a packet of one frame at distance `d` from s = 1. -/
def PacketAt (state : ContextState) (d : Nat) : Prop :=
  let s := withStream mono { Context.reset with state := state, expected := some 1 }
  s.classify (frameOf 1 5 (mediaBytes (d + 1) 1)) = .media 31 (mediaBytes (d + 1) 1) ∧
  ∃ m, readMedia (mediaBytes (d + 1) 1) = some m ∧ m.formatOk s.streams[(31 : Fin 32)].entry = true ∧
    64 ≤ s.streams[(31 : Fin 32)].entry.targetFill ∧ s.streams[(31 : Fin 32)].ctx.state ≠ .lost ∧
    s.streams[(31 : Fin 32)].ctx.expected = some 1 ∧ (m.sequence - 1).toNat = d

theorem packetAt (state : ContextState) (d : Nat) (h : state ≠ .lost) (m : MediaPacket)
    (c : (withStream mono { Context.reset with state := state, expected := some 1 }).classify
      (frameOf 1 5 (mediaBytes (d + 1) 1)) = .media 31 (mediaBytes (d + 1) 1))
    (r : readMedia (mediaBytes (d + 1) 1) = some m) (f : m.formatOk mono = true)
    (k : (m.sequence - 1).toNat = d) : PacketAt state d :=
  ⟨c, m, r, f, show 64 ≤ mono.targetFill by decide, h, rfl, k⟩

theorem witness_LatePacketDiscarded : PacketAt .locked 32768 :=
  packetAt _ _ (by decide) ⟨32769, 1, 1, 0, 1, [0#8, 1#8]⟩ (by decide +kernel) (by decide +kernel) (by decide +kernel)
    (by decide +kernel)

theorem witness_LatePacketDiscarded_last : PacketAt .acquire 65534 :=
  packetAt _ _ (by decide) ⟨65535, 1, 1, 0, 1, [0#8, 1#8]⟩ (by decide +kernel) (by decide +kernel) (by decide +kernel)
    (by decide +kernel)

theorem witness_ResyncRestartsAcquisition : PacketAt .holdover 33 :=
  packetAt _ _ (by decide) ⟨34, 1, 1, 0, 1, [0#8, 1#8]⟩ (by decide +kernel) (by decide +kernel) (by decide +kernel)
    (by decide +kernel)

theorem witness_ResyncRestartsAcquisition_last : PacketAt .track 32767 :=
  packetAt _ _ (by decide) ⟨32768, 1, 1, 0, 1, [0#8, 1#8]⟩ (by decide +kernel) (by decide +kernel) (by decide +kernel)
    (by decide +kernel)

/-- A packet of one frame in order that finds a fill of `fill`. -/
def FullAt (state : ContextState) (fill : Nat) : Prop :=
  let s := withStream mono { Context.reset with
    state := state, expected := some 1, writeIndex := BitVec.ofNat 32 fill }
  s.classify (frameOf 1 5 (mediaBytes 1 1)) = .media 31 (mediaBytes 1 1) ∧
  readMedia (mediaBytes 1 1) = some ⟨1, 1, 1, 0, 1, [0#8, 1#8]⟩ ∧
  (⟨1, 1, 1, 0, 1, [0#8, 1#8]⟩ : MediaPacket).formatOk s.streams[(31 : Fin 32)].entry = true ∧
  s.streams[(31 : Fin 32)].ctx.expected = some 1 ∧ s.streams[(31 : Fin 32)].ctx.fill = fill

theorem witness_InOrderPacketWritten :
    FullAt .locked 2015 ∧ FullAt .track 0 ∧ FullAt .holdover 2015 ∧ FullAt .locked 2016 := by
  unfold FullAt; decide +kernel

/-- A packet of one frame, seq = 33, that finds the fill `fill` and s = 1 or none: the gap of 32 packets with room and
without, the first packet of ACQUIRE, and the packet that ends LOST. -/
theorem witness_InOrderPacketWritten_others :
    let at_ (state : ContextState) (s : Option (BitVec 16)) (fill : Nat) := withStream mono { Context.reset with
      state := state, expected := s, last := some ⟨1, [0]⟩, writeIndex := BitVec.ofNat 32 fill }
    ∀ x ∈ [(ContextState.acquire, some 1#16, 0), (.acquire, some 1#16, 271), (.track, some 1#16, 2016),
        (.acquire, none, 0), (.lost, none, 0)],
      let s := at_ x.1 x.2.1 x.2.2
      s.classify (frameOf 1 5 (mediaBytes 33 1)) = .media 31 (mediaBytes 33 1) ∧
      readMedia (mediaBytes 33 1) = some ⟨33, 1, 1, 0, 1, [0#8, 1#8]⟩ ∧
      (⟨33, 1, 1, 0, 1, [0#8, 1#8]⟩ : MediaPacket).formatOk s.streams[(31 : Fin 32)].entry = true ∧
      s.streams[(31 : Fin 32)].entry.targetFill ≤ 1536 ∧ (33#16 - BitVec.ofNat 16 32) = 1#16 ∧
      (x.1 ≠ .lost → s.streams[(31 : Fin 32)].ctx.fill = x.2.2) := by decide +kernel

theorem witness_InOrderPacketWritten_format :
    (withStream mono .reset).classify (frameOf 1 5 (mediaBytes 1 65)) = .media 31 (mediaBytes 1 65) ∧
    fieldAt (mediaBytes 1 65) 5 1 = 65 := by decide +kernel

theorem witness_LoopUpdateResult :
    480 ≤ (looping .track 556 3).streams[(31 : Fin 32)].ctx.windowCount ∧
    (looping .track 556 3).streams[(31 : Fin 32)].ctx.state = .track ∧
    (looping .locked 212 1).streams[(31 : Fin 32)].ctx.state = .locked := by decide +kernel

theorem witness_HoldoverAndLost :
    let gone (s : State) (past : BitVec 48) := (s.house.count - past).toNat
    gone (quietStream .track 1960) 1000 = mono.gapTimeout * 48 ∧
    gone (quietStream .locked 1959) 1000 < mono.gapTimeout * 48 ∧
    gone (quietStream .holdover 97000) 1000 = mono.holdoverLimit * 4800 ∧
    gone (quietStream .holdover 96999) 1000 < mono.holdoverLimit * 4800 ∧
    (quietStream .track 1960).streams[(31 : Fin 32)].ctx.acceptTime = 1000 ∧
    (quietStream .holdover 97000).streams[(31 : Fin 32)].ctx.holdoverStart = 1000 ∧
    (quietStream .holdover 97000).streams[(31 : Fin 32)].entry = mono := by decide +kernel

theorem witness_HouseSampleCounts :
    State.reset.house.reference = .absent ∧ (atCount 0 0 .absent).resetPhase ≠ .due ∧
    ({ House.reset with reference := .present } : House).reference = .present ∧
    ({ State.reset with resetPhase := .due } : State).resetPhase = .due := by decide

def silent (r : Presence) : State :=
  { State.reset with notices := [], house := { House.reset with reference := r, count := 1919 } }

theorem witness_QuietHouseSample (r : Presence) : (silent r).NothingDue ∧ (silent r).house.reference = r where
  left := {
    phase := rfl
    orders := rfl
    evaluation := rfl
    windows := by intro i; simp [silent, State.reset, Stream.reset, Context.reset]
    entries := by intro i; simp [silent, State.reset, LatencyEntry.powerOn]
    programs := by
      intro p
      simp [silent, State.reset, Program.reset, Meter.reset, ProgramEgress.reset, Correction.reset, Votes.zero]
    boundary := by refine ⟨rfl, ?_⟩; show since 1919 0 < 1920; decide
    egress := by simp [silent, State.reset] }
  right := rfl

/-- A part in service between its events: stream 31 converts into slot 127, program 15 runs on a ring, and entry 63 of
the Latency Table ages. -/
def between (r : Presence) : State :=
  let s := withEntry stereo (withG { running with
    content := 47, readIndex := 47, delay := ⟨1, [[2046], [2047]], 47, 47⟩, votes := ⟨1, 0, 0, 0⟩
    egress := { ProgramEgress.reset with progress := [[0, 0]] } })
  let s := s.modifyStream 31 fun _ => ⟨{ mono with first := 127 }, { Context.reset with
    state := .track, buffer := List.replicate 48 [5], writeIndex := 48, windowCount := 479 }⟩
  let s := s.modifyLatency 63 fun e => { e with valid := true, state := .fresh, age := 239999 }
  { s with ready := false, house := { House.reset with reference := r, count := 959 } }

theorem between_undisturbed (r : Presence) : (between r).Undisturbed := by
  cases r <;> constructor <;> decide +kernel

/-- R34 asks for 480 house samples, and for TRACK or LOCKED. -/
theorem witness_LoopUpdateResult_undue :
    (between .present).streams[(31 : Fin 32)].ctx.windowCount = 479 ∧
    (between .present).streams[(31 : Fin 32)].ctx.state = .track ∧
    480 ≤ (looping .holdover 556 3).streams[(31 : Fin 32)].ctx.windowCount ∧
    (looping .holdover 556 3).streams[(31 : Fin 32)].ctx.state = .holdover := by decide +kernel

theorem witness_QuietHouseSample_undisturbed (r : Presence) : (between r).Undisturbed ∧ (between r).house.reference = r ∧
    (between r).streams[(31 : Fin 32)].ctx.fill ≤ 2016 ∧
    (between r).streams[(31 : Fin 32)].entry.covers (127 : Fin 128).val = true ∧
    (∀ j : Fin 32, j ≠ 31 → (between r).streams[j].entry.covers (127 : Fin 128).val = false) ∧
    (∀ j : Fin 32, (between r).streams[j].entry.covers (126 : Fin 128).val = false) := by
  refine ⟨between_undisturbed r, rfl, ?_⟩
  cases r <;> decide +kernel

/-- Stream 31 owes its loop update and its gap timeout. -/
def owing : State := { looping .locked 556 9 with house := { House.reset with count := 1000 } }

theorem witness_QuietHouseSample_events : ({ State.reset with resetPhase := .due } : State).resetPhase = .due ∧
    (∃ w, exec .partResetActs { State.reset with resetPhase := .due } = .next w) ∧ owing.resetPhase ≠ .due ∧
    owing.house.reference = .absent ∧ ({ House.reset with reference := .present } : House).reference = .present :=
  ⟨rfl, ⟨_, rfl⟩, by decide, rfl, rfl⟩

/-- The loop update comes before the gap timeout: the integrator has moved when HOLDOVER begins, at the count that ends
(R34, R36; log 3). -/
theorem test_events_settled :
    let c := (after .freeRunSampleEnd owing).streams[31].ctx
    c.state = .holdover ∧ c.integrator = 1044 ∧ c.holdoverStart = 1000 := by decide +kernel

theorem witness_BoundaryWithoutSwap :
    let gone (s : State) := (s.house.count - s.house.lastBoundary).toNat
    (atCount 9600 0 .present).swapPending = false ∧
    gone (atCount 9600 0 .present) = 9600 ∧ gone (atCount 9599 0 .present) = 9599 ∧
    gone (atCount 1920 0 .absent) = 1920 ∧ gone (atCount 1919 0 .absent) = 1919 ∧
    ∀ pulse : Presence, let s : State := { swapping with
        house := { House.reset with count := 9600, pulse := pulse, boundaryMade := true } }
      s.house.boundaryMade = true ∧ s.house.pulse = pulse ∧ gone s = 9600 := by
  refine ⟨by decide +kernel, by decide +kernel, by decide +kernel, by decide +kernel, by decide +kernel, fun pulse => ?_⟩
  cases pulse <;> decide +kernel

theorem witness_SwapTakesEffectAtPulse :
    swapping.swapPending = true ∧ swapping.house.boundaryMade = false ∧ swapping.resetPhase = .none ∧
    swapping.orders = [orderOf 0 0 0 []] ++ swapOrder :: [] ∧ swapOrder.inProgress = true ∧ swapOrder.kind = 6#8 ∧
    ∀ x ∈ [orderOf 0 0 0 []] ++ [], x.inProgress = true → x.kind ≠ 6#8 ∧ x.kind ≠ 8#8 := by
  refine ⟨rfl, rfl, rfl, rfl, rfl, rfl, ?_⟩
  simp [orderOf]

/-- An order to program 15 that waits, and the program's state. -/
theorem orderTo15 (kind : Nat) (k : kind < 256) (contents : List Byte) (s : State) (h : s.resetPhase = .none) :
    ∃ before o after, (withOrder (orderOf kind 0 15 contents) s).OrderReady before o after kind ∧
      o.index = (15 : Fin 16).val ∧ o.contents = contents ∧ (withOrder (orderOf kind 0 15 contents) s).programs = s.programs :=
  ⟨_, _, _, withOrder_ready kind 0 15 contents s k h, rfl, rfl, rfl⟩

theorem witness_StartProgramResult :
    (∃ before o after, (withOrder (orderOf 7 0 15 []) (startable .stopped)).OrderReady before o after 7 ∧
      o.index = (15 : Fin 16).val) ∧
    (startable .stopped).programs[(15 : Fin 16)].state = .stopped ∧
    (startable .stopped).programs[(15 : Fin 16)].delay.blocks ≠ 0 ∧
    ((startable .stopped).programs[(15 : Fin 16)].fallbackInUse = true ↔
      0 < (startable .stopped).programs[(15 : Fin 16)].votes.fallback ∧
        ((startable .stopped).activeEntry 15).fallback ≠ none) ∧
    (startable .running).programs[(15 : Fin 16)].state = .running ∧
    (startable .stopping).programs[(15 : Fin 16)].state = .stopping :=
  ⟨⟨_, _, _, withOrder_ready 7 0 15 [] _ (by decide) rfl, rfl⟩, by decide +kernel⟩

theorem witness_StartProgramResult_range :
    ∃ s before o after, State.OrderReady s before o after 7 ∧ 16 ≤ o.index :=
  ⟨_, _, _, _, withOrder_ready 7 0 16 [] State.reset (by decide) rfl, by decide⟩

theorem witness_StopProgramResult :
    (∃ before o after, (withOrder (orderOf 8 0 15 []) (startable .filling)).OrderReady before o after 8 ∧
      o.index = (15 : Fin 16).val) ∧
    (startable .filling).programs[(15 : Fin 16)].state = .filling ∧
    (startable .free).programs[(15 : Fin 16)].state = .free ∧
    (startable .stopping).programs[(15 : Fin 16)].state = .stopping :=
  ⟨⟨_, _, _, withOrder_ready 8 0 15 [] _ (by decide) rfl, rfl⟩, by decide +kernel⟩

theorem witness_StopProgramResult_range :
    ∃ s before o after, State.OrderReady s before o after 8 ∧ 16 ≤ o.index :=
  ⟨_, _, _, _, withOrder_ready 8 0 16 [] State.reset (by decide) rfl, by decide⟩

theorem witness_ProgramSampleAdvances :
    (withG { running with state := .filling, readIndex := -1 }).programs[(15 : Fin 16)].state.processing = true ∧
    (withG { running with readIndex := 281474976710654 }).programs[(15 : Fin 16)].readIndex + 1 < 281474976710656 ∧
    State.reset.programs[(15 : Fin 16)].state.processing = false := by decide +kernel

theorem witness_ProgramSampleAdvances_fed :
    ([5#24, 0#24] : List Sample)[(0 : Fin 8).val]? = some 5#24 ∧ ([5#24, 0#24] : List Sample)[(7 : Fin 8).val]? = none := by
  decide

theorem witness_ProgramSampleAdvances_undisturbed : (between .absent).Undisturbed ∧
    (between .absent).programs[(15 : Fin 16)].state.processing = true := ⟨between_undisturbed _, by decide +kernel⟩

theorem witness_RingReadAfterWrite :
    let rings := [[7], [0]]
    Memory.empty.wf = true ∧ rings.flatten.Nodup ∧ (∀ ring ∈ rings, ring.length = 1) ∧ 1023 < 1 * 1024 ∧
    ([5#24, 0#24] : List Sample).length = rings.length ∧ ∀ ring ∈ rings, placeAddress ring 1023 ≠ some 1024 := by decide

theorem witness_LoudnessFunction : (0 : F64) = 0 ∧ (0 : F64) < 1 := by decide

theorem witness_MeterUpdateResult :
    let s := withEntry stereo (withG (metered .running 3))
    let u := withEntry stereo (withG (metered .filling 29))
    s.programs[(15 : Fin 16)].meter.due = some .running ∧ s.programs[(15 : Fin 16)].state.processing = true ∧
    u.programs[(15 : Fin 16)].meter.due = some .filling := by decide +kernel

/-- One value in use: the mean is that value, half a hundredth away from every tie. -/
theorem witness_MeterUpdateResult_gates :
    (∀ v ∈ [((-2305 : Int), 1)], -12000 ≤ v.1) ∧ (∃ v ∈ [((-2305 : Int), 1)], 0 < v.2) ∧
    meanLoudness [(-2305, 1)] = -2305 ∧
    (∀ k : Fin 750, (Vector.replicate 750 0 : Vector Nat 750)[k] = 0) ∧
    (∃ k : Fin 750, (Vector.replicate 750 1 : Vector Nat 750)[k] ≠ 0) := by
  refine ⟨by decide, by decide, by decide +kernel, fun k => by simp, ⟨0, by simp⟩⟩

/-- For that value the distance to every tie is at least one half. -/
theorem witness_MeterUpdateResult_apart :
    let values : List (Int × Nat) := [(-2305, 1)]
    let mean : ℝ := (values.map fun v => (v.2 : ℝ) * (10 : ℝ) ^ ((v.1 : ℝ) / 1000)).sum / ((values.map (·.2)).sum : Nat)
    let level : ℝ := 1000 * Real.logb 10 mean
    ∀ k : ℤ, (1 / 10 ^ 30 : ℝ) ≤ |level - (k + 1 / 2)| := by
  intro values mean level k
  have e : level = -2305 := by
    have m : mean = (10 : ℝ) ^ ((-2305 : ℝ) / 1000) := by simp [mean, values]
    show 1000 * Real.logb 10 mean = -2305
    rw [m, Real.logb_rpow (by norm_num) (by norm_num)]
    norm_num
  have i : (1 : ℤ) ≤ |-4611 - 2 * k| := by
    rcases abs_cases (-4611 - 2 * k) with a | a <;> omega
  have j : (1 : ℝ) ≤ |-4611 - 2 * (k : ℝ)| := by exact_mod_cast i
  have h : |-4611 - 2 * (k : ℝ)| = 2 * |(-2305 : ℝ) - (k + 1 / 2)| := by
    rw [← abs_two, ← abs_mul, abs_two]; congr 1; ring
  have small : (1 / 10 ^ 30 : ℝ) ≤ 1 / 2 := by norm_num
  rw [e]
  linarith

/-- At the update of program 15 a wait ends on quiet content, and an unchanged report is offered or not by the flag. -/
def updating (send : Bool) (reports : List LatencyReport) : State :=
  { withEntry { stereo with quietThreshold := -2299 } (withG { metered .running 3 with
      lip := { LipSync.reset with move := .waiting, lastReported := some 0, sendFlag := send } }) with reportQueue := reports }

theorem witness_MeterUpdateResult_handed :
    let full := fun p : Fin 16 => List.replicate 15 (⟨p, 0, 0⟩ : LatencyReport)
    (updating true []).programs[(15 : Fin 16)].meter.due = some .running ∧
    (updating true []).programs[(15 : Fin 16)].lip.sendFlag = true ∧ (updating true []).reportQueue.length < 16 ∧
    (updating false []).programs[(15 : Fin 16)].lip.sendFlag = false ∧
    (updating false []).programs[(15 : Fin 16)].lip.lastReported =
      some (((0 + ((0 : Nat) : Int)) * 1000 + 24) / 48).toNat ∧
    (after (.meterUpdate 15) (updating true [])).programs[(15 : Fin 16)].meter.quiet = true ∧
    (updating true []).programs[(15 : Fin 16)].lip.move = .waiting ∧
    (updating true []).programs[(15 : Fin 16)].corr.dip = .rest ∧
    (updating true (⟨15, 0, 0⟩ :: full 14)).reportQueue = [] ++ ⟨15, 0, 0⟩ :: full 14 ∧
    16 ≤ (⟨15, 0, 0⟩ :: full 14).length ∧ (∀ x ∈ full 14, x.program ≠ 15) ∧
    (∀ x ∈ (updating true (⟨13, 0, 0⟩ :: full 14)).reportQueue, x.program ≠ 15) ∧
    (withG { running with state := .stopping }).programs[(15 : Fin 16)].state.processing = true ∧
    State.reset.programs[(15 : Fin 16)].meter.due = none := by decide +kernel

theorem witness_GainLawResult :
    0 ≤ lawEntry.maxCut ∧ 0 ≤ lawEntry.maxBoost ∧ lawEntry.mode = .track ∧ lawProgram.votes.freeze = 0 ∧
    lawProgram.corr.window = some (-2000) ∧ lawEntry.freezeThreshold ≤ -5000 ∧ (-5001 : Int) < lawEntry.freezeThreshold ∧
    lawProgram.readIndex < lawProgram.content.toNat ∧ lawProgram.corr.schedule = [] ∧
    (-100 : Int) + max (-20) (min 20 (max (-1200) (min 600 (-2300 - -2000)) - -100)) ≠ -100 ∧ stereo.mode = .measure ∧
    ({ lawProgram with votes := ⟨0, 1, 0, 0⟩ } : Program).votes.freeze = 1 := by decide +kernel

theorem witness_GainLawResult_arrived :
    (-300 : Int) + max (-20) (min 20 (max (-1200) (min 600 (-2300 - -2000)) - -300)) = -300 := by decide

theorem witness_OutputFactors :
    Correction.reset.ramp.present = 1 ∧ Correction.reset.mute = 480 ∧ Correction.reset.dip = .rest ∧
    Correction.reset.stop = 0 ∧ ({ Correction.reset with stop := 480 } : Correction).stop = 480 ∧
    ({ Correction.reset with mute := 0 } : Correction).mute = 0 ∧
    ({ Correction.reset with dip := .fadeOut, dipCount := 240 } : Correction).dipCount = 240 ∧
    ({ Correction.reset with dip := .fadeIn, dipCount := 240 } : Correction).dip = .fadeIn := by decide +kernel

/-- 2^53 + 1 lies halfway between two numbers, and goes to the even one; both are numbers of 64-bit floating point. -/
theorem witness_OutputFactors_float :
    IsFloat 9007199254740992 ∧ IsFloat 9007199254740994 ∧ roundF64 9007199254740993 = 9007199254740992 :=
  ⟨⟨2 ^ 52, 1, by norm_num, by norm_num, by norm_num⟩, ⟨2 ^ 52 + 1, 1, by norm_num, by norm_num, by norm_num⟩,
    by decide +kernel⟩

theorem witness_ScheduleTakeUp :
    jumping.corr.schedule = [⟨480000, -120⟩] ++ ⟨484800, -140⟩ :: [⟨489600, -160⟩] ∧
    (∀ x ∈ [(⟨480000, -120⟩ : GainEntry)], x.content ≤ 484800) ∧
    ∀ x ∈ [(⟨489600, -160⟩ : GainEntry)], (484800 : Int) < x.content := by decide +kernel

theorem witness_FadeOutEndJumps :
    (withG jumping).programs[(15 : Fin 16)].corr.dip = .fadeOut ∧
    240 ≤ (withG jumping).programs[(15 : Fin 16)].corr.dipCount ∧
    (withG jumping).programs[(15 : Fin 16)].meter.due = none ∧
    (withG jumping).programs[(15 : Fin 16)].state.processing = true ∧
    (withG { jumping with corr := { jumping.corr with dipCount := 239 } }).programs[(15 : Fin 16)].corr.dipCount < 240 := by
  decide +kernel

theorem witness_FadeInAndQuietWaitEnd :
    (withG (fadingIn true)).programs[(15 : Fin 16)].corr.dip = .fadeIn ∧
    240 ≤ (withG (fadingIn true)).programs[(15 : Fin 16)].corr.dipCount ∧
    (withG (fadingIn true)).programs[(15 : Fin 16)].lip.pendingMove = true ∧
    (withG (fadingIn false)).programs[(15 : Fin 16)].lip.pendingMove = false ∧
    ((withG (fadingIn true)).activeEntry 15).moveMode = .dip ∧
    ((withEntry { stereo with moveMode := .quiet } (withG (fadingIn true))).activeEntry 15).moveMode = .quiet := by
  decide +kernel

theorem witness_QuietWaitEnd :
    let g := (waiting 1440000).programs[(15 : Fin 16)]
    g.state = .running ∧ g.lip.move = .waiting ∧ g.corr.dip = .rest ∧
    g.lip.waitLength = ((waiting 1440000).house.count - g.lip.waitStart).toNat ∧
    ((waiting 1439999).house.count - (waiting 1439999).programs[(15 : Fin 16)].lip.waitStart).toNat < g.lip.waitLength := by
  decide +kernel

/-- The program of `chained`, whose target is 0, in another state and move. -/
def aligning (state : ProgramState) (move : MoveState) (target actual : Nat) : Program :=
  ((chained.modifyProgram 15 fun g =>
    { g with state := state, lip := { g.lip with move := move, target := target, actual := actual } }).recompute 15).programs[15]

/-- In every state and move of a program both a new target and the same one, and a difference of the tolerance and one
above it, are met. -/
theorem witness_TargetDelay : chained.programs[(15 : Fin 16)].state ≠ .free ∧
    (State.reset.programs[(15 : Fin 16)].state = .free) ∧
    ∀ state ∈ [ProgramState.stopped, .filling, .stopping, .running], ∀ move ∈ [MoveState.none, .waiting, .fadingOut, .fadingIn],
      ∀ actual ∈ [(chained.activeEntry 15).tolerance, (chained.activeEntry 15).tolerance + 1],
        (aligning state move 0 actual).lip.target = 0 ∧ (aligning state move 7 actual).lip.target ≠ 7 := by decide +kernel

/-- A move at a new target, by the two move modes, and what R127 does in each move state. -/
theorem test_moves :
    (aligning .running .none 7 241).lip.move = .fadingOut ∧ (aligning .running .none 7 240).lip.move = .none ∧
    (aligning .running .waiting 7 240).lip.move = .none ∧ (aligning .running .waiting 7 241).lip.move = .waiting ∧
    (aligning .running .fadingIn 7 241).lip.pendingMove = true ∧ (aligning .filling .none 7 241).lip.actual = 0 ∧
    (aligning .running .none 7 241).lip.actual = 241 := by decide +kernel

theorem witness_EntryBecomesStale :
    (aged 240000).latencies[(63 : Fin 64)].state = .fresh ∧
    (aged 240000).settings.staleTimeout * 48000 = (aged 240000).latencies[(63 : Fin 64)].age ∧
    (aged 239999).latencies[(63 : Fin 64)].age < (aged 239999).settings.staleTimeout * 48000 := by decide +kernel

def allocating (request : Nat) (free : List Nat) : State :=
  withOrder (orderOf 9 0 15 (natToBytes 4 request)) { chained with freeList := free }

theorem witness_AllocateDelayResult :
    (∃ before o after, (allocating 96000 (List.range 188)).OrderReady before o after 9 ∧ o.index = (15 : Fin 16).val ∧
      4 ≤ o.contents.length ∧ fieldAt o.contents 0 4 ≤ 96000 ∧ fieldAt o.contents 0 4 < 94 * 1024 ∧
      (94 - 1) * 1024 ≤ fieldAt o.contents 0 4) ∧
    (allocating 96000 (List.range 188)).programs[(15 : Fin 16)].state = .stopped ∧
    94 * ((allocating 96000 (List.range 188)).activeEntry 15).members.length =
      ((allocating 96000 (List.range 188)).freeList ++
        (allocating 96000 (List.range 188)).programs[(15 : Fin 16)].delay.rings.flatten).length :=
  ⟨⟨_, _, _, withOrder_ready 9 0 15 _ _ (by decide) rfl, rfl, by decide +kernel⟩, by decide +kernel⟩

theorem witness_AllocateDelayResult_noSpace :
    (allocating 96000 (List.range 187)).freeList.length +
      (allocating 96000 (List.range 187)).programs[(15 : Fin 16)].delay.rings.flatten.length <
      94 * ((allocating 96000 (List.range 187)).activeEntry 15).members.length := by decide +kernel

theorem witness_AllocateDelayResult_refused :
    (∃ s before o after, State.OrderReady s before o after 9 ∧ o.contents.length < 4) ∧
    (∃ s before o after, State.OrderReady s before o after 9 ∧ 16 ≤ o.index) ∧
    (∃ s before o after, State.OrderReady s before o after 9 ∧ 96000 < fieldAt o.contents 0 4) ∧
    (∃ s before o after, State.OrderReady s before o after 9 ∧ o.index = (15 : Fin 16).val ∧ 4 ≤ o.contents.length ∧
      fieldAt o.contents 0 4 ≤ 96000 ∧ s.programs[(15 : Fin 16)].state ≠ .stopped) :=
  ⟨⟨_, _, _, _, withOrder_ready 9 0 15 [0, 0, 0] State.reset (by decide) rfl, by decide⟩,
    ⟨_, _, _, _, withOrder_ready 9 0 16 (natToBytes 4 0) State.reset (by decide) rfl, by decide⟩,
    ⟨_, _, _, _, withOrder_ready 9 0 15 (natToBytes 4 96001) State.reset (by decide) rfl, by decide +kernel⟩,
    ⟨_, _, _, _, withOrder_ready 9 0 15 (natToBytes 4 96000) State.reset (by decide) rfl, rfl, by decide +kernel,
      by decide +kernel, by decide +kernel⟩⟩

theorem witness_ReleaseDelayResult :
    (∃ before o after, (withOrder (orderOf 10 0 15 []) (startable .stopped)).OrderReady before o after 10 ∧
      o.index = (15 : Fin 16).val) ∧
    (∃ s before o after, State.OrderReady s before o after 10 ∧ 16 ≤ o.index) ∧
    (startable .stopped).programs[(15 : Fin 16)].state = .stopped ∧
    (startable .stopping).programs[(15 : Fin 16)].state = .stopping :=
  ⟨⟨_, _, _, withOrder_ready 10 0 15 [] _ (by decide) rfl, rfl⟩,
    ⟨_, _, _, _, withOrder_ready 10 0 16 [] State.reset (by decide) rfl, by decide⟩, by decide +kernel⟩

theorem witness_TriggerFiresAfterCount :
    let t : Trigger := ⟨{ trigger10 with fireCount := 600 }, { TriggerStatus.reset with state := .watching }⟩
    t.entry.level2 = false ∧ t.status.state = .watching ∧ t.status.count = 0 ∧ 1 ≤ t.entry.fireCount ∧
    599 < t.entry.fireCount ∧ 1 ≤ trigger10.fireCount := by decide

/-- A level-2 trigger that is armed, and an ACTIVE one at the greatest clear count. -/
theorem witness_TriggerFiresAfterCount_level2 :
    let t : Trigger := ⟨trigger11, { TriggerStatus.reset with state := .watching, armed := true }⟩
    let u : Trigger := ⟨{ trigger11 with clearCount := 600 }, { TriggerStatus.reset with state := .active }⟩
    t.entry.level2 = true ∧ t.status.armed = true ∧ t.status.state = .watching ∧ t.status.count = 0 ∧
    1 ≤ t.entry.fireCount ∧ u.status.state = .active ∧ 1 ≤ u.entry.clearCount ∧ 599 < u.entry.clearCount := by decide

/-- Each row of Table 8-3 at the count that ends it and at the one before. -/
theorem witness_TriggerFiresAfterCount_rows : ∀ state ∈ [TriggerState.watching, .pending, .active, .clearing],
    let at_ (count : Nat) : Trigger := ⟨{ trigger11 with fireCount := 600, clearCount := 600 },
      { TriggerStatus.reset with state := state, count := count, armed := true }⟩
    (at_ 599).status.state = state ∧ (at_ 599).entry.fireCount ≤ (at_ 599).status.count + 1 ∧
    (at_ 598).status.count + 1 < (at_ 598).entry.fireCount ∧ (at_ 599).entry.clearCount ≤ (at_ 599).status.count + 1 ∧
    (at_ 598).status.count + 1 < (at_ 598).entry.clearCount ∧ trigger10.fireCount ≤ 1 ∧ 1 < (at_ 0).entry.clearCount ∧
    (at_ 0).status.armed = true ∧ trigger10.level2 = false ∧ TriggerEntry.powerOn.clearCount ≤ 1 := by decide

theorem witness_AlarmEvaluationResult :
    armed.evaluationDue = true ∧ armed.triggers[(10 : Fin 48)].entry.level2 = false ∧
    armed.triggers[(11 : Fin 48)].entry.level2 = true ∧
    armed.triggers[(11 : Fin 48)].entry.arming = some 10 ∧ State.reset.evaluationDue = false ∧
    rearmed.evaluationDue = true ∧ rearmed.triggers[(10 : Fin 48)].entry.level2 = true ∧
    armed.programs[(2 : Fin 16)].fallbackInUse = (after .alarmEvaluation armed).programs[2].fallbackInUse := by
  decide +kernel

/-- The last stream and the last program as objects of a condition (Table 8-2). -/
theorem witness_AlarmEvaluationResult_objects :
    ({ trigger10 with object := 31 } : TriggerEntry).object = (31 : Fin 32).val ∧
    ({ trigger10 with object := 15 } : TriggerEntry).object = (15 : Fin 16).val ∧
    (∀ k : Condition, ({ trigger10 with condition := k } : TriggerEntry).condition = k) := ⟨rfl, rfl, fun _ => rfl⟩

theorem witness_NoticeOffered :
    ({ State.reset with notices := List.replicate 31 .startedNotice } : State).notices.length < 32 ∧
    32 ≤ ({ State.reset with notices := List.replicate 32 .startedNotice } : State).notices.length := by decide

theorem witness_PacketCompletes :
    let s := packed [[1#8], [2#8]] running
    s.programs[(15 : Fin 16)].egress.progress ≠ [] ∧
    s.programs[(15 : Fin 16)].content.toNat % s.egressTable[(15 : Fin 16)].packetSize = 0 ∧
    s.programs[(15 : Fin 16)].state ≠ .stopping ∧
    State.reset.programs[(15 : Fin 16)].egress.progress = [] := by decide +kernel

def stopOrder : Order := { orderOf 8 0 15 [] with inProgress := true }

def stopping : State :=
  { packed [] { running with state := .stopping, corr := { Correction.reset with stop := 480 } } with
    orders := [swapOrder, stopOrder] }

theorem witness_StoppingEnds :
    stopping.programs[(15 : Fin 16)].state = .stopping ∧ 480 ≤ stopping.programs[(15 : Fin 16)].corr.stop ∧
    stopping.programs[(15 : Fin 16)].egress.progress ≠ [] ∧
    stopping.programs[(15 : Fin 16)].content.toNat % stopping.egressTable[(15 : Fin 16)].packetSize = 0 ∧
    stopping.resetPhase = .none ∧ stopping.orders = [swapOrder] ++ stopOrder :: [] ∧ stopOrder.inProgress = true ∧
    stopOrder.kind = 8#8 ∧ stopOrder.index = (15 : Fin 16).val ∧
    ∀ x ∈ [swapOrder], ¬ (x.inProgress = true ∧ x.kind = 8#8 ∧ x.index = (15 : Fin 16).val) := by decide +kernel

theorem witness_StoppingEnds_unanswered :
    (∀ x ∈ ({ stopping with orders := [swapOrder] } : State).orders,
      ¬ (x.inProgress = true ∧ x.kind = 8#8 ∧ x.index = (15 : Fin 16).val)) ∧
    ({ stopping with resetPhase := .awaiting } : State).resetPhase ≠ .none := by decide

/-- Program 15 stops, its STOP behind a pending SWAP whose new entry is not valid; its packet is due where there is one. -/
def cutStopping (progress : List (List Sample)) (pulse : Presence) (count : Nat) : State :=
  { (stopping.modifyProgram 15 fun g => { g with egress := { g.egress with progress := progress } }) with
    swapPending := true, house := { House.reset with count := BitVec.ofNat 48 count, pulse := pulse } }

theorem witness_SwapTakesEffectAtPulse_cut :
    let cut (s : State) (p : Fin 16) : Bool := cutBy (s.activeEntry p) s.bankB[p] s.programs[p]
    let idle := cutStopping [] .absent 1920
    let due := cutStopping [[1]] .present 9600
    (∀ p : Fin 16, cut idle p = decide (p = 15)) ∧ (∀ p : Fin 16, cut due p = decide (p = 15)) ∧
    idle.swapPending = true ∧ idle.house.boundaryMade = false ∧ idle.resetPhase = .none ∧ idle.activeBank = .a ∧
    idle.orders = [] ++ swapOrder :: [stopOrder] ∧ swapOrder.inProgress = true ∧ swapOrder.kind = 6#8 ∧
    idle.programs[(15 : Fin 16)].meter.due = none ∧ idle.programs[(15 : Fin 16)].egress.progress = [] ∧
    due.programs[(15 : Fin 16)].egress.progress ≠ [] := by decide +kernel

theorem witness_SwapTakesEffectAtPulse_boundary :
    MakesBoundary (cutStopping [] .absent 0) .framePulse .present ∧
    MakesBoundary (cutStopping [] .absent 1920) .synthesizedBoundary .absent ∧
    MakesBoundary (cutStopping [] .present 9600) .pulseAbsent .absent :=
  ⟨.inl ⟨rfl, rfl⟩, .inr (.inr ⟨rfl, rfl, rfl, by decide +kernel⟩), .inr (.inl ⟨rfl, rfl, rfl, by decide +kernel⟩)⟩

/-- R52: the STOP of a program that the swap cuts is answered after the SWAP. -/
theorem test_synthesizedBoundary_cut :
    let t := after .synthesizedBoundary (cutStopping [] .absent 1920)
    t.orders = [] ∧ t.replyQueue.map (fun r => r.bytes[20]?) = [some 6#8, some 8#8] ∧
    t.programs[(15 : Fin 16)].state = .free := by decide +kernel

theorem witness_EgressChoiceServesMedia :
    queued.sending = none ∧ queued.ready = true ∧ queued.resetPhase ≠ .due ∧
    queued.programs[queued.lastProgram + 1 + 12].egress.queue = [1#8] :: [[2#8]] ∧
    ∀ j : Fin 16, j < 12 → queued.programs[queued.lastProgram + 1 + j].egress.queue = [] := by decide +kernel

theorem witness_EgressChoiceServesClasses :
    State.reset.sending = none ∧ State.reset.ready = true ∧ State.reset.resetPhase ≠ .due ∧
    (∀ p : Fin 16, State.reset.programs[p].egress.queue = []) ∧ State.reset.notices = .startedNotice :: [] ∧
    State.reset.lastClass.after.takeWhile (fun d => decide (d ≠ .notices)) = [.replies, .reports] ∧
    State.reset.replyQueue = [] ∧ State.reset.reportQueue = [] := by decide +kernel

theorem witness_EgressChoiceServesClasses_others :
    State.reset.lastClass.after.takeWhile (fun d => decide (d ≠ .replies)) = [] ∧
    EgressClass.replies.after.takeWhile (fun d => decide (d ≠ .reports)) = [] ∧
    EgressClass.notices.after.takeWhile (fun d => decide (d ≠ .passThrough)) = [] ∧
    ({ State.reset with notices := [] } : State).notices = [] ∧
    ({ State.reset with ready := false } : State).ready = false := by decide

theorem witness_LinkEvents :
    ({ State.reset with sending := some ⟨[], true⟩ } : State).sending = some ⟨[], true⟩ ∧ State.reset.ready = true ∧
    State.reset.sending = none := by decide

theorem witness_SimpleOrders :
    (∀ kind ∈ [0, 12, 13, 14], ∃ s before o after, State.OrderReady s before o after kind ∧ o.index = 15) ∧
    (∃ s before o after, State.OrderReady s before o after 13 ∧ o.index = (47 : Fin 48).val) ∧
    (∃ s before o after, State.OrderReady s before o after 13 ∧ o.index = 65535) ∧
    (∃ s before o after, State.OrderReady s before o after 13 ∧ 48 ≤ o.index ∧ o.index ≠ 65535) ∧
    (∃ s before o after, State.OrderReady s before o after 14 ∧ 16 ≤ o.index) ∧
    (∃ s before o after, State.OrderReady s before o after 6 ∧ s.swapPending = false) ∧
    (∃ s before o after, State.OrderReady s before o after 6 ∧ s.swapPending = true) := by
  refine ⟨fun kind h => ⟨_, _, _, _, withOrder_ready kind 0 15 [] State.reset ?_ rfl, rfl⟩,
    ⟨_, _, _, _, withOrder_ready 13 0 47 [] State.reset (by decide) rfl, rfl⟩,
    ⟨_, _, _, _, withOrder_ready 13 0 65535 [] State.reset (by decide) rfl, rfl⟩,
    ⟨_, _, _, _, withOrder_ready 13 0 48 [] State.reset (by decide) rfl, by decide⟩,
    ⟨_, _, _, _, withOrder_ready 14 0 16 [] State.reset (by decide) rfl, by decide⟩,
    ⟨_, _, _, _, withOrder_ready 6 0 0 [] State.reset (by decide) rfl, rfl⟩,
    ⟨_, _, _, _, withOrder_ready 6 0 0 [] { State.reset with swapPending := true } (by decide) rfl, rfl⟩⟩
  simp at h; omega

/-- An order of kind 16 and one of kind 255, alone and with one in progress behind. -/
theorem witness_SimpleOrders_unknown : ∀ kind ∈ [16, 255],
    ∃ s before o after, State.OrderReady s before o after kind ∧ ∀ x ∈ after, x.inProgress = true := by
  intro kind h
  refine ⟨_, _, _, _, withOrder_ready kind 0 15 [] State.reset ?_ rfl, by simp⟩
  simp at h; omega

/-- R171, R173: an order of unknown kind is ILLEGAL and clears the cursor. -/
theorem test_unknownKind :
    let t := after .nop { withOrder (orderOf 16 0 0 []) State.reset with cursor := some ⟨true, .latency, .a, 0⟩ }
    lastStatus t = 1 ∧ t.cursor = none ∧ t.orders = [swapOrder] := by decide +kernel

theorem witness_ResetStreamResult :
    (∃ s before o after, State.OrderReady s before o after 11 ∧ o.index = (31 : Fin 32).val) ∧
    ∃ s before o after, State.OrderReady s before o after 11 ∧ 32 ≤ o.index :=
  ⟨⟨_, _, _, _, withOrder_ready 11 0 31 [] State.reset (by decide) rfl, rfl⟩,
    ⟨_, _, _, _, withOrder_ready 11 0 32 [] State.reset (by decide) rfl, by decide⟩⟩

theorem witness_ReadOrdersResult_entry :
    (∃ s before o after, State.OrderReady s before o after 1 ∧ tableCodes[o.table.toNat]? = some .triggerStatus ∧
      o.index + 1 = Table.triggerStatus.size) ∧
    (∃ s before o after, State.OrderReady s before o after 1 ∧ tableCodes[o.table.toNat]? = some .program ∧
      o.index < Table.program.size ∧ bankCodes[o.bank.toNat]? = some .a) ∧
    (∃ s before o after, State.OrderReady s before o after 1 ∧ tableCodes[o.table.toNat]? = none) ∧
    (∃ s before o after, State.OrderReady s before o after 1 ∧ tableCodes[o.table.toNat]? = some .histogram ∧
      Table.histogram.size ≤ o.index) :=
  ⟨⟨_, _, _, _, withOrder_ready 1 8 47 [] State.reset (by decide) rfl, by decide, by decide⟩,
    ⟨_, _, _, _, withOrder_ready 1 2 15 [] State.reset (by decide) rfl, by decide, by decide, by decide⟩,
    ⟨_, _, _, _, withOrder_ready 1 12 0 [] State.reset (by decide) rfl, by decide⟩,
    ⟨_, _, _, _, withOrder_ready 1 11 12000 [] State.reset (by decide) rfl, by decide, by decide⟩⟩

theorem witness_ReadOrdersResult_next :
    (∃ s before o after, State.OrderReady s before o after 2 ∧ s.cursor = some ⟨false, .triggerStatus, .a, 47⟩ ∧
      47 < Table.triggerStatus.size) ∧
    (∃ s before o after, State.OrderReady s before o after 2 ∧ s.cursor = some ⟨false, .triggerStatus, .a, 48⟩ ∧
      Table.triggerStatus.size ≤ 48) ∧
    (∃ s before o after, State.OrderReady s before o after 2 ∧ s.cursor = none) ∧
    (∃ s before o after c, State.OrderReady s before o after 2 ∧ s.cursor = some c ∧ c.write = true) :=
  ⟨⟨_, _, _, _, withOrder_ready 2 0 0 [] { State.reset with cursor := some ⟨false, .triggerStatus, .a, 47⟩ } (by decide) rfl,
      rfl, by decide⟩,
    ⟨_, _, _, _, withOrder_ready 2 0 0 [] { State.reset with cursor := some ⟨false, .triggerStatus, .a, 48⟩ } (by decide) rfl,
      rfl, by decide⟩,
    ⟨_, _, _, _, withOrder_ready 2 0 0 [] State.reset (by decide) rfl, rfl⟩,
    ⟨_, _, _, _, _, withOrder_ready 2 0 0 [] { State.reset with cursor := some ⟨true, .latency, .a, 0⟩ } (by decide) rfl,
      rfl, rfl⟩⟩

theorem witness_ReadOrdersResult_bytes :
    (orderOf 1 0 0 []).path.carrier = .raw ∧
    ({ orderOf 1 0 0 [] with path := { (orderOf 1 0 0 []).path with carrier := .udp } } : Order).path.carrier = .udp := ⟨rfl, rfl⟩

/-- Table 2-5: A_s is 272 at 48 kHz and 297 at 44.1 kHz, in the last two bytes of the entry (Table 11-6). -/
theorem test_streamLatency :
    (streamBytes { StreamEntry.powerOn with valid := true }).drop 16 = natToBytes 2 272 ∧
    (streamBytes { StreamEntry.powerOn with valid := true, rate := .r44 }).drop 16 = natToBytes 2 297 ∧
    (streamBytes .powerOn).drop 16 = natToBytes 2 0 := by decide +kernel

theorem witness_SettingsWritten :
    (∃ s before o after c, State.OrderReady s before o after 3 ∧ o.table = 0 ∧ o.index = 0 ∧ 41 ≤ o.contents.length ∧
      readSettings o.contents = some c) ∧
    (∃ s before o after, State.OrderReady s before o after 3 ∧ o.table = 0 ∧ o.index = 0 ∧ o.contents.length < 41) ∧
    (∃ s before o after, State.OrderReady s before o after 3 ∧ o.table = 0 ∧ o.index = 0 ∧
      41 ≤ o.contents.length ∧ fieldAt o.contents 0 1 = 255) ∧
    (∃ s before o after, State.OrderReady s before o after 3 ∧ o.table = 0 ∧ o.index = 0 ∧
      41 ≤ o.contents.length ∧ 60 < fieldAt o.contents 15 1) ∧
    ∃ s before o after, State.OrderReady s before o after 5 ∧ o.table = 0 ∧ o.index = 0 :=
  ⟨⟨_, _, _, _, State.reset.settings, withOrder_ready 3 0 0 (settingsBytes State.reset) State.reset (by decide) rfl, rfl,
      rfl, by decide +kernel, by decide +kernel⟩,
    ⟨_, _, _, _, withOrder_ready 3 0 0 (List.replicate 40 0) State.reset (by decide) rfl, rfl, rfl, by decide⟩,
    ⟨_, _, _, _, withOrder_ready 3 0 0 (List.replicate 41 255) State.reset (by decide) rfl, rfl, rfl, by decide, by decide⟩,
    ⟨_, _, _, _, withOrder_ready 3 0 0 (List.replicate 41 61) State.reset (by decide) rfl, rfl, rfl, by decide, by decide⟩,
    ⟨_, _, _, _, withOrder_ready 5 0 0 [] State.reset (by decide) rfl, rfl, rfl⟩⟩

/-! The three orders that write: `withOrder` with contents that a reply would carry, and the power-on contents. -/

theorem writes_entry (code index : Nat) (contents : List Byte) (table : Table) (n : NewEntry) (s : State)
    (h : s.resetPhase = .none) (names : (orderOf 3 code index contents).Names table .a index)
    (len : table.writeLength ≤ contents.length) (read : Machine.readEntry table contents = some n) :
    (withOrder (orderOf 3 code index contents) s).Writes [swapOrder] (orderOf 3 code index contents) [] table .a index n
      .writeEntry (some ⟨true, table, .a, index + 1⟩) :=
  .entry (withOrder_ready 3 code index contents s (by decide) h) names len read

theorem writes_next (index : Nat) (contents : List Byte) (table : Table) (n : NewEntry) (s : State)
    (h : s.resetPhase = .none) (lt : index < table.size) (len : table.writeLength ≤ contents.length)
    (read : Machine.readEntry table contents = some n) :
    (withOrder (orderOf 4 0 0 contents) { s with cursor := some ⟨true, table, .a, index⟩ }).Writes [swapOrder]
      (orderOf 4 0 0 contents) [] table .a index n .writeNext (some ⟨true, table, .a, index + 1⟩) :=
  .next (withOrder_ready 4 0 0 contents _ (by decide) h) rfl lt len read

theorem writes_clear (code index : Nat) (table : Table) (n : NewEntry) (s : State) (h : s.resetPhase = .none)
    (names : (orderOf 5 code index []).Names table .a index)
    (cleared : (withOrder (orderOf 5 code index []) s).clearedEntry table index = some n) :
    (withOrder (orderOf 5 code index []) s).Writes [swapOrder] (orderOf 5 code index []) [] table .a index n
      .clearEntry none :=
  .clear (withOrder_ready 5 code index [] s (by decide) h) names cleared

theorem witness_SettingsWritten_egress :
    (∃ s before o after c cursor, State.Writes s before o after .egress .a (15 : Fin 16).val (.egress (.powerOn 15)) c cursor ∧
      s.programs[(15 : Fin 16)].state.processing = true) ∧
    ∃ s before o after c cursor, State.Writes s before o after .egress .a (15 : Fin 16).val (.egress (.powerOn 15)) c cursor ∧
      s.programs[(15 : Fin 16)].state.processing = false :=
  ⟨⟨_, _, _, _, _, _, writes_entry 3 15 (egressBytes (.powerOn 15)) .egress _ (withG running) rfl
      (by unfold Order.Names; decide) (by decide +kernel) (by decide +kernel), by decide +kernel⟩,
    ⟨_, _, _, _, _, _, writes_clear 3 15 .egress _ State.reset rfl (by unfold Order.Names; decide) (by decide +kernel),
      by decide +kernel⟩⟩

theorem witness_SettingsWritten_latency :
    (∃ s before o after w c cursor, State.Writes s before o after .latency .a (63 : Fin 64).val (.latency w) c cursor ∧
      w.valid = true ∧ ∃ j : Fin 64, j ≠ 63 ∧ s.latencies[j].valid = true ∧ s.latencies[j].reporter = w.reporter) ∧
    ∃ s before o after w c cursor, State.Writes s before o after .latency .a (63 : Fin 64).val (.latency w) c cursor ∧
      ¬ (w.valid = true ∧ ∃ j : Fin 64, j ≠ 63 ∧ s.latencies[j].valid = true ∧ s.latencies[j].reporter = w.reporter) :=
  ⟨⟨_, _, _, _, ⟨true, 7000, none, false, false⟩, _, _, writes_entry 4 63 (latencyBytesOf 7000) .latency _ entry5 rfl
      (by unfold Order.Names; decide) (by decide +kernel) (by decide +kernel), rfl, 5, by decide +kernel⟩,
    ⟨_, _, _, _, ⟨true, 9001, none, false, false⟩, _, _, writes_next 63 (latencyBytesOf 9001) .latency _ entry5 rfl
      (by decide) (by decide +kernel) (by decide +kernel), by decide +kernel⟩⟩

/-- Trigger 47 depends on trigger 10, which is ACTIVE. -/
def depending : State :=
  let s := State.reset.modifyTrigger 10 fun _ => ⟨trigger10, { TriggerStatus.reset with state := .active }⟩
  s.modifyTrigger 47 fun _ => ⟨trigger11, { TriggerStatus.reset with windowRemaining := 2 }⟩

/-- A level-2 trigger whose arming trigger is level 2, and a response to no program, are refused; a level-2 trigger on a
level-1 one, and the clearing of an ACTIVE trigger with a dependent, are not. -/
theorem witness_SettingsWritten_trigger :
    (∃ s before o after e c cursor, State.Writes s before o after .trigger .a (10 : Fin 48).val (.trigger e) c cursor ∧
      e.level2 = true ∧ ∀ a : Fin 48, e.arming = some a → a = 10 ∨ s.triggers[a].entry.level2 = true) ∧
    (∃ s before o after e c cursor, State.Writes s before o after .trigger .a (47 : Fin 48).val (.trigger e) c cursor ∧
      e.target = none ∧ e.responses.mute = true) ∧
    (∃ s before o after e c cursor, State.Writes s before o after .trigger .a (47 : Fin 48).val (.trigger e) c cursor ∧
      e.level2 = true ∧ e.arming = some 10 ∧ s.triggers[(10 : Fin 48)].entry.level2 = false ∧ e.target ≠ none) ∧
    ∃ s before o after e c cursor, State.Writes s before o after .trigger .a (10 : Fin 48).val (.trigger e) c cursor ∧
      e.level2 = false ∧ e.responses = ⟨false, false, false, false, false⟩ ∧
      s.triggers[(10 : Fin 48)].status.state = .active ∧ s.triggers[(10 : Fin 48)].entry.responses.notice = true ∧
      s.triggers[(47 : Fin 48)].entry.arming = some 10 :=
  ⟨⟨_, _, _, _, { trigger11 with arming := some 47 }, _, _, writes_next 10 (triggerBytes { trigger11 with arming := some 47 })
      .trigger _ depending rfl (by decide) (by decide +kernel) (by decide +kernel), by decide +kernel⟩,
    ⟨_, _, _, _, { trigger10 with responses := ⟨false, true, false, false, false⟩ }, _, _, writes_entry 5 47
      (triggerBytes { trigger10 with responses := ⟨false, true, false, false, false⟩ }) .trigger _ depending rfl
      (by unfold Order.Names; decide) (by decide +kernel) (by decide +kernel), by decide +kernel⟩,
    ⟨_, _, _, _, trigger11, _, _, writes_entry 5 47 (triggerBytes trigger11) .trigger _ depending rfl
      (by unfold Order.Names; decide) (by decide +kernel) (by decide +kernel), by decide +kernel⟩,
    ⟨_, _, _, _, .powerOn, _, _, writes_clear 5 10 .trigger _ depending rfl (by unfold Order.Names; decide)
      (by decide +kernel), by decide +kernel⟩⟩

/-- A lane in the last slot fits, beside a valid stream on slot 0; a second lane reaches beyond it. -/
theorem witness_StreamWritten :
    (∃ s before o after e c cursor, State.Writes s before o after .stream .a (30 : Fin 32).val (.stream e) c cursor ∧
      e.valid = true ∧ e.first + e.lanes = 128 ∧ ∀ j : Fin 32, j ≠ 30 → s.streams[j].entry.valid = true →
        s.streams[j].entry.key ≠ e.key ∧ 1 ≤ s.streams[j].entry.lanes ∧
        ∀ k, e.covers k = true → s.streams[j].entry.covers k = false) ∧
    ∃ s before o after e c cursor, State.Writes s before o after .stream .a (30 : Fin 32).val (.stream e) c cursor ∧
      128 < e.first + e.lanes := by
  refine ⟨⟨_, _, _, _, { mono with first := 127, key := 6 }, _, _, writes_next 30
      (streamBytes { mono with first := 127, key := 6 }) .stream _ (withStream mono .reset) rfl (by decide)
      (by decide +kernel) (by decide +kernel), rfl, rfl, ?_⟩,
    ⟨_, _, _, _, { mono with first := 127, lanes := 2 }, _, _, writes_entry 1 30
      (streamBytes { mono with first := 127, lanes := 2 }) .stream _ State.reset rfl (by unfold Order.Names; decide)
      (by decide +kernel) (by decide +kernel), by decide⟩⟩
  intro j _ v
  have h : ∀ j : Fin 32, (withStream mono .reset).streams[j].entry.valid = true →
      (withStream mono .reset).streams[j].entry = mono := by decide +kernel
  have h := h j v
  refine ⟨?_, ?_, fun k c => ?_⟩
  · show (withStream mono .reset).streams[j].entry.key ≠ 6; rw [h]; decide
  · show 1 ≤ (withStream mono .reset).streams[j].entry.lanes; rw [h]; decide
  · show (withStream mono .reset).streams[j].entry.covers k = false
    rw [h]
    simp [StreamEntry.covers, mono, StreamEntry.powerOn] at c ⊢
    omega

theorem witness_StreamWritten_conflict :
    (∃ s before o after e c cursor, State.Writes s before o after .stream .a (30 : Fin 32).val (.stream e) c cursor ∧
      e.valid = true ∧ s.streams[(31 : Fin 32)].entry.valid = true ∧ s.streams[(31 : Fin 32)].entry.key = e.key) ∧
    (∃ s before o after e c cursor, State.Writes s before o after .stream .a (30 : Fin 32).val (.stream e) c cursor ∧
      e.valid = true ∧ s.streams[(31 : Fin 32)].entry.valid = true ∧
      ∃ k, e.covers k = true ∧ s.streams[(31 : Fin 32)].entry.covers k = true) ∧
    ∃ s before o after e c cursor, State.Writes s before o after .stream .a (31 : Fin 32).val (.stream e) c cursor ∧
      e.valid = false ∧ s.streams[(31 : Fin 32)].entry.valid = true :=
  ⟨⟨_, _, _, _, { mono with first := 9 }, _, _, writes_entry 1 30 (streamBytes { mono with first := 9 }) .stream _
      (withStream mono .reset) rfl (by unfold Order.Names; decide) (by decide +kernel) (by decide +kernel),
      by decide +kernel⟩,
    ⟨_, _, _, _, { mono with key := 6 }, _, _, writes_next 30 (streamBytes { mono with key := 6 }) .stream _
      (withStream mono .reset) rfl (by decide) (by decide +kernel) (by decide +kernel), rfl, by decide +kernel, 0,
      by decide +kernel⟩,
    ⟨_, _, _, _, .powerOn, _, _, writes_clear 1 31 .stream _ (withStream mono .reset) rfl (by unfold Order.Names; decide)
      (by decide +kernel), by decide +kernel⟩⟩

/-- Eight members with a fallback list and every number at an end of its range. -/
def wide : ProgramEntry :=
  { stereo with
    members := List.replicate 8 ⟨127, .lfe⟩, fallback := some (List.replicate 8 126), mode := .track, target := -3600
    maxBoost := 1200, maxCut := 2400, preset := -2400, slew := 100, freezeThreshold := -7000, window := 120
    quietThreshold := -1000, chain := [63, 0, 62, 1], offset := -100000, trim := -4800, tolerance := 4800
    moveMode := .quiet, quietWait := 600 }

theorem test_programBytes : (programBytes wide).length = 72 ∧ readProgram (programBytes wide) = some wide := by
  decide +kernel

theorem witness_StreamWritten_program :
    (∃ s before o after c cursor, State.Writes s before o after .program .a (15 : Fin 16).val (.program wide) c cursor ∧
      Bank.a ≠ s.activeBank) ∧
    (∃ s before o after c cursor, State.Writes s before o after .program .a (15 : Fin 16).val (.program wide) c cursor ∧
      .a = s.activeBank ∧ s.programs[(15 : Fin 16)].state.processing = true) ∧
    (∃ s before o after c cursor, State.Writes s before o after .program .a (15 : Fin 16).val (.program wide) c cursor ∧
      .a = s.activeBank ∧ s.programs[(15 : Fin 16)].state = .stopped ∧ s.programs[(15 : Fin 16)].delay.rings.length = 2) ∧
    ∃ s before o after c cursor, State.Writes s before o after .program .a (15 : Fin 16).val (.program .powerOn) c cursor ∧
      .a = s.activeBank ∧ s.programs[(15 : Fin 16)].state = .stopped :=
  ⟨⟨_, _, _, _, _, _, writes_entry 2 15 (programBytes wide) .program _ { State.reset with activeBank := .b } rfl
      (by unfold Order.Names; decide) (by decide +kernel) (by decide +kernel), by decide⟩,
    ⟨_, _, _, _, _, _, writes_entry 2 15 (programBytes wide) .program _ (startable .running) rfl
      (by unfold Order.Names; decide) (by decide +kernel) (by decide +kernel), by decide +kernel⟩,
    ⟨_, _, _, _, _, _, writes_next 15 (programBytes wide) .program _ (startable .stopped) rfl (by decide)
      (by decide +kernel) (by decide +kernel), by decide +kernel⟩,
    ⟨_, _, _, _, _, _, writes_clear 2 15 .program _ (startable .stopped) rfl (by unfold Order.Names; decide)
      (by decide +kernel), by decide +kernel⟩⟩

/-- R46, R107: the write of an entry of eight members over two rings gives the blocks back, and G follows the entry. -/
theorem test_writeEntry_program :
    let t := after .writeEntry (withOrder (orderOf 3 2 15 (programBytes { wide with fallback := none }))
      { startable .stopped with freeList := [9] })
    lastStatus t = 0 ∧ t.freeList = [9, 0, 1] ∧ t.programs[15].delay.rings = [] ∧ t.programs[15].state = .stopped ∧
    t.programs[15].lip.actual = 0 := by decide +kernel

theorem witness_RefusedWriteChangesNothing :
    ∀ kind ∈ [3, 4, 5], ∃ s before o after, State.OrderReady s before o after kind := by
  intro kind h
  refine ⟨_, _, _, _, withOrder_ready kind 12 0 [] State.reset ?_ rfl⟩
  simp at h; omega

theorem witness_MalformedWritesRefused :
    (∀ code ∈ [6, 12], ∀ kind ∈ [3, 5], ∃ s before o after, State.OrderReady s before o after kind ∧ o.table.toNat = code) ∧
    (∃ s before o after, State.OrderReady s before o after 3 ∧ tableCodes[o.table.toNat]? = some .stream ∧
      o.table.toNat < 6 ∧ Table.stream.size ≤ o.index) ∧
    (∃ s before o after, State.OrderReady s before o after 3 ∧ tableCodes[o.table.toNat]? = some .program ∧
      1 < o.bank.toNat) ∧
    (∃ s before o after, State.OrderReady s before o after 3 ∧ o.Names .stream .a 31 ∧ o.contents.length < 18) ∧
    (∃ s before o after, State.OrderReady s before o after 4 ∧ s.cursor = some ⟨true, .trigger, .a, 47⟩ ∧
      47 < Table.trigger.size ∧ o.contents.length < 18) ∧
    (∃ s before o after, State.OrderReady s before o after 4 ∧ s.cursor = some ⟨true, .trigger, .a, 48⟩ ∧
      Table.trigger.size ≤ 48) ∧
    (∃ s before o after, State.OrderReady s before o after 4 ∧ s.cursor = none) ∧
    ∃ s before o after x, State.OrderReady s before o after 4 ∧ s.cursor = some x ∧ x.write = false := by
  refine ⟨fun code hc kind hk => ⟨_, _, _, _, withOrder_ready kind code 0 [] State.reset ?_ rfl, ?_⟩,
    ⟨_, _, _, _, withOrder_ready 3 1 32 [] State.reset (by decide) rfl, by decide, by decide, by decide⟩,
    ⟨{ State.reset with orders := [{ orderOf 3 2 0 [] with bank := 2 }] }, [], _, [], ⟨rfl, by simp, rfl, by decide,
      by decide, rfl⟩, by decide, by decide⟩,
    ⟨_, _, _, _, withOrder_ready 3 1 31 [] State.reset (by decide) rfl, by unfold Order.Names; decide, by decide⟩,
    ⟨_, _, _, _, withOrder_ready 4 0 0 [] { State.reset with cursor := some ⟨true, .trigger, .a, 47⟩ } (by decide) rfl, rfl,
      by decide, by decide⟩,
    ⟨_, _, _, _, withOrder_ready 4 0 0 [] { State.reset with cursor := some ⟨true, .trigger, .a, 48⟩ } (by decide) rfl, rfl,
      by decide⟩,
    ⟨_, _, _, _, withOrder_ready 4 0 0 [] State.reset (by decide) rfl, rfl⟩,
    ⟨_, _, _, _, _, withOrder_ready 4 0 0 [] { State.reset with cursor := some ⟨false, .trigger, .a, 0⟩ } (by decide) rfl, rfl,
      rfl⟩⟩
  · simp at hk; omega
  · simp at hc; rcases hc with rfl | rfl <;> rfl

/-- Contents of 255 throughout lie outside the range of a field of every table that is written. -/
theorem witness_MalformedWritesRefused_range : ∀ table ∈ [Table.settings, .stream, .program, .egress, .latency, .trigger],
    tableCodes.idxOf table < 6 ∧ OutOfRange table (List.replicate 72 255) := by
  intro table h
  simp only [List.mem_cons, List.not_mem_nil, or_false] at h
  rcases h with rfl | rfl | rfl | rfl | rfl | rfl <;> exact ⟨by decide, .inl (by decide)⟩

theorem witness_ResetsAct :
    (∃ s before o after, State.OrderReady s before o after 15 ∧ s.swapPending = true) ∧
    ({ State.reset with resetPhase := .awaiting } : State).resetPhase ≠ .none ∧
    ({ State.reset with resetPhase := .due } : State).resetPhase = .due ∧ State.reset.resetPhase ≠ .due :=
  ⟨⟨_, _, _, _, withOrder_ready 15 0 0 [] { State.reset with swapPending := true } (by decide) rfl, rfl⟩, by decide⟩

theorem mono_inRange : mono.InRange := by
  constructor <;> decide

theorem wide_inRange : wide.InRange := by
  have f : ∀ l, wide.fallback = some l → l.length = wide.members.length := by rintro l ⟨⟩; decide
  constructor
  · constructor <;> decide
  · decide
  · exact f
  all_goals decide

theorem witness_ConfigurationEntriesRoundTrip :
    State.reset.settings.unit ≠ 255 ∧ 1 ≤ State.reset.settings.staleTimeout ∧ State.reset.settings.staleTimeout ≤ 60 ∧
    (EgressEntry.powerOn 15).packetSize ∈ [6, 12, 24, 48] ∧
    (∀ v, (some 1000000 : Option Nat) = some v → v ≤ 1000000) ∧
    trigger11.armWindow ≤ 600 ∧ trigger11.object < trigger11.condition.objects ∧ 1 ≤ trigger11.fireCount ∧
    trigger11.fireCount ≤ 600 ∧ 1 ≤ trigger11.clearCount ∧ trigger11.clearCount ≤ 600 ∧
    -2147483648 ≤ trigger11.parameter ∧ trigger11.parameter ≤ 2147483647 ∧
    (trigger11.level2 = false → trigger11.arming = none ∧ trigger11.armWindow = 0) :=
  ⟨by decide, by decide, by decide, by decide, by rintro v ⟨⟩; decide, by decide⟩

/-- R136: contents of level 1 and of level 2 that both carry arming trigger 10 and arm window 2. -/
theorem witness_TriggerLevelRead :
    let one := (triggerBytes trigger11).set 1 1
    (∃ e, readTrigger one = some e ∧ fieldAt one 1 1 = 1 ∧ fieldAt one 2 1 = 10 ∧ fieldAt one 3 2 = 2 ∧
      e.level2 = false ∧ e.arming = none ∧ e.armWindow = 0) ∧
    ∃ e, readTrigger (triggerBytes trigger11) = some e ∧ fieldAt (triggerBytes trigger11) 1 1 = 2 ∧ e.arming = some 10 :=
  ⟨⟨{ trigger11 with level2 := false, arming := none, armWindow := 0 }, by decide +kernel⟩, trigger11, by decide +kernel⟩

/-! For the laws that every step keeps: a part in service with a command waiting. -/

/-- Program 15 runs on two blocks, trigger 47 holds a mute vote on it, and a NOP waits. -/
def inService : State :=
  let g : Program := { running with
    delay := ⟨1, [[2046], [2047]], 7, 1023⟩, lip := { LipSync.reset with actual := 8, target := 1023 }
    votes := ⟨1, 0, 0, 0⟩, corr := { Correction.reset with gain := -1200 } }
  { withEntry stereo (withG g) with
    freeList := List.range 2046
    memory := Memory.empty.write (2047 * 1024) 5
    triggers := State.reset.triggers.set 47
      ⟨{ trigger10 with responses := ⟨true, true, false, false, false⟩, target := some 15 },
        { TriggerStatus.reset with state := .clearing }⟩
    pending := [.nop] }

theorem inService_steps : ∃ t, step inService = .next t := ⟨_, rfl⟩

theorem witness_StepKeepsQueuesBounded : inService.QueuesBounded := by
  constructor <;> decide +kernel

theorem witness_StepKeepsPoolPartitioned : inService.PoolPartitioned := by
  have h : inService.blocksHeld = List.range 2046 ++ [2046, 2047] := by decide +kernel
  unfold State.PoolPartitioned
  rw [h, show ([2046, 2047] : List Nat) = [2046] ++ [2047] from rfl, ← List.append_assoc, ← List.range_succ,
    ← List.range_succ]

/-- A free and a held block of a partitioned pool. -/
theorem witness_ReadOrdersResult_pool : inService.PoolPartitioned ∧ inService.freeList[2045]? = some 2045 ∧
    inService.programs[(15 : Fin 16)].delay.rings[1]? = some [2047] ∧ ([2047] : List Nat)[0]? = some 2047 :=
  ⟨witness_StepKeepsPoolPartitioned, by decide +kernel⟩

theorem witness_StepKeepsMemoryCanonical : inService.memory.wf = true := by decide +kernel

theorem witness_StepKeepsStreamsBounded : inService.StreamsBounded := by
  intro i
  have h : inService.streams[i] = Stream.reset := by simp [inService, withEntry, withG, State.putProgram,
    State.setBankEntry, State.reset]
  rw [h]
  constructor <;> constructor <;> decide

theorem witness_StepKeepsNamesUnique : inService.NamesUnique := by
  have h : ∀ i : Fin 32, inService.streams[i].entry.valid = false := by decide +kernel
  have k : ∀ i : Fin 64, inService.latencies[i].valid = false := by decide +kernel
  constructor
  · intro i _ _ v; rw [h i] at v; cases v
  · intro _ j _ _ _; unfold StreamEntry.covers; rw [h j]; rfl
  · intro i _ _ v; rw [k i] at v; cases v

theorem witness_StepKeepsVotesCounted : inService.VotesCounted := by
  constructor <;> decide +kernel

theorem witness_StepKeepsFollowsEntries : inService.FollowsEntries := by
  constructor <;> decide +kernel

theorem witness_StepKeepsGainsLimited : inService.GainsLimited := by
  constructor
  · have h : ∀ (p : Fin 16), (0 ≤ inService.bankA[p].maxBoost ∧ 0 ≤ inService.bankA[p].maxCut ∧
      -inService.bankA[p].maxCut ≤ inService.bankA[p].preset ∧ inService.bankA[p].preset ≤ inService.bankA[p].maxBoost) ∧
      0 ≤ inService.bankB[p].maxBoost ∧ 0 ≤ inService.bankB[p].maxCut ∧
      -inService.bankB[p].maxCut ≤ inService.bankB[p].preset ∧
      inService.bankB[p].preset ≤ inService.bankB[p].maxBoost := by decide +kernel
    intro which p
    cases which
    · exact ⟨(h p).1.1, (h p).1.2.1, (h p).1.2.2⟩
    · exact ⟨(h p).2.1, (h p).2.2.1, (h p).2.2.2⟩
  · decide +kernel
  · decide +kernel

theorem witness_StepKeepsDelaysHeld : inService.DelaysHeld := by
  constructor <;> decide +kernel

end Sys2Proof.Tests
end

section
/-! What every step keeps, shown once: a predicate that each of the acts a step is made of keeps is kept by every step.
The acts that the Management Unit starts leave the order queue and the reply queue alone, so the reply place that was
free when the order was taken is still free when its reply is placed (R163, R169). -/

namespace Sys2Proof.Machine

/-! ### The queues that an act of the blocks leaves alone -/

/-- `t` holds the orders, replies, pass-through frames, latency reports and media frames of `s`. -/
structure State.SameQueues (s t : State) : Prop where
  orders : t.orders = s.orders
  replies : t.replyQueue = s.replyQueue
  passThrough : t.passQueue = s.passQueue
  reports : t.reportQueue = s.reportQueue
  media : ∀ p : Fin 16, t.programs[p].egress.queue = s.programs[p].egress.queue

theorem State.SameQueues.refl (s : State) : s.SameQueues s := ⟨rfl, rfl, rfl, rfl, fun _ => rfl⟩

theorem State.SameQueues.trans {s t u : State} (h : s.SameQueues t) (k : t.SameQueues u) : s.SameQueues u :=
  ⟨k.orders.trans h.orders, k.replies.trans h.replies, k.passThrough.trans h.passThrough, k.reports.trans h.reports,
    fun p => (k.media p).trans (h.media p)⟩

theorem State.sameQueues_forEach (n : Nat) (f : Fin n → State → State) (s : State) 
    (h : ∀ (i : Fin n) (t : State), t.SameQueues (f i t)) :
    s.SameQueues (forEach n f s) :=
  forEach_induct (P := s.SameQueues) n f s (.refl s) fun i t k => k.trans (h i t)

/-- Replacing one program by one with the same media frames leaves the queues alone. -/
theorem State.sameQueues_putProgram (s : State) (p : Fin 16) (g : Program)
    (h : g.egress.queue = s.programs[p].egress.queue) : s.SameQueues (s.putProgram p g) := by
  refine ⟨rfl, rfl, rfl, rfl, fun q => ?_⟩
  rw [State.putProgram_get]
  split
  · next e => rw [e, h]
  · rfl

theorem State.sameQueues_modifyProgram (s : State) (p : Fin 16) (f : Program → Program)
    (h : ∀ g, (f g).egress.queue = g.egress.queue) : s.SameQueues (s.modifyProgram p f) :=
  s.sameQueues_putProgram p _ (h _)

theorem State.sameQueues_recompute (p : Fin 16) (s : State) : s.SameQueues (s.recompute p) := by
  obtain ⟨g, c, e, m⟩ := s.recompute_spec p
  obtain ⟨-, -, -, -, -, -, egress, -⟩ := m.keeps
  rw [e]
  exact s.sameQueues_putProgram p g (congrArg ProgramEgress.queue egress)

theorem State.sameQueues_syncFallback (p : Fin 16) (s : State) : s.SameQueues (s.syncFallback p) := by
  unfold State.syncFallback
  dsimp only
  split
  · exact .refl s
  · refine .trans ?_ (State.sameQueues_recompute p _)
    exact s.sameQueues_modifyProgram p _ fun _ => rfl

theorem State.sameQueues_releaseBlocks (p : Fin 16) (s : State) : s.SameQueues (s.releaseBlocks p) := by
  refine .trans (t := s.putProgram p { s.programs[p] with delay := .none }) ?_ ⟨rfl, rfl, rfl, rfl, fun _ => rfl⟩
  exact s.sameQueues_putProgram p _ rfl

theorem State.sameQueues_recomputeNaming (i : Fin 64) (s : State) : s.SameQueues (s.recomputeNaming i) := by
  refine State.sameQueues_forEach 16 _ s fun p t => ?_
  split
  · exact State.sameQueues_recompute p t
  · exact .refl t

theorem State.sameQueues_storeStream (i : Fin 32) (e : StreamEntry) (s : State) : s.SameQueues (s.storeStream i e) :=
  .trans (t := s.modifyStream i fun t => ⟨e, t.ctx.restart e.valid⟩) ⟨rfl, rfl, rfl, rfl, fun _ => rfl⟩
    (State.sameQueues_forEach 16 State.recompute _ State.sameQueues_recompute)

theorem Program.loudnessFields_egress (e : ProgramEntry) (g : Program) : (g.loudnessFields e).egress = g.egress := by
  unfold Program.loudnessFields
  split
  · rfl
  · dsimp only
    split
    · simp only [Program.withCorr_egress]
      rw [Program.appendGain_eq]
      rfl
    · rfl

theorem Program.outcome_queue (old new : ProgramEntry) (g : Program) :
    (g.outcome old new).egress.queue = g.egress.queue := by
  unfold Program.outcome Program.halt
  split
  · split
    · rfl
    · split <;> rfl
  · split <;> rfl

theorem State.sameQueues_bringIn (old : ProgramEntry) (p : Fin 16) (s : State) : s.SameQueues (s.bringIn old p) := by
  unfold State.bringIn
  dsimp only
  refine .trans ?_ (State.sameQueues_recompute p _)
  refine .trans ?_ (State.sameQueues_modifyProgram _ p _ fun g =>
    congrArg ProgramEgress.queue (g.loudnessFields_egress _))
  refine .trans ?_ (State.sameQueues_modifyProgram _ p _ fun _ => rfl)
  have outcome := s.sameQueues_modifyProgram p (·.outcome old (s.activeEntry p)) fun g => g.outcome_queue _ _
  split
  · exact outcome.trans (State.sameQueues_releaseBlocks p _)
  · exact outcome

theorem State.sameQueues_applyVotes (s : State) : s.SameQueues s.applyVotes :=
  State.sameQueues_forEach 16 _ s fun p t =>
    .trans (t.sameQueues_modifyProgram p (fun g => { g with votes := s.votesOf p }) fun _ => rfl)
      (State.sameQueues_syncFallback p _)

theorem State.sameQueues_offerNotice (n : Notice) (s : State) : s.SameQueues (s.offerNotice n) := by
  rw [State.offerNotice_rest]
  exact ⟨rfl, rfl, rfl, rfl, fun _ => rfl⟩

theorem State.sameQueues_writeTrigger (i : Fin 48) (e : TriggerEntry) (s : State) :
    s.SameQueues (s.writeTrigger i e) := by
  unfold State.writeTrigger
  dsimp only
  refine .trans ?_ (State.sameQueues_applyVotes _)
  refine .trans (t := if _ then _ else s) ?_ ⟨rfl, rfl, rfl, rfl, fun _ => rfl⟩
  split
  · exact State.sameQueues_offerNotice _ s
  · exact .refl s

theorem State.sameQueues_writeLatency (i : Fin 64) (w : LatencyWrite) (s : State) :
    s.SameQueues (s.writeLatency i w) := by
  unfold State.writeLatency
  dsimp only
  have stored : s.SameQueues (s.modifyLatency i (·.written w)) := ⟨rfl, rfl, rfl, rfl, fun _ => rfl⟩
  split
  · exact stored
  · exact stored.trans (State.sameQueues_recomputeNaming i _)

/-- A write of a table entry leaves the queues alone, whether the block takes it or refuses it. -/
theorem State.sameQueues_writeEntry (which : Bank) (i : Nat) (n : NewEntry) (s : State) :
    s.SameQueues (s.writeEntry which i n).2 := by
  cases n with
  | settings c => exact ⟨rfl, rfl, rfl, rfl, fun _ => rfl⟩
  | stream e =>
    simp only [State.writeEntry, State.writeStream]
    split
    · exact .refl s
    · exact State.sameQueues_storeStream _ e s
  | program e =>
    have stored (p : Fin 16) : s.SameQueues (s.setBankEntry which p e) := by
      cases which <;> exact ⟨rfl, rfl, rfl, rfl, fun _ => rfl⟩
    simp only [State.writeEntry, State.writeProgram]
    split
    · split
      · exact .refl s
      · exact (stored _).trans (State.sameQueues_bringIn _ _ _)
    · exact stored _
  | egress e =>
    simp only [State.writeEntry, State.writeEgress]
    split
    · exact .refl s
    · refine .trans (t := { s with egressTable := s.egressTable.set (Fin.ofNat 16 i) e })
        ⟨rfl, rfl, rfl, rfl, fun _ => rfl⟩ (State.sameQueues_recompute _ _)
  | latency w =>
    simp only [State.writeEntry, State.tryLatency]
    split
    · exact .refl s
    · exact State.sameQueues_writeLatency _ w s
  | trigger e =>
    simp only [State.writeEntry, State.tryTrigger]
    split
    · exact .refl s
    · dsimp only
      exact State.sameQueues_writeTrigger _ e s

theorem State.sameQueues_freeCount (s : State) (n : Nat) : s.SameQueues { s with freeCount := n } :=
  ⟨rfl, rfl, rfl, rfl, fun _ => rfl⟩

theorem State.sameQueues_afterReading (table : Table) (i : Nat) (s : State) : s.SameQueues (s.afterReading table i) := by
  refine .trans ?_ (State.sameQueues_freeCount (s.readEffect table i) _)
  unfold State.readEffect
  cases table with
  | programStatus => exact s.sameQueues_modifyProgram _ _ fun _ => rfl
  | _ => exact ⟨rfl, rfl, rfl, rfl, fun _ => rfl⟩

theorem State.sameQueues_startProgram (p : Fin 16) (s : State) : s.SameQueues (s.startProgram p).2 := by
  unfold State.startProgram
  dsimp only
  split
  · split
    · exact .refl s
    · exact (State.sameQueues_syncFallback p s).trans (State.sameQueues_modifyProgram _ p _ fun _ => rfl)
  all_goals exact .refl s

theorem State.sameQueues_stopProgram (p : Fin 16) (s : State) : s.SameQueues (s.stopProgram p).2 := by
  have stopped : s.SameQueues (s.modifyProgram p fun g =>
      ((g.enter .stopping).withCorr fun c => { c with stop := 0 }).endMoveAtStop) := by
    refine s.sameQueues_modifyProgram p _ fun g => ?_
    obtain ⟨-, -, -, -, -, -, egress, -⟩ :=
      (Program.endMoveAtStop_moved ((g.enter .stopping).withCorr fun c => { c with stop := 0 })).keeps
    rw [egress]
    rfl
  unfold State.stopProgram
  split
  · exact stopped
  · exact stopped
  all_goals exact .refl s

theorem State.sameQueues_allocateDelay (p : Fin 16) (request : Nat) (s : State) :
    s.SameQueues (s.allocateDelay p request).2.2 := by
  unfold State.allocateDelay
  split
  · exact .refl s
  · split
    · exact .refl s
    · dsimp only
      split
      · exact .refl s
      · unfold State.allocate
        dsimp only
        refine .trans (State.sameQueues_releaseBlocks p s) (.trans ?_ (State.sameQueues_recompute p _))
        refine .trans (State.sameQueues_putProgram _ p _ ?_) ⟨rfl, rfl, rfl, rfl, fun _ => rfl⟩
        rfl

theorem State.sameQueues_releaseDelay (p : Fin 16) (s : State) : s.SameQueues (s.releaseDelay p).2 := by
  unfold State.releaseDelay
  split
  · exact .refl s
  · exact (State.sameQueues_releaseBlocks p s).trans (State.sameQueues_recompute p _)

end Sys2Proof.Machine
end

section
/-! The acts a step is made of, and the passage from them to every step. -/

namespace Sys2Proof.Machine

/-! ### The acts a step is made of -/

/-- What the bytes of an order or CLEAR ENTRY give a table to store (R175). -/
def NewEntry.FromOrder (n : NewEntry) : Prop :=
  (∃ table bs, Machine.readEntry table bs = some n) ∨ ∃ (s : State) (table : Table) (i : Nat), s.clearedEntry table i = some n

/-- A place of the reply queue is free for the order being handled (R163). -/
def State.ReplyRoom (s : State) : Prop := s.replyQueue.length + s.inProgress < 8

/-- `P` is kept by each of the acts that the commands are made of. -/
structure Kept (P : State → Prop) : Prop where
  pending : ∀ s l, P s → P { s with pending := l }
  house : ∀ s h, P s → P { s with house := h }
  evaluationDue : ∀ s b, P s → P { s with evaluationDue := b }
  ready : ∀ s b, P s → P { s with ready := b }
  receive : ∀ frame s, P s → P (s.receive frame)
  loopUpdate : ∀ i s, P s → P (s.loopUpdate i)
  gapTimeout : ∀ i s, P s → P (s.gapTimeout i)
  holdoverLimit : ∀ i s, P s → P (s.holdoverLimit i)
  expire : ∀ timeout i s, P s → P (s.modifyLatency i (·.expire timeout))
  meterUpdate : ∀ p s, P s → P (s.meterUpdate p)
  packetComplete : ∀ p s, P s → P (s.packetComplete p)
  fadeOutEnd : ∀ p s, P s → P (s.modifyProgram p (·.fadeOutEnd))
  fadeInEnd : ∀ now e p s, P s → P (s.modifyProgram p (·.fadeInEnd now e))
  quietWaitExpiry : ∀ now p s, P s → P (s.modifyProgram p (·.quietWaitExpiry now))
  evaluate : ∀ s, P s → P s.evaluate
  egressChoice : ∀ s, P s → P s.egressChoice
  frameEnd : ∀ s, P s → P s.frameEnd
  swapBanks : ∀ s, P s → P s.swapBanks
  convertAll : ∀ s, P s → P s.convertAll
  ageEntries : ∀ s, P s → P s.ageEntries
  syncFallback : ∀ p s, P s → P (s.syncFallback p)
  programSample : ∀ p s, P s → P (s.programSample p)
  withoutTaken : ∀ s, P s → P s.withoutTaken
  answer : ∀ s o table status data resets, P s → s.ReplyRoom → P (s.answer o s.orders table status data resets)
  deferOrder : ∀ s, P s → s.ReplyRoom → P s.deferOrder
  record : ∀ s cursor pending phase, P s → P { s with cursor := cursor, swapPending := pending, resetPhase := phase }
  afterReading : ∀ table i s, P s → P (s.afterReading table i)
  writeEntry : ∀ which i n s, n.FromOrder → P s → P (s.writeEntry which i n).2
  startProgram : ∀ p s, P s → P (s.startProgram p).2
  stopProgram : ∀ p s, P s → P (s.stopProgram p).2
  allocateDelay : ∀ p request s, P s → P (s.allocateDelay p request).2.2
  releaseDelay : ∀ p s, P s → P (s.releaseDelay p).2
  resetStream : ∀ (i : Fin 32) (s : State), P s → P (s.storeStream i s.streams[i].entry)
  resetIntegration : ∀ p s, P s → P (s.modifyProgram p fun g => g.withMeter (·.resetIntegration))
  acknowledge : ∀ which s, P s → P (s.acknowledge which)
  sendLatency : ∀ p s, P s → P (s.modifyProgram p fun g => g.withLip fun l => { l with sendFlag := true })
  reset : ∀ settings straps s, P s → P (s.resetKeeping settings straps)

/-! ### The reply place of the order being handled -/

theorem State.SameQueues.room {s t : State} (h : s.SameQueues t) (room : s.ReplyRoom) : t.ReplyRoom := by
  unfold State.ReplyRoom State.inProgress at *
  rw [h.orders, h.replies]
  exact room

theorem State.takeable_room {s : State} {o : Order} (h : s.takeable = some o) : s.ReplyRoom := by
  unfold State.takeable at h
  split at h
  · next c =>
    unfold State.ReplyRoom
    exact of_decide_eq_true c.2
  · cases h

theorem filter_withoutWaiting (l : List Order) :
    (withoutWaiting l).filter (·.inProgress) = l.filter (·.inProgress) := by
  induction l with
  | nil => rfl
  | cons o l ih =>
    unfold withoutWaiting at ih ⊢
    cases h : o.inProgress <;> simp [h, ih]

theorem State.withoutTaken_room {s : State} (room : s.ReplyRoom) : s.withoutTaken.ReplyRoom := by
  unfold State.ReplyRoom State.inProgress at *
  rw [State.withoutTaken, filter_withoutWaiting]
  exact room

/-! ### From the acts to a step -/

/-- An order that names a program: the index is refused, or the program's act runs. -/
theorem onProgram_keeps {P : State → Prop} (act : Fin 16 → State → Status × List Byte × State) (o : Order)
    (H : ∀ (p : Fin 16) (t : State), P t → P (act p t).2.2 ∧ t.SameQueues (act p t).2.2) (s : State) (h : P s) :
    P (Machine.onProgram act o s).2.2 ∧ s.SameQueues (Machine.onProgram act o s).2.2 := by
  unfold Machine.onProgram
  split
  · exact H _ s h
  · exact ⟨h, .refl s⟩

namespace Kept

variable {P : State → Prop} (k : Kept P)

include k

theorem cursor (s : State) (c : Option Cursor) (h : P s) : P { s with cursor := c } :=
  k.record s c s.swapPending s.resetPhase h

theorem reply (s : State) (o : Order) (table : Byte) (status : Status) (data : List Byte) (c : Option Cursor) (h : P s)
    (room : s.ReplyRoom) : P (s.reply o table status data c) :=
  k.answer { s with cursor := c } o table status data false (k.cursor s c h) room

/-- An order is taken out and refused, or answered without any further effect. -/
theorem taken (s : State) (o : Order) (table : Byte) (status : Status) (data : List Byte) (c : Option Cursor) (h : P s)
    (room : s.ReplyRoom) : P (s.withoutTaken.reply o table status data c) :=
  k.reply _ o table status data c (k.withoutTaken s h) (State.withoutTaken_room room)

theorem takeUnknown (n : Nat) (s : State) (h : P s) : P (s.takeUnknown n) := by
  induction n generalizing s with
  | zero => exact h
  | succ n ih =>
    unfold State.takeUnknown
    split
    · next o e =>
      split
      · exact ih _ (k.taken s o _ _ _ _ h (State.takeable_room e))
      · exact h
    · exact h

/-- An order command keeps what its handling of an order that can be taken keeps. -/
theorem take (kind : Nat) (handle : Order → State → State) (s : State) (h : P s)
    (H : ∀ o t, P t → t.ReplyRoom → P (handle o t)) : P (s.take kind handle) := by
  have ht := k.takeUnknown Config.orderPlaces s h
  unfold State.take
  dsimp only
  split
  · next o e =>
    split
    · exact H o _ ht (State.takeable_room e)
    · exact ht
  · exact ht

/-- An order answered at once keeps what its act keeps, as the act leaves the queues alone. -/
theorem immediate (act : Order → State → Status × List Byte × State) (o : Order) (s : State) (h : P s)
    (room : s.ReplyRoom) (H : ∀ t : State, P t → P (act o t).2.2 ∧ t.SameQueues (act o t).2.2) :
    P (State.immediate act o s) := by
  obtain ⟨acted, queues⟩ := H _ (k.withoutTaken s h)
  exact k.reply _ o _ _ _ _ acted (queues.room (State.withoutTaken_room room))

theorem readEntry (o : Order) (s : State) (h : P s) (room : s.ReplyRoom) : P (s.readEntry o) := by
  unfold State.readEntry
  dsimp only
  split
  · exact k.taken s o _ _ _ _ h room
  · exact k.reply _ o _ _ _ _ (k.afterReading _ _ _ (k.withoutTaken s h))
      ((State.sameQueues_afterReading _ _ _).room (State.withoutTaken_room room))

theorem readNext (o : Order) (s : State) (h : P s) (room : s.ReplyRoom) : P (s.readNext o) := by
  unfold State.readNext
  dsimp only
  split
  · split
    · exact k.reply _ o _ _ _ _ (k.afterReading _ _ _ (k.withoutTaken s h))
        ((State.sameQueues_afterReading _ _ _).room (State.withoutTaken_room room))
    · exact k.taken s o _ _ _ _ h room
  · exact k.taken s o _ _ _ _ h room

theorem tryWrite (table : Table) (which : Bank) (i : Nat) (contents : List Byte) (s : State) (h : P s) :
    P (s.tryWrite table which i contents).2 ∧ s.SameQueues (s.tryWrite table which i contents).2 := by
  unfold State.tryWrite
  split
  · exact ⟨h, .refl s⟩
  · split
    · next n e => exact ⟨k.writeEntry which i n s (.inl ⟨table, contents, e⟩) h, s.sameQueues_writeEntry which i n⟩
    · exact ⟨h, .refl s⟩

/-- A write is judged, and answered with its status. -/
theorem written (o : Order) (id : Byte) (table : Table) (which : Bank) (i : Nat) (c : Option Cursor) (s : State) (h : P s)
    (room : s.ReplyRoom) :
    P ((s.withoutTaken.tryWrite table which i o.contents).2.reply o id
      (s.withoutTaken.tryWrite table which i o.contents).1 [] c) := by
  obtain ⟨hw, queues⟩ := k.tryWrite table which i o.contents _ (k.withoutTaken s h)
  exact k.reply _ o _ _ _ _ hw (queues.room (State.withoutTaken_room room))

theorem writeEntryOrder (o : Order) (s : State) (h : P s) (room : s.ReplyRoom) : P (s.writeEntryOrder o) := by
  unfold State.writeEntryOrder
  dsimp only
  split
  · exact k.taken s o _ _ _ _ h room
  · exact k.written o _ _ _ _ _ s h room

theorem writeNext (o : Order) (s : State) (h : P s) (room : s.ReplyRoom) : P (s.writeNext o) := by
  unfold State.writeNext
  dsimp only
  split
  · split
    · exact k.written o _ _ _ _ _ s h room
    · exact k.taken s o _ _ _ _ h room
  · exact k.taken s o _ _ _ _ h room

theorem clearAct (o : Order) (s : State) (h : P s) :
    P (Machine.clearAct o s).2.2 ∧ s.SameQueues (Machine.clearAct o s).2.2 := by
  unfold Machine.clearAct
  split
  · exact ⟨h, .refl s⟩
  · next table which i _ =>
    split
    · next n e => exact ⟨k.writeEntry which i n s (.inr ⟨s, table, i, e⟩) h, s.sameQueues_writeEntry which i n⟩
    · exact ⟨h, .refl s⟩

theorem swapOrder (o : Order) (s : State) (h : P s) (room : s.ReplyRoom) : P (s.swapOrder o) := by
  unfold State.swapOrder
  split
  · exact k.taken s o _ _ _ _ h room
  · exact k.record s.deferOrder none true s.resetPhase (k.deferOrder s h room)

theorem stopOrder (o : Order) (s : State) (h : P s) (room : s.ReplyRoom) : P (s.stopOrder o) := by
  unfold State.stopOrder
  split
  · exact k.taken s o _ _ _ _ h room
  · next p _ =>
    have stopped := k.stopProgram p s h
    have queues := s.sameQueues_stopProgram p
    split
    · exact k.taken s o _ _ _ _ h room
    · next t e =>
      rw [e] at stopped queues
      exact k.deferOrder t stopped (queues.room room)

theorem resetPartOrder (o : Order) (s : State) (h : P s) (room : s.ReplyRoom) : P (s.resetPartOrder o) := by
  unfold State.resetPartOrder
  exact k.answer { s.withoutTaken with cursor := none, swapPending := false, resetPhase := .awaiting } o _ _ _ _
    (k.record _ none false .awaiting (k.withoutTaken s h)) (State.withoutTaken_room room)

theorem releaseAct (p : Fin 16) (s : State) (h : P s) :
    P (Machine.releaseAct p s).2.2 ∧ s.SameQueues (Machine.releaseAct p s).2.2 := by
  have released := k.releaseDelay p s h
  have queues := s.sameQueues_releaseDelay p
  unfold Machine.releaseAct
  split <;> next e => rw [e] at released queues; exact ⟨released, queues⟩

theorem allocateAct (o : Order) (s : State) (h : P s) :
    P (Machine.allocateAct o s).2.2 ∧ s.SameQueues (Machine.allocateAct o s).2.2 := by
  unfold Machine.allocateAct
  split
  · exact ⟨h, .refl s⟩
  · exact onProgram_keeps _ o (fun p t ht => ⟨k.allocateDelay p _ t ht, t.sameQueues_allocateDelay p _⟩) s h

theorem resetStreamAct (o : Order) (s : State) (h : P s) :
    P (Machine.resetStreamAct o s).2.2 ∧ s.SameQueues (Machine.resetStreamAct o s).2.2 := by
  unfold Machine.resetStreamAct
  split
  · next lt =>
    dsimp only
    exact ⟨k.resetStream ⟨o.index, lt⟩ s h, s.sameQueues_storeStream _ _⟩
  · exact ⟨h, .refl s⟩

theorem acknowledgeAct (o : Order) (s : State) (h : P s) :
    P (Machine.acknowledgeAct o s).2.2 ∧ s.SameQueues (Machine.acknowledgeAct o s).2.2 := by
  unfold Machine.acknowledgeAct
  split
  · exact ⟨k.acknowledge none s h, ⟨rfl, rfl, rfl, rfl, fun _ => rfl⟩⟩
  · split
    · next lt => exact ⟨k.acknowledge (some ⟨o.index, lt⟩) s h, ⟨rfl, rfl, rfl, rfl, fun _ => rfl⟩⟩
    · exact ⟨h, .refl s⟩

/-! ### The order commands -/

section

variable (s : State) (h : P s)

include h

theorem handleNop : P (Machine.handleNop s) := k.take 0 _ s h fun o t ht room => k.taken t o _ _ _ _ ht room
theorem handleReadEntry : P (Machine.handleReadEntry s) := k.take 1 _ s h k.readEntry
theorem handleReadNext : P (Machine.handleReadNext s) := k.take 2 _ s h k.readNext
theorem handleWriteEntry : P (Machine.handleWriteEntry s) := k.take 3 _ s h k.writeEntryOrder
theorem handleWriteNext : P (Machine.handleWriteNext s) := k.take 4 _ s h k.writeNext
theorem handleClearEntry : P (Machine.handleClearEntry s) :=
  k.take 5 _ s h fun o t ht room => k.immediate _ o t ht room (k.clearAct o)
theorem handleSwap : P (Machine.handleSwap s) := k.take 6 _ s h k.swapOrder
theorem handleStart : P (Machine.handleStart s) :=
  k.take 7 _ s h fun o t ht room => k.immediate _ o t ht room
    (onProgram_keeps _ o fun p u hu => ⟨k.startProgram p u hu, u.sameQueues_startProgram p⟩)
theorem handleStop : P (Machine.handleStop s) := k.take 8 _ s h k.stopOrder
theorem handleAllocate : P (Machine.handleAllocate s) :=
  k.take 9 _ s h fun o t ht room => k.immediate _ o t ht room (k.allocateAct o)
theorem handleRelease : P (Machine.handleRelease s) :=
  k.take 10 _ s h fun o t ht room => k.immediate _ o t ht room (onProgram_keeps _ o k.releaseAct)
theorem handleResetStream : P (Machine.handleResetStream s) :=
  k.take 11 _ s h fun o t ht room => k.immediate _ o t ht room (k.resetStreamAct o)
theorem handleResetIntegration : P (Machine.handleResetIntegration s) :=
  k.take 12 _ s h fun o t ht room => k.immediate _ o t ht room
    (onProgram_keeps _ o fun p u hu => ⟨k.resetIntegration p u hu, u.sameQueues_modifyProgram p (·.withMeter _) fun _ => rfl⟩)
theorem handleAcknowledge : P (Machine.handleAcknowledge s) :=
  k.take 13 _ s h fun o t ht room => k.immediate _ o t ht room (k.acknowledgeAct o)
theorem handleSendLatency : P (Machine.handleSendLatency s) :=
  k.take 14 _ s h fun o t ht room => k.immediate _ o t ht room
    (onProgram_keeps _ o fun p u hu => ⟨k.sendLatency p u hu, u.sameQueues_modifyProgram p (·.withLip _) fun _ => rfl⟩)
theorem handleResetPart : P (Machine.handleResetPart s) := k.take 15 _ s h k.resetPartOrder

theorem takeAny : P s.takeAny := by
  have ht := k.takeUnknown Config.orderPlaces s h
  unfold State.takeAny
  dsimp only
  split
  · exact ht
  · split
    · exact k.handleNop _ ht
    · exact k.handleReadEntry _ ht
    · exact k.handleReadNext _ ht
    · exact k.handleWriteEntry _ ht
    · exact k.handleWriteNext _ ht
    · exact k.handleClearEntry _ ht
    · exact k.handleSwap _ ht
    · exact k.handleStart _ ht
    · exact k.handleStop _ ht
    · exact k.handleAllocate _ ht
    · exact k.handleRelease _ ht
    · exact k.handleResetStream _ ht
    · exact k.handleResetIntegration _ ht
    · exact k.handleAcknowledge _ ht
    · exact k.handleSendLatency _ ht
    · exact k.handleResetPart _ ht
    · exact ht

end

theorem takeAll (n : Nat) (s : State) (h : P s) : P (s.takeAll n) := by
  induction n generalizing s with
  | zero => exact h
  | succ n ih => exact ih _ (k.takeAny s h)

/-! ### House timing -/

section

variable (s : State) (h : P s)

include h

theorem handBoundary : P s.handBoundary := by
  unfold State.handBoundary
  split
  · exact h
  · dsimp only
    have made := k.house s { s.house with boundaryMade := true } h
    split
    · exact k.swapBanks _ made
    · exact made

theorem boundary (pulse : Presence) : P (s.boundary pulse) := k.handBoundary _ (k.house s _ h)

theorem pulseAbsent : P s.pulseAbsent := by
  unfold State.pulseAbsent
  split
  · exact k.boundary s h _
  · exact h

theorem synthesizedBoundary : P s.synthesizedBoundary := by
  unfold State.synthesizedBoundary
  split
  · exact k.boundary s h _
  · exact h

theorem fadeOut (p : Fin 16) : P (s.fadeOutEnd p) := by
  unfold State.fadeOutEnd
  split
  · exact k.fadeOutEnd p _ (k.meterUpdate p s h)
  · exact h

theorem partReset : P s.partReset := by
  unfold State.partReset
  split
  · exact k.reset _ _ s h
  · exact h

/-- The part's own events that are due. -/
theorem settle : P s.settle := by
  unfold State.settle
  split
  · exact k.partReset s h
  · have streams : P (forEach 32 (fun i t => ((t.loopUpdate i).gapTimeout i).holdoverLimit i) s) :=
      forEach_induct 32 _ s h fun i t ht => k.holdoverLimit i _ (k.gapTimeout i _ (k.loopUpdate i t ht))
    have entries := forEach_induct 64 (fun i (t : State) => t.modifyLatency i (·.expire t.settings.staleTimeout)) _ streams
      fun i t ht => k.expire _ i t ht
    refine k.takeAll _ _ (k.egressChoice _ (k.takeAll _ _ (k.evaluate _ (k.synthesizedBoundary _ (k.pulseAbsent _ ?_)))))
    exact forEach_induct 16 _ _ entries fun p t ht =>
      k.quietWaitExpiry _ p _ (k.fadeInEnd _ _ p _ (k.fadeOut _ (k.packetComplete p _ (k.meterUpdate p t ht)) p))

theorem countSample : P s.countSample :=
  k.evaluationDue { s with house := { s.house with count := s.house.count + 1, boundaryMade := false } } _ (k.house s _ h)

/-- The work of one house sample. -/
theorem processSample : P s.processSample := by
  have synced := forEach_induct 16 State.syncFallback _ (k.ageEntries _ (k.convertAll s h)) k.syncFallback
  have sampled := forEach_induct 16 State.programSample _ synced k.programSample
  exact k.countSample _ sampled

theorem houseSample : P s.houseSample := k.processSample _ (k.settle s h)

end

/-! ### Every step -/

/-- Every command keeps what its acts keep. -/
theorem exec (c : Instr) (s : State) (h : P s) : ∃ t, Machine.exec c s = .next t ∧ P t := by
  cases c with
  | ingressFrame frame => exact ⟨_, rfl, k.receive frame s h⟩
  | wordClockEdge => exact ⟨_, rfl, k.house _ _ (k.houseSample s h)⟩
  | bridgedSample =>
    refine ⟨_, rfl, ?_⟩
    split
    · exact k.houseSample s h
    · exact h
  | referenceAbsent => exact ⟨_, rfl, k.house s _ h⟩
  | freeRunSampleEnd =>
    refine ⟨_, rfl, ?_⟩
    split
    · exact k.houseSample s h
    · exact h
  | framePulse => exact ⟨_, rfl, k.boundary s h _⟩
  | pulseAbsent => exact ⟨_, rfl, k.pulseAbsent s h⟩
  | synthesizedBoundary => exact ⟨_, rfl, k.synthesizedBoundary s h⟩
  | loopUpdate i => exact ⟨_, rfl, atIndex_induct 32 i _ s h fun j => k.loopUpdate j s h⟩
  | gapTimeout i => exact ⟨_, rfl, atIndex_induct 32 i _ s h fun j => k.gapTimeout j s h⟩
  | holdoverLimit i => exact ⟨_, rfl, atIndex_induct 32 i _ s h fun j => k.holdoverLimit j s h⟩
  | meterUpdate p => exact ⟨_, rfl, atIndex_induct 16 p _ s h fun q => k.meterUpdate q s h⟩
  | quietWaitExpiry p => exact ⟨_, rfl, atIndex_induct 16 p _ s h fun q => k.quietWaitExpiry _ q s h⟩
  | fadeOutEnd p => exact ⟨_, rfl, atIndex_induct 16 p _ s h fun q => k.fadeOut s h q⟩
  | fadeInEnd p => exact ⟨_, rfl, atIndex_induct 16 p _ s h fun q => k.fadeInEnd _ _ q s h⟩
  | entryStale i => exact ⟨_, rfl, atIndex_induct 64 i _ s h fun j => k.expire _ j s h⟩
  | alarmEvaluation => exact ⟨_, rfl, k.evaluate s h⟩
  | packetComplete p => exact ⟨_, rfl, atIndex_induct 16 p _ s h fun q => k.packetComplete q s h⟩
  | egressChoice => exact ⟨_, rfl, k.egressChoice s h⟩
  | readyWithdrawn => exact ⟨_, rfl, k.ready s false h⟩
  | readyReturn => exact ⟨_, rfl, k.ready s true h⟩
  | egressFrameEnd => exact ⟨_, rfl, k.frameEnd s h⟩
  | nop => exact ⟨_, rfl, k.handleNop s h⟩
  | readEntry => exact ⟨_, rfl, k.handleReadEntry s h⟩
  | readNext => exact ⟨_, rfl, k.handleReadNext s h⟩
  | writeEntry => exact ⟨_, rfl, k.handleWriteEntry s h⟩
  | writeNext => exact ⟨_, rfl, k.handleWriteNext s h⟩
  | clearEntry => exact ⟨_, rfl, k.handleClearEntry s h⟩
  | swapProgramBank => exact ⟨_, rfl, k.handleSwap s h⟩
  | startProgram => exact ⟨_, rfl, k.handleStart s h⟩
  | stopProgram => exact ⟨_, rfl, k.handleStop s h⟩
  | allocateDelay => exact ⟨_, rfl, k.handleAllocate s h⟩
  | releaseDelay => exact ⟨_, rfl, k.handleRelease s h⟩
  | resetStream => exact ⟨_, rfl, k.handleResetStream s h⟩
  | resetIntegration => exact ⟨_, rfl, k.handleResetIntegration s h⟩
  | acknowledge => exact ⟨_, rfl, k.handleAcknowledge s h⟩
  | sendLatency => exact ⟨_, rfl, k.handleSendLatency s h⟩
  | resetPart => exact ⟨_, rfl, k.handleResetPart s h⟩
  | partResetActs => exact ⟨_, rfl, k.partReset s h⟩
  | powerOnReset straps => exact ⟨_, rfl, k.reset _ _ s h⟩

/-- Every step keeps what the acts of its command keep. -/
theorem step (s t : State) (h : P s) (e : Machine.step s = .next t) : P t := by
  unfold Machine.step at e
  split at e
  · cases e
    exact h
  · next c rest _ =>
    obtain ⟨u, eu, hu⟩ := k.exec c { s with pending := rest } (k.pending s rest h)
    rw [eu] at e
    cases e
    exact hu

end Kept

end Sys2Proof.Machine
end

section
/-! The bounds of the queues (R5, R152, R160, R163, R164, R168). -/

namespace Sys2Proof.Machine

/-! ### What the larger acts leave as it was -/

theorem State.latencyReport_rest (reporter : BitVec 32) (micros : Nat) (s : State) :
    s.latencyReport reporter micros = { s with
      latencies := (s.latencyReport reporter micros).latencies
      programs := (s.latencyReport reporter micros).programs, flags := (s.latencyReport reporter micros).flags } := by
  have named (i : Fin 64) (t : State) : ∃ ps, t.recomputeNaming i = { t with programs := ps } :=
    ⟨_, t.recomputeNaming_rest i⟩
  unfold State.latencyReport
  split
  · next i _ =>
    dsimp only
    split
    · rfl
    · obtain ⟨ps, e⟩ := named i (s.modifyLatency i (·.report micros))
      rw [e]
      rfl
  · split
    · next i _ =>
      split
      · obtain ⟨ps, e⟩ := named i (s.modifyLatency i fun _ => .learned reporter micros)
        rw [e]
        rfl
      · rfl
    · rfl

theorem State.sameQueues_latencyReport (reporter : BitVec 32) (micros : Nat) (s : State) :
    s.SameQueues (s.latencyReport reporter micros) := by
  have entry (i : Fin 64) (f : LatencyEntry → LatencyEntry) : s.SameQueues (s.modifyLatency i f) :=
    ⟨rfl, rfl, rfl, rfl, fun _ => rfl⟩
  have flag : s.SameQueues s.flagUnknownReporter := ⟨rfl, rfl, rfl, rfl, fun _ => rfl⟩
  unfold State.latencyReport
  split
  · dsimp only
    split
    · exact entry _ _
    · exact (entry _ _).trans (State.sameQueues_recomputeNaming _ _)
  · split
    · split
      · exact (entry _ _).trans (State.sameQueues_recomputeNaming _ _)
      · exact flag
    · exact flag

/-- A boundary that takes a pending swap keeps what its parts keep. -/
theorem State.swapBanks_induct {P : State → Prop} (s : State) (h : P s)
    (meterUpdate : ∀ p t, P t → P (t.meterUpdate p)) (packetComplete : ∀ p t, P t → P (t.packetComplete p))
    (switch : ∀ t : State, P t → P { t with activeBank := t.activeBank.other, swapPending := false })
    (bringIn : ∀ old p t, P t → P (t.bringIn old p)) (complete : ∀ mine t, P t → P (t.completeDeferred mine)) :
    P s.swapBanks := by
  have finished : P (forEach 16 State.finishDue s) := by
    refine forEach_induct 16 _ s h fun p t ht => ?_
    unfold State.finishDue
    split
    · exact packetComplete p _ (meterUpdate p t ht)
    · exact ht
  have brought := forEach_induct 16 (fun p (u : State) => u.bringIn ((forEach 16 State.finishDue s).activeEntry p) p) _
    (switch _ finished) fun p u hu => bringIn _ p u hu
  refine forEach_induct 16 _ _ (complete _ _ brought) fun p u hu => ?_
  split
  · exact complete _ u hu
  · exact hu

/-! ### The media frames of a program -/

theorem Program.gainLaw_egress (e : ProgramEntry) (momentary : Option Int) (g : Program) :
    (g.gainLaw e momentary).egress = g.egress := by
  unfold Program.gainLaw
  split
  · split
    · rfl
    · dsimp only
      split
      · rfl
      · rw [Program.appendGain_eq]
        rfl
  · rfl

theorem Program.update_egress (e : ProgramEntry) (processedIn : ProgramState) (g : Program) :
    (g.update e processedIn).egress = g.egress := by
  unfold Program.update Program.correctionUpdate
  dsimp only
  rw [Program.gainLaw_egress]
  split
  · split <;> rfl
  · rfl

theorem State.sameQueues_programSample (p : Fin 16) (s : State) : s.SameQueues (s.programSample p) := by
  unfold State.programSample
  split
  · dsimp only
    refine .trans (s.sameQueues_putProgram p _ ?_) ⟨rfl, rfl, rfl, rfl, fun _ => rfl⟩
    have marked (g : Program) : g.markSubBlock.egress = g.egress := by
      unfold Program.markSubBlock
      split <;> rfl
    have running (g : Program) : g.fillingToRunning.egress = g.egress := by
      unfold Program.fillingToRunning
      split <;> rfl
    rw [marked]
    show (if _ then _ else _ : Program).egress.queue = _
    split
    · exact congrArg ProgramEgress.queue (running _)
    · exact congrArg ProgramEgress.queue (running _)
  · exact .refl s

/-- A built frame finds at most one frame before it once it is placed (R160). -/
theorem Program.queueMedia_length (frame : List Byte) (g : Program) (h : g.egress.queue.length ≤ 2) :
    (g.queueMedia frame).egress.queue.length ≤ 2 := by
  unfold Program.queueMedia
  split
  · next lt => simpa [Config.packetPlaces] using lt
  · simp [Program.flagDrop]
    omega

/-! ### The bounds, act by act -/

theorem State.QueuesBounded.of_same {s t : State} (h : s.QueuesBounded) (same : s.SameQueues t)
    (notices : t.notices.length ≤ 32) : t.QueuesBounded where
  orders := by rw [same.orders]; exact h.orders
  replies := by unfold State.inProgress; rw [same.orders, same.replies]; exact h.replies
  passThrough := by rw [same.passThrough]; exact h.passThrough
  reports := by rw [same.reports]; exact h.reports
  notices := notices
  media p := by rw [same.media p]; exact h.media p

/-- An act that leaves the queues and the notices alone keeps the bounds. -/
theorem State.QueuesBounded.of_same_notices {s t : State} (h : s.QueuesBounded) (same : s.SameQueues t)
    (notices : t.notices = s.notices) : t.QueuesBounded :=
  h.of_same same (notices ▸ h.notices)

/-- An act that leaves everything but other parts of the state alone keeps the bounds. -/
theorem State.QueuesBounded.elsewhere {s t : State} (h : s.QueuesBounded)
    (rest : t = { t with
      orders := s.orders, replyQueue := s.replyQueue, passQueue := s.passQueue, reportQueue := s.reportQueue
      notices := s.notices, programs := s.programs }) : t.QueuesBounded := by
  rw [rest]
  exact ⟨h.orders, h.replies, h.passThrough, h.reports, h.notices, h.media⟩

theorem State.sameQueues_moved (s : State) (p : Fin 16) {f : Program → Program} (h : ∀ g : Program, g.Moved (f g)) :
    s.SameQueues (s.modifyProgram p f) := by
  refine s.sameQueues_modifyProgram p f fun g => ?_
  obtain ⟨-, -, -, -, -, -, egress, -⟩ := (h g).keeps
  rw [egress]

theorem State.offerNotice_length (n : Notice) (s : State) (h : s.notices.length ≤ 32) :
    (s.offerNotice n).notices.length ≤ 32 := by
  unfold State.offerNotice
  split
  · next lt => simpa [Config.noticePlaces] using lt
  · exact h

theorem State.QueuesBounded.offerNotice {s : State} (h : s.QueuesBounded) (n : Notice) :
    (s.offerNotice n).QueuesBounded :=
  h.of_same (s.sameQueues_offerNotice n) (s.offerNotice_length n h.notices)

theorem State.QueuesBounded.offerPass {s : State} (h : s.QueuesBounded) (frame : List Byte) :
    (s.offerPass frame).QueuesBounded := by
  unfold State.offerPass
  split
  · next lt => exact { h with passThrough := by simpa [Config.passPlaces] using lt }
  · exact h.elsewhere rfl

theorem State.QueuesBounded.passIf {s : State} (h : s.QueuesBounded) (switch : Bool) (frame : List Byte) :
    (s.passIf switch frame).QueuesBounded := by
  unfold State.passIf
  split
  · exact h.offerPass frame
  · exact h

/-- An order that joins the queue waits, so it takes no reply place. -/
theorem State.QueuesBounded.offerOrder {s : State} (h : s.QueuesBounded) (o : Order) (waiting : o.inProgress = false) :
    (s.offerOrder o).QueuesBounded := by
  unfold State.offerOrder
  split
  · next lt =>
    exact { h with
      orders := by simpa [Config.orderPlaces] using lt
      replies := by simpa [State.inProgress, waiting] using h.replies }
  · exact h.elsewhere rfl

/-- An order that a frame carries waits. -/
theorem State.classify_waiting {s : State} {frame : List Byte} {o : Order} {broadcast : Bool}
    (h : s.classify frame = .order o broadcast) : o.inProgress = false := by
  unfold State.classify at h
  split at h
  · cases h
  · next x _ =>
    split at h
    · cases h
    · split at h
      · split at h <;> cases h
      · unfold classifyOrder at h
        dsimp only at h
        split at h
        · cases h
        · split at h
          · split at h <;> cases h
            rfl
          · split at h
            · split at h <;> cases h
              rfl
            · cases h
      · split at h <;> cases h
      · cases h

theorem State.QueuesBounded.receive (frame : List Byte) (s : State) (h : s.QueuesBounded) :
    (s.receive frame).QueuesBounded := by
  unfold State.receive
  split
  · next e => exact (h.offerOrder _ (State.classify_waiting e)).passIf _ _
  · exact h.elsewhere rfl
  · exact h.offerPass frame
  · refine State.QueuesBounded.passIf ?_ _ _
    refine h.of_same_notices (State.sameQueues_latencyReport _ _ s) ?_
    rw [State.latencyReport_rest]
  · exact h.elsewhere rfl
  · exact h.passIf _ _
  · exact h.passIf _ _

theorem State.QueuesBounded.meterUpdate (p : Fin 16) (s : State) (h : s.QueuesBounded) :
    (s.meterUpdate p).QueuesBounded := by
  unfold State.meterUpdate
  split
  · exact h
  · next st _ =>
    split
    · have updated := h.of_same_notices
        (s.sameQueues_modifyProgram p (·.update (s.activeEntry p) st) fun g => by rw [Program.update_egress]) rfl
      refine State.QueuesBounded.of_same_notices ?_ (State.sameQueues_modifyProgram _ p _ fun g => ?_) rfl
      · generalize s.modifyProgram p (·.update (s.activeEntry p) st) = t at updated
        unfold State.reportLatency
        dsimp only
        split
        · exact updated
        · have kept := updated.of_same_notices (t.sameQueues_modifyProgram p (fun g =>
            { g with lip := { g.lip with
                lastReported := some (outgoingMicros t.programs[p].lip.audio t.programs[p].lip.actual), sendFlag := false }
                     changed := true }) fun _ => rfl) rfl
          rw [State.offerReport_rest]
          exact { kept with reports := State.offerReport_length _ _ kept.reports }
      · obtain ⟨-, -, -, -, -, -, egress, -⟩ := g.quietMove_moved.keeps
        rw [egress]
    · exact h

/-- An answered order in progress gives its place to its reply (R163). -/
theorem filter_inProgress_eraseP (mine : Order → Bool) (l : List Order) (o : Order) (mem : o ∈ l)
    (mineO : (o.inProgress && mine o) = true) :
    ((l.eraseP fun o => o.inProgress && mine o).filter (·.inProgress)).length + 1 = (l.filter (·.inProgress)).length := by
  induction l with
  | nil => cases mem
  | cons x l ih =>
    by_cases hx : (x.inProgress && mine x) = true
    · obtain ⟨progress, mineX⟩ := Bool.and_eq_true_iff.mp hx
      simp [progress, mineX]
    · have mem' : o ∈ l := by
        rcases List.mem_cons.mp mem with rfl | m
        · exact absurd mineO hx
        · exact m
      have := ih mem'
      cases progress : x.inProgress <;> simp_all

theorem State.QueuesBounded.completeDeferred (mine : Order → Bool) (s : State) (h : s.QueuesBounded) :
    (s.completeDeferred mine).QueuesBounded := by
  rcases s.completeDeferred_spec mine with e | ⟨o, mem, progress, isMine, -, e⟩
  · rw [e]
    exact h
  · have freed := filter_inProgress_eraseP mine s.orders o mem (by simp [progress, isMine])
    have replies := h.replies
    rw [e]
    refine { h with orders := ?_, replies := ?_ }
    · exact (List.eraseP_sublist.length_le).trans h.orders
    · unfold State.inProgress at replies ⊢
      simp only [State.answer, List.length_append, List.length_singleton]
      omega

theorem State.QueuesBounded.packetComplete (p : Fin 16) (s : State) (h : s.QueuesBounded) :
    (s.packetComplete p).QueuesBounded := by
  have putBounded (t : State) (ht : t.QueuesBounded) (f : Program → Program)
      (keep : ∀ g, g.egress.queue.length ≤ 2 → (f g).egress.queue.length ≤ 2) : (t.modifyProgram p f).QueuesBounded := by
    refine { ht with media := fun q => ?_ }
    rw [State.modifyProgram_get]
    split
    · exact keep _ (ht.media p)
    · exact ht.media q
  unfold State.packetComplete
  split
  · dsimp only
    have built := putBounded s h (fun g => (g.queueMedia (mediaFrame s.settings s.egressTable[p]
      (s.activeEntry p).members.length s.programs[p].egress)).withEgress
        fun x => { x with progress := [], sequence := x.sequence + 1 }) fun g hg => g.queueMedia_length _ hg
    split
    · exact State.QueuesBounded.completeDeferred _ _ (putBounded _ built _ fun g hg => hg)
    · exact built
  · exact h

theorem State.QueuesBounded.evaluate (s : State) (h : s.QueuesBounded) : s.evaluate.QueuesBounded := by
  unfold State.evaluate
  split
  · have zeroed : ({ s with triggers := s.stepTriggers.triggers, evaluationDue := false } : State).zeroEventCounts.QueuesBounded :=
      { h with media := fun p => by simpa [State.zeroEventCounts] using h.media p }
    have voted := zeroed.of_same_notices (State.sameQueues_applyVotes _) (by rw [State.applyVotes_rest])
    unfold State.offerStepNotices
    refine List.foldlRecOn _ _ voted fun t ht i _ => ?_
    split
    · exact ht.offerNotice _
    · exact ht
  · exact h

theorem State.takeHead_bounded {s t : State} {c : EgressClass} {f : Sending} (h : s.QueuesBounded)
    (e : s.takeHead c = some (f, t)) : t.QueuesBounded := by
  unfold State.takeHead at e
  split at e <;> split at e <;> cases e
  · next q => exact { h with replies := by have := h.replies; simp [q, State.inProgress] at this ⊢; omega }
  · next q => exact { h with reports := by have := h.reports; simp [q] at this ⊢; omega }
  · next q => exact { h with notices := by have := h.notices; simp [q] at this ⊢; omega }
  · next q => exact { h with passThrough := by have := h.passThrough; simp [q] at this ⊢; omega }

theorem State.QueuesBounded.egressChoice (s : State) (h : s.QueuesBounded) : s.egressChoice.QueuesBounded := by
  unfold State.egressChoice
  split
  · split
    · next t e =>
      unfold State.chooseMedia at e
      split at e
      · next p _ =>
        cases e
        refine { h with media := fun q => ?_ }
        have := h.media q
        simp only [State.modifyProgram_get]
        split
        · next eq => subst eq; simp [Program.withEgress] at this ⊢; omega
        · exact this
      · cases e
    · cases e : s.chooseOther with
      | none => exact h
      | some t =>
        obtain ⟨c, -, e⟩ := List.exists_of_findSome?_eq_some e
        cases e' : s.takeHead c with
        | none => rw [e'] at e; cases e
        | some r =>
          rw [e'] at e
          cases e
          exact (State.takeHead_bounded h e').elsewhere rfl
  · exact h

theorem State.QueuesBounded.bringIn (old : ProgramEntry) (p : Fin 16) (s : State) (h : s.QueuesBounded) :
    (s.bringIn old p).QueuesBounded :=
  h.of_same_notices (s.sameQueues_bringIn old p) (by rw [State.bringIn_rest])

theorem State.storeStream_rest (i : Fin 32) (e : StreamEntry) (s : State) :
    s.storeStream i e = { s with
      streams := (s.storeStream i e).streams, programs := (s.storeStream i e).programs } := by
  unfold State.storeStream
  obtain ⟨ps, h⟩ : ∃ ps, (s.modifyStream i fun t => ⟨e, t.ctx.restart e.valid⟩).recomputeAll =
      { s.modifyStream i fun t => ⟨e, t.ctx.restart e.valid⟩ with programs := ps } := ⟨_, State.recomputeAll_rest _⟩
  rw [h]
  rfl

theorem State.writeLatency_rest (i : Fin 64) (w : LatencyWrite) (s : State) :
    s.writeLatency i w = { s with
      latencies := (s.writeLatency i w).latencies, programs := (s.writeLatency i w).programs } := by
  unfold State.writeLatency
  dsimp only
  split
  · rfl
  · obtain ⟨ps, h⟩ : ∃ ps, (s.modifyLatency i (·.written w)).recomputeNaming i =
        { s.modifyLatency i (·.written w) with programs := ps } := ⟨_, State.recomputeNaming_rest _ _⟩
    rw [h]
    rfl

theorem State.writeTrigger_notices (i : Fin 48) (e : TriggerEntry) (s : State) (h : s.notices.length ≤ 32) :
    (s.writeTrigger i e).notices.length ≤ 32 := by
  unfold State.writeTrigger
  dsimp only
  rw [State.applyVotes_rest]
  dsimp only
  split
  · exact s.offerNotice_length _ h
  · exact h

theorem State.QueuesBounded.writeEntry (which : Bank) (i : Nat) (n : NewEntry) (s : State) (h : s.QueuesBounded) :
    (s.writeEntry which i n).2.QueuesBounded := by
  refine h.of_same (s.sameQueues_writeEntry which i n) ?_
  cases n with
  | settings c => exact h.notices
  | stream e =>
    simp only [State.writeEntry, State.writeStream]
    split
    · exact h.notices
    · rw [State.storeStream_rest]
      exact h.notices
  | program e =>
    simp only [State.writeEntry, State.writeProgram]
    split
    · split
      · exact h.notices
      · rw [State.bringIn_rest]
        simpa using h.notices
    · simpa using h.notices
  | egress e =>
    simp only [State.writeEntry, State.writeEgress]
    split
    · exact h.notices
    · rw [State.recompute_rest]
      exact h.notices
  | latency w =>
    simp only [State.writeEntry, State.tryLatency]
    split
    · exact h.notices
    · rw [State.writeLatency_rest]
      exact h.notices
  | trigger e =>
    simp only [State.writeEntry, State.tryTrigger]
    split
    · exact h.notices
    · dsimp only
      exact State.writeTrigger_notices _ e s h.notices

theorem State.startProgram_rest (p : Fin 16) (s : State) :
    (s.startProgram p).2 = { s with programs := (s.startProgram p).2.programs } := by
  unfold State.startProgram
  dsimp only
  split
  · split
    · rfl
    · dsimp only
      obtain ⟨ps, h⟩ : ∃ ps, s.syncFallback p = { s with programs := ps } := ⟨_, s.syncFallback_rest p⟩
      rw [h]
      rfl
  all_goals rfl

theorem State.stopProgram_rest (p : Fin 16) (s : State) :
    (s.stopProgram p).2 = { s with programs := (s.stopProgram p).2.programs } := by
  unfold State.stopProgram
  split <;> rfl

theorem State.allocateDelay_rest (p : Fin 16) (request : Nat) (s : State) :
    (s.allocateDelay p request).2.2 = { s with
      programs := (s.allocateDelay p request).2.2.programs, freeList := (s.allocateDelay p request).2.2.freeList } := by
  unfold State.allocateDelay
  split
  · rfl
  · split
    · rfl
    · dsimp only
      split <;> rfl

theorem State.releaseDelay_rest (p : Fin 16) (s : State) :
    (s.releaseDelay p).2 = { s with
      programs := (s.releaseDelay p).2.programs, freeList := (s.releaseDelay p).2.freeList } := by
  unfold State.releaseDelay
  split <;> rfl

/-- A reading touches the streams, the programs, the Latency Table, the triggers, the flags of PART STATUS and the counter
of unstated numbers. -/
theorem State.afterReading_rest (table : Table) (i : Nat) (s : State) :
    s.afterReading table i = { s with
      streams := (s.afterReading table i).streams, programs := (s.afterReading table i).programs
      latencies := (s.afterReading table i).latencies, triggers := (s.afterReading table i).triggers
      flags := (s.afterReading table i).flags, freeCount := (s.afterReading table i).freeCount } := by
  unfold State.afterReading State.readEffect
  cases table <;> rfl

/-- Taking the order in front out leaves the orders in progress. -/
theorem State.QueuesBounded.withoutTaken (s : State) (h : s.QueuesBounded) : s.withoutTaken.QueuesBounded :=
  { h with
    orders := (List.eraseP_sublist.length_le).trans h.orders
    replies := by
      have := h.replies
      unfold State.inProgress at this ⊢
      rw [State.withoutTaken, filter_withoutWaiting]
      exact this }

theorem startWaiting_length (l : List Order) : (startWaiting l).length = l.length := by
  induction l with
  | nil => rfl
  | cons o l ih =>
    unfold startWaiting
    split
    · simp [ih]
    · rfl

/-- Deferring an order reserves one reply place at most (R163). -/
theorem filter_startWaiting (l : List Order) :
    ((startWaiting l).filter (·.inProgress)).length ≤ (l.filter (·.inProgress)).length + 1 := by
  induction l with
  | nil => simp [startWaiting]
  | cons o l ih =>
    unfold startWaiting
    split
    · next progress => simpa [progress] using ih
    · next waiting => simp [waiting]

theorem State.QueuesBounded.deferOrder (s : State) (h : s.QueuesBounded) (room : s.ReplyRoom) :
    s.deferOrder.QueuesBounded := by
  refine { h with orders := ?_, replies := ?_ }
  · exact (startWaiting_length s.orders).trans_le h.orders
  · have := filter_startWaiting s.orders
    unfold State.ReplyRoom State.inProgress at room
    unfold State.deferOrder State.inProgress
    dsimp only
    omega

theorem State.QueuesBounded.answer (s : State) (o : Order) (table : Byte) (status : Status) (data : List Byte)
    (resets : Bool) (h : s.QueuesBounded) (room : s.ReplyRoom) :
    (s.answer o s.orders table status data resets).QueuesBounded :=
  { h with
    orders := h.orders
    replies := by
      unfold State.ReplyRoom State.inProgress at room
      unfold State.answer State.inProgress
      simp only [List.length_append, List.length_singleton]
      omega }

theorem State.QueuesBounded.reset (settings : Settings) (straps : Byte) (s : State) :
    (s.resetKeeping settings straps).QueuesBounded where
  orders := Nat.zero_le 8
  replies := Nat.zero_le 8
  passThrough := Nat.zero_le 16
  reports := Nat.zero_le 16
  notices := (by decide : 1 ≤ 32)
  media p := by simp [State.resetKeeping, State.reset, Program.reset, ProgramEgress.reset]

/-- Every act keeps the bounds of the queues. -/
theorem State.QueuesBounded.kept : Kept State.QueuesBounded where
  pending _ _ h := h.elsewhere rfl
  house _ _ h := h.elsewhere rfl
  evaluationDue _ _ h := h.elsewhere rfl
  ready _ _ h := h.elsewhere rfl
  receive := State.QueuesBounded.receive
  loopUpdate _ _ h := h.elsewhere rfl
  gapTimeout _ _ h := h.elsewhere rfl
  holdoverLimit _ _ h := h.elsewhere rfl
  expire _ _ _ h := h.elsewhere rfl
  meterUpdate := State.QueuesBounded.meterUpdate
  packetComplete := State.QueuesBounded.packetComplete
  fadeOutEnd p s h := h.of_same_notices (s.sameQueues_moved p Program.fadeOutEnd_moved) rfl
  fadeInEnd now e p s h := h.of_same_notices (s.sameQueues_moved p fun g => g.fadeInEnd_moved now e) rfl
  quietWaitExpiry now p s h := h.of_same_notices (s.sameQueues_moved p fun g => g.quietWaitExpiry_moved now) rfl
  evaluate := State.QueuesBounded.evaluate
  egressChoice := State.QueuesBounded.egressChoice
  frameEnd s h := by
    unfold State.frameEnd
    split
    · split
      · exact h.elsewhere rfl
      · exact h
    · exact h
  swapBanks s h := s.swapBanks_induct h State.QueuesBounded.meterUpdate State.QueuesBounded.packetComplete
    (fun _ ht => ht.elsewhere rfl) State.QueuesBounded.bringIn State.QueuesBounded.completeDeferred
  convertAll _ h := h.elsewhere rfl
  ageEntries _ h := h.elsewhere rfl
  syncFallback p s h := h.of_same_notices (s.sameQueues_syncFallback p) (by rw [State.syncFallback_rest])
  programSample p s h := h.of_same_notices (s.sameQueues_programSample p) (by rw [State.programSample_rest])
  withoutTaken := State.QueuesBounded.withoutTaken
  answer := State.QueuesBounded.answer
  deferOrder := State.QueuesBounded.deferOrder
  record _ _ _ _ h := h.elsewhere rfl
  afterReading table i s h := h.of_same_notices (s.sameQueues_afterReading table i) (by rw [State.afterReading_rest])
  writeEntry which i n s _ h := h.writeEntry which i n s
  startProgram p s h := h.of_same_notices (s.sameQueues_startProgram p) (by rw [State.startProgram_rest])
  stopProgram p s h := h.of_same_notices (s.sameQueues_stopProgram p) (by rw [State.stopProgram_rest])
  allocateDelay p r s h := h.of_same_notices (s.sameQueues_allocateDelay p r) (by rw [State.allocateDelay_rest])
  releaseDelay p s h := h.of_same_notices (s.sameQueues_releaseDelay p) (by rw [State.releaseDelay_rest])
  resetStream i s h := h.of_same_notices (s.sameQueues_storeStream i _) (by rw [State.storeStream_rest])
  resetIntegration p s h := h.of_same_notices (s.sameQueues_modifyProgram p (·.withMeter _) fun _ => rfl) rfl
  acknowledge which s h := by cases which <;> exact h.elsewhere rfl
  sendLatency p s h := h.of_same_notices (s.sameQueues_modifyProgram p (·.withLip _) fun _ => rfl) rfl
  reset settings straps s _ := State.QueuesBounded.reset settings straps s

/-- Settles O52: each act of a step keeps the bounds. -/
theorem stepKeepsQueuesBounded : Obligations.StepKeepsQueuesBounded :=
  State.QueuesBounded.kept.step

end Sys2Proof.Machine
end

section
/-! The bounds of every stream's context: the fill (R10), the loop (R34) and the step (R27). -/

namespace Sys2Proof.Machine

/-! ### The fill and the position (R10, R27) -/

/-- While a context does not wait for frames its fill is counted from floor(pos). -/
theorem Context.fill_counted {c : Context} (empty : c.state ≠ .empty) (acquire : c.state ≠ .acquire) :
    c.fill = (c.writeIndex - c.position).toNat := by
  unfold Context.fill
  split <;> simp_all

/-- Between states whose fill is counted from floor(pos) the fill stays. -/
theorem Context.fill_between {c d : Context} (before : c.state ≠ .empty ∧ c.state ≠ .acquire)
    (after : d.state ≠ .empty ∧ d.state ≠ .acquire) (writeIndex : d.writeIndex = c.writeIndex) (pos : d.pos = c.pos) :
    d.fill = c.fill := by
  rw [Context.fill_counted after.1 after.2, Context.fill_counted before.1 before.2]
  unfold Context.position
  rw [writeIndex, pos]

/-- pos set to a write index stands at that index. -/
theorem position_of_index (w : BitVec 32) : ((w.setWidth 64 <<< 32) >>> 32).setWidth 32 = w := by
  apply BitVec.eq_of_toNat_eq
  simp [BitVec.toNat_shiftLeft, Nat.shiftLeft_eq, Nat.shiftRight_eq_div_pow]
  omega

/-- pos advances by a step of up to three frames: the position follows by no more than three. -/
theorem position_advance (pos : BitVec 64) (step : Int) (low : 0 ≤ step) (high : step ≤ 12884901888) :
    ∃ n ≤ 3, ((pos + BitVec.ofInt 64 step) >>> 32).setWidth 32 = ((pos >>> 32).setWidth 32 : BitVec 32) + BitVec.ofNat 32 n := by
  obtain ⟨k, rfl⟩ := Int.eq_ofNat_of_zero_le low
  refine ⟨(pos.toNat % 4294967296 + k) / 4294967296, by omega, ?_⟩
  apply BitVec.eq_of_toNat_eq
  simp [Nat.shiftRight_eq_div_pow]
  omega

/-- The step of R27 lies between 0 and three frames while the correction is within its bound (R34). -/
theorem stepOf_bounds (rate : Rate) (correction : Int) (low : -16777 ≤ correction) (high : correction ≤ 16777) :
    0 ≤ stepOf rate correction ∧ stepOf rate correction ≤ 12884901888 := by
  unfold stepOf
  rw [Int.fdiv_eq_ediv_of_nonneg _ (by decide)]
  cases rate <;> simp only [Rate.nominalStep] <;> omega

/-! ### What keeps a context within its bounds -/

/-- The bounds read the fill, the loop and the step, and whether the expected number is set. -/
theorem Context.Bounded.of_same {c d : Context} (h : c.Bounded) (fill : d.fill = c.fill)
    (integrator : d.integrator = c.integrator) (correction : d.correction = c.correction) (step : d.step = c.step)
    (expected : d.expected = none → c.expected = none) : d.Bounded where
  fill := fill ▸ h.fill
  integrator := integrator ▸ h.integrator
  correction := correction ▸ h.correction
  step := step ▸ h.step
  unset e := fill ▸ h.unset (expected e)

/-- A flush leaves an empty buffer and the loop as it was (R9, R16, R20). -/
theorem Context.Bounded.flushTo {c : Context} (h : c.Bounded) (st : ContextState) (flushed : st = .empty ∨ st = .acquire) :
    (c.flushTo st).Bounded where
  fill := by rw [(c.flushTo_fill st flushed).1]; omega
  integrator := h.integrator
  correction := h.correction
  step := h.step
  unset _ := (c.flushTo_fill st flushed).1

/-- The fill after frames have joined: an EMPTY context keeps none. -/
theorem Context.append_fill_le (frames : List (List Sample)) (c : Context) (room : c.fill + frames.length ≤ 2016) :
    (c.append frames).fill ≤ c.fill + frames.length := by
  by_cases h : c.state = .empty
  · have e : (c.append frames).state = .empty := by
      unfold Context.append
      split <;> exact h
    have fill : (c.append frames).fill = 0 := by unfold Context.fill; rw [e]
    omega
  · rw [c.append_fill frames h (by omega)]

/-- What appending leaves of a context. -/
theorem Context.append_keeps (frames : List (List Sample)) (c : Context) :
    (c.append frames).state = c.state ∧ (c.append frames).pos = c.pos ∧ (c.append frames).integrator = c.integrator ∧
    (c.append frames).correction = c.correction ∧ (c.append frames).step = c.step ∧
    (c.append frames).expected = c.expected ∧ (c.append frames).lastError = c.lastError := by
  unfold Context.append
  split
  · simp
  · exact ⟨rfl, rfl, rfl, rfl, rfl, rfl, rfl⟩

/-- The fill at the entry into TRACK from ACQUIRE is T (R19, R27). -/
theorem Context.acquireExit_fill {e : StreamEntry} {c : Context} (range : e.targetFill < 4294967296)
    (due : c.state = .acquire ∧ e.targetFill + e.taps / 2 ≤ c.fill) : (c.acquireExit e).fill = e.targetFill := by
  unfold Context.acquireExit
  rw [if_pos due]
  show (c.writeIndex - (((c.writeIndex - BitVec.ofNat 32 e.targetFill).setWidth 64 <<< 32) >>> 32).setWidth 32).toNat = _
  rw [position_of_index]
  have : c.writeIndex - (c.writeIndex - BitVec.ofNat 32 e.targetFill) = BitVec.ofNat 32 e.targetFill := by bv_omega
  rw [this, BitVec.toNat_ofNat]
  exact Nat.mod_eq_of_lt range

/-- A context whose expected number is set is brought within its bounds by the exit from ACQUIRE. -/
theorem Context.Bounded.acquireExit {e : StreamEntry} {c : Context} (range : e.InRange) (h : c.Bounded)
    (set : c.expected ≠ none) : (c.acquireExit e).Bounded := by
  by_cases due : c.state = .acquire ∧ e.targetFill + e.taps / 2 ≤ c.fill
  · have fill := Context.acquireExit_fill (by have := range.targetFill; omega) due
    have step := stepOf_bounds e.rate c.correction h.correction.1 h.correction.2
    have target := range.targetFill
    constructor
    · omega
    · unfold Context.acquireExit; rw [if_pos due]; exact h.integrator
    · unfold Context.acquireExit; rw [if_pos due]; exact h.correction
    · unfold Context.acquireExit; rw [if_pos due]; exact step
    · unfold Context.acquireExit; rw [if_pos due]; exact fun e => absurd e set
  · unfold Context.acquireExit
    rw [if_neg due]
    exact h

/-- An accepted packet leaves a context within its bounds where its frames have fitted. -/
theorem Context.Bounded.accept {e : StreamEntry} {c : Context} (range : e.InRange) (now : BitVec 48) (m : MediaPacket)
    (fill : c.fill ≤ 2016) (integrator : -16777 ≤ c.integrator ∧ c.integrator ≤ 16777)
    (correction : -16777 ≤ c.correction ∧ c.correction ≤ 16777) (step : 0 ≤ c.step ∧ c.step ≤ 12884901888) :
    (c.accept e now m).Bounded := by
  have taken : ({ c with
      expected := some (m.sequence + 1), last := some ⟨m.frames, (m.decoded e).getLastD []⟩
      acceptTime := now } : Context).Bounded := ⟨fill, integrator, correction, step, fun e => by cases e⟩
  unfold Context.accept
  dsimp only
  split
  · next hold =>
    have same := Context.fill_between (c := c) (d := c.enterTrack) (by simp_all) (by simp [Context.enterTrack]) rfl rfl
    exact taken.of_same same rfl rfl rfl fun e => by cases e
  · exact taken.acquireExit range (by simp)

theorem MediaPacket.decoded_length (e : StreamEntry) (m : MediaPacket) : (m.decoded e).length = m.frames := by
  simp [MediaPacket.decoded]

/-- A packet that passes the format test holds at most 64 frames (R12). -/
theorem MediaPacket.formatOk_frames {e : StreamEntry} {m : MediaPacket} (ok : m.formatOk e = true) :
    1 ≤ m.frames ∧ m.frames ≤ 64 := by
  simp only [MediaPacket.formatOk, Bool.and_eq_true, decide_eq_true_eq] at ok
  obtain ⟨⟨⟨-, least⟩, most⟩, -⟩ := ok
  exact ⟨least, most⟩

/-- The first packet of an empty buffer. -/
theorem Context.Bounded.first {e : StreamEntry} {c : Context} (range : e.InRange) (now : BitVec 48) {m : MediaPacket}
    (ok : m.formatOk e = true) (h : c.Bounded) (none : c.fill = 0) : ((c.append (m.decoded e)).accept e now m).Bounded := by
  obtain ⟨-, -, integrator, correction, step, -, -⟩ := c.append_keeps (m.decoded e)
  have frames := m.formatOk_frames ok
  have length := m.decoded_length e
  have fill := c.append_fill_le (m.decoded e) (by omega)
  refine .accept range now m (by omega) ?_ ?_ ?_
  · rw [integrator]; exact h.integrator
  · rw [correction]; exact h.correction
  · rw [step]; exact h.step

/-- A packet in order, or after a gap: written where it fits, else refused (R14, R15). -/
theorem Context.Bounded.inOrder {e : StreamEntry} {c : Context} (range : e.InRange) (now : BitVec 48) {m : MediaPacket}
    (missing : Nat) (h : c.Bounded) : (c.inOrder e now m missing).Bounded := by
  have seenBounded : ∀ seen : Context, seen = (if missing = 0 then c else c.flagGap) →
      seen.Bounded ∧ seen.fill = c.fill := by
    rintro seen rfl
    split
    · exact ⟨h, rfl⟩
    · exact ⟨h.of_same rfl rfl rfl rfl id, rfl⟩
  unfold Context.inOrder
  dsimp only
  obtain ⟨seen, hs⟩ : ∃ seen, seen = if missing = 0 then c else c.flagGap := ⟨_, rfl⟩
  obtain ⟨bounded, sameFill⟩ := seenBounded seen hs
  rw [← hs]
  split
  · next fits =>
    simp only [Config.usableFill] at fits ⊢
    have concealed : (c.concealment e missing (2016 - c.fill - m.frames)).length ≤ 2016 - c.fill - m.frames := by
      simp only [Context.concealment, List.length_replicate]
      exact Nat.min_le_right _ _
    obtain ⟨-, -, i1, c1, s1, -, -⟩ := seen.append_keeps (c.concealment e missing (2016 - c.fill - m.frames))
    have fill1 := seen.append_fill_le (c.concealment e missing (2016 - c.fill - m.frames)) (by omega)
    generalize seen.append (c.concealment e missing (2016 - c.fill - m.frames)) = written at i1 c1 s1 fill1 ⊢
    obtain ⟨-, -, i2, c2, s2, -, -⟩ := written.append_keeps (m.decoded e)
    have length := m.decoded_length e
    have fill2 := written.append_fill_le (m.decoded e) (by omega)
    refine .accept range now m (by omega) ?_ ?_ ?_
    · rw [i2, i1]; exact bounded.integrator
    · rw [c2, c1]; exact bounded.correction
    · rw [s2, s1]; exact bounded.step
  · exact bounded.of_same rfl rfl rfl rfl fun e => by cases e

/-- A packet that has passed the format test, at any distance (R13 to R17, R20). -/
theorem Context.Bounded.sequenced {e : StreamEntry} {c : Context} (range : e.InRange) (now : BitVec 48) {m : MediaPacket}
    (ok : m.formatOk e = true) (h : c.Bounded) : (c.sequenced e now m).Bounded := by
  have flushed := h.flushTo .acquire (.inr rfl)
  have emptied := (c.flushTo_fill .acquire (.inr rfl)).1
  unfold Context.sequenced
  dsimp only
  split
  · exact .first range now ok flushed emptied
  · next unset _ => exact .first range now ok h (h.unset unset)
  · split
    · exact h.inOrder range now _
    · split
      · exact .first range now ok (flushed.of_same rfl rfl rfl rfl id) emptied
      · exact h.of_same rfl rfl rfl rfl id

/-- A stream within its ranges and its bounds. -/
def Stream.Bounded (t : Stream) : Prop := t.entry.InRange ∧ t.ctx.Bounded

theorem Stream.Bounded.media {t : Stream} (h : t.Bounded) (now : BitVec 48) (content : List Byte) :
    (t.media now content).Bounded := by
  obtain ⟨range, bounded⟩ := h
  unfold Stream.media
  split
  · exact ⟨range, bounded.of_same rfl rfl rfl rfl id⟩
  · refine ⟨range, ?_⟩
    dsimp only
    split
    · next ok => exact bounded.sequenced range now ok
    · exact bounded.of_same rfl rfl rfl rfl id

/-! ### Conversion and the loop (R29, R31, R34 to R36, R39) -/

theorem Context.Bounded.measure {c : Context} (h : c.Bounded) : c.measure.Bounded := by
  unfold Context.measure
  split
  · exact h.of_same rfl rfl rfl rfl id
  · exact h

/-- A house sample that its filter's frames feed takes three frames at most, and more than eight were there (R29, R30). -/
theorem Context.Bounded.advance {e : StreamEntry} {c : Context} (h : c.Bounded) (converts : c.state.converting = true)
    (present : c.hasFrames e = true) : c.advance.Bounded ∧ c.advance.fill ≤ c.fill := by
  have held : e.taps / 2 < c.fill := of_decide_eq_true present
  have taps : 16 ≤ e.taps := by
    unfold StreamEntry.taps
    split <;> decide
  have states : c.state ≠ .empty ∧ c.state ≠ .acquire := by
    constructor <;> intro st <;> rw [st] at converts <;> cases converts
  obtain ⟨n, le, moved⟩ := position_advance c.pos c.step h.step.1 h.step.2
  have before := Context.fill_counted states.1 states.2
  have after : c.advance.fill = (c.writeIndex - c.advance.position).toNat :=
    Context.fill_counted (c := c.advance) states.1 states.2
  have position : c.advance.position = c.position + BitVec.ofNat 32 n := moved
  rw [position] at after
  have falls : c.advance.fill ≤ c.fill := by
    rw [after]
    rw [before] at held ⊢
    generalize c.position = p at *
    bv_omega
  refine ⟨⟨falls.trans h.fill, h.integrator, h.correction, h.step, fun e => ?_⟩, falls⟩
  have := h.unset e
  omega

theorem Stream.Bounded.houseSample {t : Stream} (h : t.Bounded) : t.houseSample.2.Bounded := by
  obtain ⟨range, bounded⟩ := h
  unfold Stream.houseSample
  dsimp only
  split
  · next converts =>
    split
    · next present =>
      exact ⟨range, .measure ((bounded.advance converts present).1.of_same rfl rfl rfl rfl id)⟩
    · exact ⟨range, .measure (bounded.of_same rfl rfl rfl rfl id)⟩
  · exact ⟨range, bounded⟩

/-- The lock test passes between TRACK and LOCKED, which leaves the fill. -/
theorem Context.Bounded.lockTest {c : Context} (h : c.Bounded) : c.lockTest.Bounded := by
  unfold Context.lockTest
  dsimp only
  split
  · next track =>
    refine h.of_same (Context.fill_between (by simp [track]) ?_ rfl rfl) rfl rfl rfl id
    rcases ite_eq_or_eq (Config.lockUpdates ≤ _) ContextState.locked .track with e | e <;> dsimp only <;> rw [e] <;> decide
  · next locked =>
    split
    · exact h.of_same (Context.fill_between (by simp [locked]) (by simp) rfl rfl) rfl rfl rfl id
    · exact h.of_same rfl rfl rfl rfl id
  · exact h

theorem Context.Bounded.loopUpdate {c : Context} (h : c.Bounded) (e : StreamEntry) : (c.loopUpdate e).Bounded := by
  unfold Context.loopUpdate
  dsimp only
  split
  · have integrator (x : Int) : -16777 ≤ clamp x (-Config.loopBound) Config.loopBound ∧
        clamp x (-Config.loopBound) Config.loopBound ≤ 16777 :=
      ⟨le_clamp x _ _ (by decide), clamp_le x _ _ (by decide)⟩
    refine Context.Bounded.of_same (c := Context.lockTest _) (.lockTest ?_) rfl rfl rfl rfl id
    exact ⟨h.fill, integrator _, integrator _, stepOf_bounds _ _ (integrator _).1 (integrator _).2, h.unset⟩
  · exact h

theorem Context.Bounded.gapTimeout {c : Context} (h : c.Bounded) (e : StreamEntry) (now : BitVec 48) :
    (c.gapTimeout e now).Bounded := by
  unfold Context.gapTimeout
  split
  · next due =>
    have loops := due.1
    refine h.of_same (Context.fill_between ?_ (by simp) rfl rfl) rfl rfl rfl id
    constructor <;> intro st <;> rw [st] at loops <;> cases loops
  · exact h

theorem Context.Bounded.holdoverLimit {c : Context} (h : c.Bounded) (e : StreamEntry) (now : BitVec 48) :
    (c.holdoverLimit e now).Bounded := by
  unfold Context.holdoverLimit
  split
  · next due =>
    exact h.of_same (Context.fill_between (by simp [due.1]) (by simp) rfl rfl) rfl rfl rfl id
  · exact h

/-- A context reset leaves the fill and the loop at 0, and the step (R9; log 38). -/
theorem Context.Bounded.restart {c : Context} (h : c.Bounded) (valid : Bool) : (c.restart valid).Bounded := by
  have fill : (c.restart valid).fill = 0 := by cases valid <;> rfl
  have zero : -16777 ≤ (0 : Int) ∧ (0 : Int) ≤ 16777 := by decide
  exact ⟨by omega, zero, zero, h.step, fun _ => fill⟩

/-! ### Entries from orders (R7, R175) -/

/-- A number field that is read lies in its range. -/
theorem rangeAt_bounds {bs : List Byte} {off len lo hi v : Nat} (h : rangeAt bs off len lo hi = some v) :
    lo ≤ v ∧ v ≤ hi := by
  unfold rangeAt at h
  dsimp only at h
  split at h
  · next range => cases h; exact range
  · cases h

/-- A Stream Table entry that an order's contents give lies in the ranges of Table 1-3. -/
theorem readStream_inRange {bs : List Byte} {e : StreamEntry} (h : readStream bs = some e) : e.InRange := by
  unfold readStream at h
  simp only [Option.bind_eq_bind, Option.bind_eq_some_iff] at h
  obtain ⟨_, _, _, _, lanes, hl, first, hf, _, _, target, ht, _, _, _, _, gap, hg, limit, hh, gp, hp, gi, hi, e⟩ := h
  cases e
  exact ⟨rangeAt_bounds hl, (rangeAt_bounds hf).2, rangeAt_bounds ht, rangeAt_bounds hg, rangeAt_bounds hh,
    (rangeAt_bounds hp).2, (rangeAt_bounds hi).2⟩

theorem StreamEntry.powerOn_inRange : StreamEntry.powerOn.InRange := by constructor <;> decide

theorem NewEntry.FromOrder.stream_inRange {e : StreamEntry} (h : (NewEntry.stream e).FromOrder) : e.InRange := by
  rcases h with ⟨table, bs, h⟩ | ⟨s, table, i, h⟩
  · cases table <;> simp [Machine.readEntry] at h
    exact readStream_inRange h
  · cases table <;> simp [State.clearedEntry] at h
    exact h ▸ StreamEntry.powerOn_inRange

/-! ### Which acts touch the streams and the Latency Table -/

/-- `t` holds the streams and the Latency Table of `s`. -/
def State.SameNames (s t : State) : Prop := t.streams = s.streams ∧ t.latencies = s.latencies

theorem State.SameNames.trans {s t u : State} (h : s.SameNames t) (k : t.SameNames u) : s.SameNames u :=
  ⟨k.1.trans h.1, k.2.trans h.2⟩

theorem State.sameNames_bringIn (old : ProgramEntry) (p : Fin 16) (s : State) : s.SameNames (s.bringIn old p) := by
  rw [State.bringIn_rest]
  exact ⟨rfl, rfl⟩

theorem State.sameNames_meterUpdate (p : Fin 16) (s : State) : s.SameNames (s.meterUpdate p) := by
  rw [State.meterUpdate_rest]
  exact ⟨rfl, rfl⟩

theorem State.sameNames_packetComplete (p : Fin 16) (s : State) : s.SameNames (s.packetComplete p) := by
  rw [State.packetComplete_rest]
  exact ⟨rfl, rfl⟩

theorem State.sameNames_completeDeferred (mine : Order → Bool) (s : State) : s.SameNames (s.completeDeferred mine) := by
  rcases s.completeDeferred_spec mine with e | ⟨_, _, _, _, _, e⟩ <;> rw [e] <;> exact ⟨rfl, rfl⟩

theorem State.sameNames_swapBanks (s : State) : s.SameNames s.swapBanks :=
  s.swapBanks_induct (P := s.SameNames) ⟨rfl, rfl⟩
    (fun p t h => h.trans (t.sameNames_meterUpdate p)) (fun p t h => h.trans (t.sameNames_packetComplete p))
    (fun _ h => h) (fun old p t h => h.trans (t.sameNames_bringIn old p))
    fun mine t h => h.trans (t.sameNames_completeDeferred mine)

theorem State.sameNames_egressChoice (s : State) : s.SameNames s.egressChoice := by
  unfold State.egressChoice
  split
  · split
    · next t e =>
      unfold State.chooseMedia at e
      split at e <;> cases e
      exact ⟨rfl, rfl⟩
    · cases e : s.chooseOther with
      | none => exact ⟨rfl, rfl⟩
      | some t =>
        obtain ⟨c, -, e⟩ := List.exists_of_findSome?_eq_some e
        obtain ⟨⟨f, u⟩, head, rfl⟩ := Option.map_eq_some_iff.mp e
        unfold State.takeHead at head
        split at head <;> split at head <;> cases head <;> exact ⟨rfl, rfl⟩
  · exact ⟨rfl, rfl⟩

theorem State.sameNames_frameEnd (s : State) : s.SameNames s.frameEnd := by
  unfold State.frameEnd
  split
  · split <;> exact ⟨rfl, rfl⟩
  · exact ⟨rfl, rfl⟩

theorem State.sameNames_offerOrder (o : Order) (s : State) : s.SameNames (s.offerOrder o) := by
  rw [State.offerOrder_rest]
  exact ⟨rfl, rfl⟩

theorem State.sameNames_passIf (switch : Bool) (frame : List Byte) (s : State) : s.SameNames (s.passIf switch frame) := by
  unfold State.passIf
  split
  · rw [State.offerPass_rest]
    exact ⟨rfl, rfl⟩
  · exact ⟨rfl, rfl⟩

/-- An evaluation zeroes the event counts of the streams, and reads the rest (R142). -/
theorem State.evaluate_names (s : State) :
    s.evaluate.latencies = s.latencies ∧
    (s.evaluate.streams = s.streams ∨ s.evaluate.streams = s.zeroEventCounts.streams) := by
  unfold State.evaluate
  split
  · have voted : s.zeroEventCounts.SameNames
        ({ s with triggers := s.stepTriggers.triggers, evaluationDue := false } : State).zeroEventCounts.applyVotes := by
      rw [State.applyVotes_rest]
      exact ⟨rfl, rfl⟩
    have noted : s.zeroEventCounts.SameNames
        (State.offerStepNotices s.triggers
          ({ s with triggers := s.stepTriggers.triggers, evaluationDue := false } : State).zeroEventCounts.applyVotes) := by
      unfold State.offerStepNotices
      refine List.foldlRecOn _ _ voted fun t ht i _ => ?_
      split
      · rw [State.offerNotice_rest]
        exact ht
      · exact ht
    exact ⟨noted.2, .inr noted.1⟩
  · exact ⟨rfl, .inl rfl⟩

/-- A write touches a stream or a Latency Table entry where it is a write of one. -/
theorem State.sameNames_writeEntry (which : Bank) (i : Nat) (n : NewEntry) (s : State) :
    (∃ e, n = .stream e) ∨ (∃ w, n = .latency w) ∨ s.SameNames (s.writeEntry which i n).2 := by
  cases n with
  | settings c => exact .inr (.inr ⟨rfl, rfl⟩)
  | stream e => exact .inl ⟨e, rfl⟩
  | program e =>
    refine .inr (.inr ?_)
    have stored (p : Fin 16) : s.SameNames (s.setBankEntry which p e) := by cases which <;> exact ⟨rfl, rfl⟩
    simp only [State.writeEntry, State.writeProgram]
    split
    · split
      · exact ⟨rfl, rfl⟩
      · exact (stored _).trans (State.sameNames_bringIn _ _ _)
    · exact stored _
  | egress e =>
    refine .inr (.inr ?_)
    simp only [State.writeEntry, State.writeEgress]
    split
    · exact ⟨rfl, rfl⟩
    · rw [State.recompute_rest]
      exact ⟨rfl, rfl⟩
  | latency w => exact .inr (.inl ⟨w, rfl⟩)
  | trigger e =>
    refine .inr (.inr ?_)
    simp only [State.writeEntry, State.tryTrigger]
    split
    · exact ⟨rfl, rfl⟩
    · unfold State.writeTrigger
      dsimp only
      rw [State.applyVotes_rest]
      dsimp only
      split
      · rw [State.offerNotice_rest]
        exact ⟨rfl, rfl⟩
      · exact ⟨rfl, rfl⟩

/-! ### The bounds of the streams, act by act -/

theorem State.StreamsBounded.of_streams {s t : State} (h : s.StreamsBounded) (e : t.streams = s.streams) :
    t.StreamsBounded := by
  unfold State.StreamsBounded
  rw [e]
  exact h

theorem State.StreamsBounded.of_same {s t : State} (h : s.StreamsBounded) (same : s.SameNames t) : t.StreamsBounded :=
  h.of_streams same.1

/-- Replacing one stream keeps the bounds where the new one lies within them. -/
theorem State.StreamsBounded.modifyStream {s : State} (h : s.StreamsBounded) (i : Fin 32) (f : Stream → Stream)
    (bounded : s.streams[i].Bounded → (f s.streams[i]).Bounded) : (s.modifyStream i f).StreamsBounded := by
  intro j
  by_cases e : j = i
  · subst e
    rw [State.modifyStream_self]
    exact bounded (h j)
  · rw [State.modifyStream_other _ _ _ _ e]
    exact h j

theorem State.StreamsBounded.modifyContext {s : State} (h : s.StreamsBounded) (i : Fin 32) (f : Context → Context)
    (bounded : s.streams[i].ctx.Bounded → (f s.streams[i].ctx).Bounded) : (s.modifyContext i f).StreamsBounded :=
  h.modifyStream i _ fun b => ⟨b.1, bounded b.2⟩

theorem State.StreamsBounded.map {s t : State} (h : s.StreamsBounded) (f : Stream → Stream)
    (e : t.streams = s.streams.map f) (bounded : ∀ x : Stream, x.Bounded → (f x).Bounded) : t.StreamsBounded := by
  intro i
  have : t.streams[i] = f s.streams[i] := by simp [e]
  rw [this]
  exact bounded _ (h i)

theorem State.StreamsBounded.receive (frame : List Byte) (s : State) (h : s.StreamsBounded) :
    (s.receive frame).StreamsBounded := by
  unfold State.receive
  split
  · exact h.of_same ((s.sameNames_offerOrder _).trans (State.sameNames_passIf _ _ _))
  · exact h.of_streams rfl
  · exact h.of_streams (by rw [State.offerPass_rest])
  · exact h.of_streams ((State.sameNames_passIf _ _ _).1.trans (by rw [State.latencyReport_rest]))
  · exact h.modifyStream _ _ fun b => b.media _ _
  · exact h.of_same (State.sameNames_passIf _ _ _)
  · exact h.of_same (State.sameNames_passIf _ _ _)

theorem State.StreamsBounded.evaluate (s : State) (h : s.StreamsBounded) : s.evaluate.StreamsBounded := by
  obtain ⟨-, same | zeroed⟩ := s.evaluate_names
  · exact h.of_streams same
  · exact h.map _ zeroed fun x b => ⟨b.1, b.2.of_same rfl rfl rfl rfl id⟩

/-- Storing an entry replaces its stream, and computes the programs again. -/
theorem State.storeStream_names (i : Fin 32) (e : StreamEntry) (s : State) :
    (s.modifyStream i fun t => ⟨e, t.ctx.restart e.valid⟩).SameNames (s.storeStream i e) := by
  unfold State.storeStream
  rw [State.recomputeAll_rest]
  exact ⟨rfl, rfl⟩

theorem State.StreamsBounded.storeStream {s : State} (h : s.StreamsBounded) (i : Fin 32) {e : StreamEntry}
    (range : e.InRange) : (s.storeStream i e).StreamsBounded :=
  (h.modifyStream i (fun t => ⟨e, t.ctx.restart e.valid⟩) fun b => ⟨range, b.2.restart _⟩).of_same
    (s.storeStream_names i e)

theorem State.StreamsBounded.writeEntry (which : Bank) (i : Nat) (n : NewEntry) (s : State) (from_ : n.FromOrder)
    (h : s.StreamsBounded) : (s.writeEntry which i n).2.StreamsBounded := by
  rcases s.sameNames_writeEntry which i n with ⟨e, rfl⟩ | ⟨w, rfl⟩ | same
  · simp only [State.writeEntry, State.writeStream]
    split
    · exact h
    · exact h.storeStream _ from_.stream_inRange
  · simp only [State.writeEntry, State.tryLatency]
    split
    · exact h
    · exact h.of_streams (by rw [State.writeLatency_rest])
  · exact h.of_same same

theorem State.StreamsBounded.afterReading (table : Table) (i : Nat) (s : State) (h : s.StreamsBounded) :
    (s.afterReading table i).StreamsBounded := by
  refine State.StreamsBounded.of_streams (s := s.readEffect table i) ?_ rfl
  cases table with
  | streamStatus => exact h.modifyContext _ _ fun b => b.of_same rfl rfl rfl rfl id
  | _ => exact h.of_streams rfl

theorem State.StreamsBounded.reset (settings : Settings) (straps : Byte) (s : State) :
    (s.resetKeeping settings straps).StreamsBounded := by
  intro i
  have : (s.resetKeeping settings straps).streams[i] = Stream.reset := by simp [State.resetKeeping, State.reset]
  rw [this]
  exact ⟨StreamEntry.powerOn_inRange, by constructor <;> decide⟩

/-- Every act keeps every stream within its bounds. -/
theorem State.StreamsBounded.kept : Kept State.StreamsBounded where
  pending _ _ h := h
  house _ _ h := h
  evaluationDue _ _ h := h
  ready _ _ h := h
  receive := State.StreamsBounded.receive
  loopUpdate i s h := h.modifyContext i _ fun b => b.loopUpdate _
  gapTimeout i s h := h.modifyContext i _ fun b => b.gapTimeout _ _
  holdoverLimit i s h := h.modifyContext i _ fun b => b.holdoverLimit _ _
  expire _ _ _ h := h
  meterUpdate p s h := h.of_same (s.sameNames_meterUpdate p)
  packetComplete p s h := h.of_same (s.sameNames_packetComplete p)
  fadeOutEnd _ _ h := h
  fadeInEnd _ _ _ _ h := h
  quietWaitExpiry _ _ _ h := h
  evaluate := State.StreamsBounded.evaluate
  egressChoice s h := h.of_same s.sameNames_egressChoice
  frameEnd s h := h.of_same s.sameNames_frameEnd
  swapBanks s h := h.of_same s.sameNames_swapBanks
  convertAll s h := h.map (fun t => t.houseSample.2) rfl fun _ b => b.houseSample
  ageEntries _ h := h
  syncFallback p s h := h.of_streams (by rw [State.syncFallback_rest])
  programSample p s h := h.of_streams (by rw [State.programSample_rest])
  withoutTaken _ h := h
  answer _ _ _ _ _ _ h _ := h
  deferOrder _ h _ := h
  record _ _ _ _ h := h
  afterReading := State.StreamsBounded.afterReading
  writeEntry := State.StreamsBounded.writeEntry
  startProgram p s h := h.of_streams (by rw [State.startProgram_rest])
  stopProgram p s h := h.of_streams (by rw [State.stopProgram_rest])
  allocateDelay p r s h := h.of_streams (by rw [State.allocateDelay_rest])
  releaseDelay p s h := h.of_streams (by rw [State.releaseDelay_rest])
  resetStream i s h := h.storeStream i (h i).1
  resetIntegration _ _ h := h
  acknowledge which s h := by cases which <;> exact h
  sendLatency _ _ h := h
  reset settings straps s _ := State.StreamsBounded.reset settings straps s

/-- Settles O55: each act of a step keeps every stream's context within its bounds. -/
theorem stepKeepsStreamsBounded : Obligations.StepKeepsStreamsBounded :=
  State.StreamsBounded.kept.step

end Sys2Proof.Machine
end

section
/-! Stream keys, lane slots and reporter ids are unique among the valid entries (R8, R116). -/

namespace Sys2Proof.Machine

theorem State.NamesUnique.of_same {s t : State} (h : s.NamesUnique) (same : s.SameNames t) : t.NamesUnique := by
  obtain ⟨streams, latencies⟩ := same
  constructor
  · rw [streams]; exact h.keys
  · rw [streams]; exact h.slots
  · rw [latencies]; exact h.reporters

/-! ### The Stream Table (R8) -/

/-- Only the entries of the streams bear their names. -/
theorem State.NamesUnique.of_entries {s t : State} (h : s.NamesUnique)
    (entries : ∀ i : Fin 32, t.streams[i].entry = s.streams[i].entry) (latencies : t.latencies = s.latencies) :
    t.NamesUnique := by
  constructor
  · intro i j
    rw [entries i, entries j]
    exact h.keys i j
  · intro i j k
    rw [entries i, entries j]
    exact h.slots i j k
  · rw [latencies]; exact h.reporters

theorem State.modifyStream_entry (s : State) (i j : Fin 32) (f : Stream → Stream) (keep : ∀ t, (f t).entry = t.entry) :
    (s.modifyStream i f).streams[j].entry = s.streams[j].entry := by
  by_cases e : j = i
  · subst e; rw [State.modifyStream_self, keep]
  · rw [State.modifyStream_other _ _ _ _ e]

theorem State.NamesUnique.modifyStream {s : State} (h : s.NamesUnique) (i : Fin 32) (f : Stream → Stream)
    (keep : ∀ t, (f t).entry = t.entry) : (s.modifyStream i f).NamesUnique :=
  h.of_entries (fun j => s.modifyStream_entry i j f keep) rfl

theorem State.NamesUnique.modifyContext {s : State} (h : s.NamesUnique) (i : Fin 32) (f : Context → Context) :
    (s.modifyContext i f).NamesUnique :=
  h.modifyStream i _ fun _ => rfl

theorem State.NamesUnique.map {s t : State} (h : s.NamesUnique) (f : Stream → Stream)
    (e : t.streams = s.streams.map f) (keep : ∀ x, (f x).entry = x.entry) (latencies : t.latencies = s.latencies) :
    t.NamesUnique :=
  h.of_entries (fun i => by simp [e, keep]) latencies

theorem Stream.media_entry (now : BitVec 48) (content : List Byte) (t : Stream) :
    (t.media now content).entry = t.entry := by
  unfold Stream.media
  split <;> rfl

theorem Stream.houseSample_entry (t : Stream) : t.houseSample.2.entry = t.entry := by
  unfold Stream.houseSample
  dsimp only
  split
  · split <;> rfl
  · rfl

theorem StreamEntry.conflicts_iff (e f : StreamEntry) :
    e.conflicts f = true ↔ e.valid = true ∧ f.valid = true ∧
      (e.key = f.key ∨ (e.first < f.first + f.lanes ∧ f.first < e.first + e.lanes)) := by
  simp [StreamEntry.conflicts, and_assoc]

theorem StreamEntry.covers_iff (e : StreamEntry) (k : Nat) :
    e.covers k = true ↔ e.valid = true ∧ e.first ≤ k ∧ k < e.first + e.lanes := by
  simp [StreamEntry.covers, and_assoc]

/-- Two entries that are not both valid, or hold different keys and cover no slot together (R8). -/
def StreamEntry.Apart (e f : StreamEntry) : Prop :=
  (e.valid = true → f.valid = true → e.key ≠ f.key) ∧ ∀ k, e.covers k = true → f.covers k = false

theorem StreamEntry.Apart.symm {e f : StreamEntry} (h : e.Apart f) : f.Apart e := by
  refine ⟨fun vf ve => (h.1 ve vf).symm, fun k cf => ?_⟩
  by_contra ce
  rw [h.2 k (Bool.eq_true_of_not_eq_false ce)] at cf
  cases cf

/-- Entries that do not conflict are apart; the other way round an entry without lanes would conflict within the slots of
another. -/
theorem StreamEntry.apart_of_not_conflicts {e f : StreamEntry} (h : e.conflicts f ≠ true) : e.Apart f := by
  rw [ne_eq, StreamEntry.conflicts_iff] at h
  refine ⟨fun ve vf key => h ⟨ve, vf, .inl key⟩, fun k ce => ?_⟩
  by_contra cf
  obtain ⟨ve, le, lt⟩ := (e.covers_iff k).mp ce
  obtain ⟨vf, lf, mf⟩ := (f.covers_iff k).mp (Bool.eq_true_of_not_eq_false cf)
  exact h ⟨ve, vf, .inr ⟨by omega, by omega⟩⟩

theorem State.namesUnique_iff (s : State) :
    s.NamesUnique ↔ (∀ i j : Fin 32, i ≠ j → s.streams[i].entry.Apart s.streams[j].entry) ∧
      ∀ i j : Fin 64, i ≠ j → s.latencies[i].valid = true → s.latencies[j].valid = true →
        s.latencies[i].reporter ≠ s.latencies[j].reporter :=
  ⟨fun h => ⟨fun i j ne => ⟨h.keys i j ne, fun k => h.slots i j k ne⟩, h.reporters⟩,
    fun ⟨apart, reporters⟩ => ⟨fun i j ne => (apart i j ne).1, fun i j k ne => (apart i j ne).2 k, reporters⟩⟩

/-- Storing an entry that is apart from every other one keeps the names unique. -/
theorem State.NamesUnique.storeStream {s : State} (h : s.NamesUnique) (i : Fin 32) (e : StreamEntry)
    (free : ∀ j : Fin 32, j ≠ i → e.Apart s.streams[j].entry) : (s.storeStream i e).NamesUnique := by
  refine State.NamesUnique.of_same ?_ (s.storeStream_names i e)
  rw [State.namesUnique_iff] at h ⊢
  refine ⟨fun a b ne => ?_, h.2⟩
  by_cases ha : a = i
  · subst ha
    rw [State.modifyStream_self, State.modifyStream_other _ _ _ _ ne.symm]
    exact free b ne.symm
  · rw [State.modifyStream_other _ _ _ _ ha]
    by_cases hb : b = i
    · subst hb
      rw [State.modifyStream_self]
      exact (free a ha).symm
    · rw [State.modifyStream_other _ _ _ _ hb]
      exact h.1 a b ne

/-- The test of R8 finds an entry that reaches beyond the slots, or conflicts with another one. -/
theorem State.streamRefused_iff (s : State) (i : Fin 32) (e : StreamEntry) :
    s.streamRefused i e = true ↔
      127 < e.first + e.lanes - 1 ∨ ∃ j : Fin 32, j ≠ i ∧ e.conflicts s.streams[j].entry = true := by
  simp [State.streamRefused]

theorem State.NamesUnique.writeStream {s : State} (h : s.NamesUnique) (i : Fin 32) (e : StreamEntry) :
    (s.writeStream i e).2.NamesUnique := by
  unfold State.writeStream
  split
  · exact h
  · next passes =>
    rw [State.streamRefused_iff] at passes
    exact h.storeStream i e fun j ne => StreamEntry.apart_of_not_conflicts fun c => passes (.inr ⟨j, ne, c⟩)

/-! ### The Latency Table (R116) -/

/-- Replacing a Latency Table entry keeps the names unique where no other valid entry bears the new one's reporter id. -/
theorem State.NamesUnique.modifyLatency {s : State} (h : s.NamesUnique) (i : Fin 64) (f : LatencyEntry → LatencyEntry)
    (free : ∀ j : Fin 64, j ≠ i → (f s.latencies[i]).valid = true → s.latencies[j].valid = true →
      (f s.latencies[i]).reporter ≠ s.latencies[j].reporter) : (s.modifyLatency i f).NamesUnique := by
  refine ⟨h.keys, h.slots, fun a b ne va vb => ?_⟩
  by_cases ha : a = i
  · subst ha
    rw [State.modifyLatency_self] at va ⊢
    rw [State.modifyLatency_other _ _ _ _ ne.symm] at vb ⊢
    exact free b ne.symm va vb
  · rw [State.modifyLatency_other _ _ _ _ ha] at va ⊢
    by_cases hb : b = i
    · subst hb
      rw [State.modifyLatency_self] at vb ⊢
      exact (free a ha vb va).symm
    · rw [State.modifyLatency_other _ _ _ _ hb] at vb ⊢
      exact h.reporters a b ne va vb

/-- An entry that stays as valid as it was and keeps its reporter id brings no new name. -/
theorem State.NamesUnique.renewLatency {s : State} (h : s.NamesUnique) (i : Fin 64) (f : LatencyEntry → LatencyEntry)
    (keep : ∀ e, (f e).valid = e.valid ∧ (f e).reporter = e.reporter) : (s.modifyLatency i f).NamesUnique :=
  h.modifyLatency i f fun j ne vf vj => by
    rw [(keep _).1] at vf
    rw [(keep _).2]
    exact h.reporters i j ne.symm vf vj

theorem LatencyEntry.report_keeps (micros : Nat) (e : LatencyEntry) :
    (e.report micros).valid = e.valid ∧ (e.report micros).reporter = e.reporter := by
  unfold LatencyEntry.report
  dsimp only
  split
  · split <;> exact ⟨rfl, rfl⟩
  · exact ⟨rfl, rfl⟩

theorem LatencyEntry.expire_keeps (timeout : Nat) (e : LatencyEntry) :
    (e.expire timeout).valid = e.valid ∧ (e.expire timeout).reporter = e.reporter := by
  unfold LatencyEntry.expire
  split <;> exact ⟨rfl, rfl⟩

theorem LatencyEntry.older_keeps (e : LatencyEntry) : e.older.valid = e.valid ∧ e.older.reporter = e.reporter := by
  unfold LatencyEntry.older
  split <;> exact ⟨rfl, rfl⟩

theorem State.sameNames_recomputeNaming (i : Fin 64) (s : State) : s.SameNames (s.recomputeNaming i) := by
  rw [State.recomputeNaming_rest]
  exact ⟨rfl, rfl⟩

/-- A report is learned only where no valid entry bears its reporter id (R118). -/
theorem State.NamesUnique.latencyReport {s : State} (h : s.NamesUnique) (reporter : BitVec 32) (micros : Nat) :
    (s.latencyReport reporter micros).NamesUnique := by
  unfold State.latencyReport
  split
  · next i _ =>
    have reported := h.renewLatency i (·.report micros) (LatencyEntry.report_keeps micros)
    dsimp only
    split
    · exact reported
    · exact reported.of_same (State.sameNames_recomputeNaming i _)
  · next unknown =>
    rw [List.find?_eq_none] at unknown
    split
    · next i _ =>
      split
      · refine State.NamesUnique.of_same (h.modifyLatency i (fun _ => .learned reporter micros) fun j _ _ vj same => ?_)
          (State.sameNames_recomputeNaming i _)
        exact unknown j (List.mem_finRange j) (by simp only [vj, ← same, LatencyEntry.learned]; simp)
      · exact h.of_same ⟨rfl, rfl⟩
    · exact h.of_same ⟨rfl, rfl⟩

theorem State.latencyConflict_iff (s : State) (i : Fin 64) (w : LatencyWrite) :
    s.latencyConflict i w = true ↔
      w.valid = true ∧ ∃ j : Fin 64, j ≠ i ∧ s.latencies[j].valid = true ∧ s.latencies[j].reporter = w.reporter := by
  simp [State.latencyConflict, and_assoc]

theorem State.NamesUnique.tryLatency {s : State} (h : s.NamesUnique) (i : Fin 64) (w : LatencyWrite) :
    (s.tryLatency i w).2.NamesUnique := by
  unfold State.tryLatency
  split
  · exact h
  · next passes =>
    rw [State.latencyConflict_iff] at passes
    have stored := h.modifyLatency i (·.written w) fun j ne vw vj same => passes ⟨vw, j, ne, vj, same.symm⟩
    unfold State.writeLatency
    dsimp only
    split
    · exact stored
    · exact stored.of_same (State.sameNames_recomputeNaming i _)

/-! ### The names, act by act -/

theorem State.NamesUnique.receive (frame : List Byte) (s : State) (h : s.NamesUnique) : (s.receive frame).NamesUnique := by
  unfold State.receive
  split
  · exact h.of_same ((s.sameNames_offerOrder _).trans (State.sameNames_passIf _ _ _))
  · exact h.of_same ⟨rfl, rfl⟩
  · exact h.of_same (s.sameNames_passIf true frame)
  · exact (h.latencyReport _ _).of_same (State.sameNames_passIf _ _ _)
  · exact h.modifyStream _ _ (Stream.media_entry _ _)
  · exact h.of_same (State.sameNames_passIf _ _ _)
  · exact h.of_same (State.sameNames_passIf _ _ _)

theorem State.NamesUnique.evaluate (s : State) (h : s.NamesUnique) : s.evaluate.NamesUnique := by
  obtain ⟨latencies, same | zeroed⟩ := s.evaluate_names
  · exact h.of_same ⟨same, latencies⟩
  · exact h.map _ zeroed (fun _ => rfl) latencies

theorem State.NamesUnique.ageEntries (s : State) (h : s.NamesUnique) : s.ageEntries.NamesUnique := by
  refine ⟨h.keys, h.slots, fun i j ne => ?_⟩
  have aged (i : Fin 64) : s.ageEntries.latencies[i] = s.latencies[i].older := by simp [State.ageEntries]
  rw [aged, aged, (LatencyEntry.older_keeps _).1, (LatencyEntry.older_keeps _).1, (LatencyEntry.older_keeps _).2,
    (LatencyEntry.older_keeps _).2]
  exact h.reporters i j ne

theorem State.NamesUnique.writeEntry (which : Bank) (i : Nat) (n : NewEntry) (s : State) (h : s.NamesUnique) :
    (s.writeEntry which i n).2.NamesUnique := by
  rcases s.sameNames_writeEntry which i n with ⟨e, rfl⟩ | ⟨w, rfl⟩ | same
  · exact h.writeStream _ e
  · exact h.tryLatency _ w
  · exact h.of_same same

theorem State.NamesUnique.afterReading (table : Table) (i : Nat) (s : State) (h : s.NamesUnique) :
    (s.afterReading table i).NamesUnique := by
  refine State.NamesUnique.of_same (s := s.readEffect table i) ?_ ⟨rfl, rfl⟩
  cases table with
  | streamStatus => exact h.modifyContext _ _
  | latency => exact h.renewLatency _ (fun e => { e with changed := false }) fun _ => ⟨rfl, rfl⟩
  | _ => exact h.of_same ⟨rfl, rfl⟩

theorem State.NamesUnique.reset (settings : Settings) (straps : Byte) (s : State) :
    (s.resetKeeping settings straps).NamesUnique := by
  have entry (i : Fin 32) : (s.resetKeeping settings straps).streams[i].entry = .powerOn := by
    simp [State.resetKeeping, State.reset, Stream.reset]
  have latency (i : Fin 64) : (s.resetKeeping settings straps).latencies[i] = .powerOn := by
    simp [State.resetKeeping, State.reset]
  rw [State.namesUnique_iff]
  refine ⟨fun i j _ => ?_, fun i j _ v => ?_⟩
  · rw [entry, entry]
    exact ⟨nofun, fun k covered => by cases ((StreamEntry.covers_iff _ _).mp covered).1⟩
  · rw [latency] at v
    cases v

/-- Every act keeps the names unique. -/
theorem State.NamesUnique.kept : Kept State.NamesUnique where
  pending _ _ h := h.of_same ⟨rfl, rfl⟩
  house _ _ h := h.of_same ⟨rfl, rfl⟩
  evaluationDue _ _ h := h.of_same ⟨rfl, rfl⟩
  ready _ _ h := h.of_same ⟨rfl, rfl⟩
  receive := State.NamesUnique.receive
  loopUpdate i _ h := h.modifyContext i _
  gapTimeout i _ h := h.modifyContext i _
  holdoverLimit i _ h := h.modifyContext i _
  expire timeout i _ h := h.renewLatency i _ (LatencyEntry.expire_keeps timeout)
  meterUpdate p s h := h.of_same (s.sameNames_meterUpdate p)
  packetComplete p s h := h.of_same (s.sameNames_packetComplete p)
  fadeOutEnd _ _ h := h.of_same ⟨rfl, rfl⟩
  fadeInEnd _ _ _ _ h := h.of_same ⟨rfl, rfl⟩
  quietWaitExpiry _ _ _ h := h.of_same ⟨rfl, rfl⟩
  evaluate := State.NamesUnique.evaluate
  egressChoice s h := h.of_same s.sameNames_egressChoice
  frameEnd s h := h.of_same s.sameNames_frameEnd
  swapBanks s h := h.of_same s.sameNames_swapBanks
  convertAll _ h := h.map (fun t => t.houseSample.2) rfl Stream.houseSample_entry rfl
  ageEntries := State.NamesUnique.ageEntries
  syncFallback p s h := h.of_same (by rw [State.syncFallback_rest]; exact ⟨rfl, rfl⟩)
  programSample p s h := h.of_same (by rw [State.programSample_rest]; exact ⟨rfl, rfl⟩)
  withoutTaken _ h := h.of_same ⟨rfl, rfl⟩
  answer _ _ _ _ _ _ h _ := h.of_same ⟨rfl, rfl⟩
  deferOrder _ h _ := h.of_same ⟨rfl, rfl⟩
  record _ _ _ _ h := h.of_same ⟨rfl, rfl⟩
  afterReading := State.NamesUnique.afterReading
  writeEntry which i n s _ h := h.writeEntry which i n s
  startProgram p s h := h.of_same (by rw [State.startProgram_rest]; exact ⟨rfl, rfl⟩)
  stopProgram p s h := h.of_same (by rw [State.stopProgram_rest]; exact ⟨rfl, rfl⟩)
  allocateDelay p r s h := h.of_same (by rw [State.allocateDelay_rest]; exact ⟨rfl, rfl⟩)
  releaseDelay p s h := h.of_same (by rw [State.releaseDelay_rest]; exact ⟨rfl, rfl⟩)
  resetStream i s h := h.storeStream i _ fun j ne => ⟨h.keys i j ne.symm, fun k => h.slots i j k ne.symm⟩
  resetIntegration _ _ h := h.of_same ⟨rfl, rfl⟩
  acknowledge which _ h := h.of_same (by cases which <;> exact ⟨rfl, rfl⟩)
  sendLatency _ _ h := h.of_same ⟨rfl, rfl⟩
  reset settings straps s _ := State.NamesUnique.reset settings straps s

/-- Settles O56: a write that brings a name held elsewhere is refused, and a report is learned under a new one only. -/
theorem stepKeepsNamesUnique : Obligations.StepKeepsNamesUnique :=
  State.NamesUnique.kept.step

end Sys2Proof.Machine
end

section
/-! What reset leaves (section After reset of each chapter), and that it meets the laws of every moment. -/

namespace Sys2Proof.Machine

/-! ### Each part after reset -/

theorem State.reset_stream (i : Fin 32) : State.reset.streams[i] = .reset := by simp [State.reset]
theorem State.reset_slot (k : Fin 128) : State.reset.slots[k] = 0 := by simp [State.reset]
theorem State.reset_program (p : Fin 16) : State.reset.programs[p] = .reset := by simp [State.reset]
theorem State.reset_latency (i : Fin 64) : State.reset.latencies[i] = .powerOn := by simp [State.reset]
theorem State.reset_trigger (i : Fin 48) : State.reset.triggers[i] = .reset := by simp [State.reset]
theorem State.reset_egress (p : Fin 16) : State.reset.egressTable[p] = .powerOn p := by simp [State.reset]

theorem State.reset_bank (which : Bank) (p : Fin 16) : (State.reset.bank which)[p] = .powerOn := by
  cases which <;> simp [State.reset, State.bank]

theorem State.reset_activeEntry (p : Fin 16) : State.reset.activeEntry p = .powerOn := State.reset_bank _ p

theorem State.reset_freeList : State.reset.freeList = List.range 2048 := by simp only [State.reset]

/-- A reset that keeps what reset leaves is reset itself. -/
theorem State.resetKeeping_reset : State.reset.resetKeeping (.powerOn 0) 0 = State.reset := by
  simp only [State.resetKeeping, State.reset]

/-! ### The laws of every moment -/

theorem State.reset_poolPartitioned : State.reset.PoolPartitioned := by
  have rings : (State.reset.programs.toList.flatMap fun g => g.delay.rings.flatten) = [] := by
    simp [State.reset, Program.reset, DelayLine.none]
  unfold State.PoolPartitioned State.blocksHeld
  rw [rings, List.append_nil, State.reset_freeList]

theorem State.reset_noVotes (p : Fin 16) (response : Responses → Bool) :
    (List.finRange 48).countP (State.reset.activeFor p response) = 0 := by
  rw [List.countP_eq_zero]
  intro i _
  have off : State.reset.triggers[i].status.state = .off := by rw [State.reset_trigger]; rfl
  unfold State.activeFor
  rw [off]
  exact Bool.false_ne_true

theorem State.reset_votesCounted : State.reset.VotesCounted := by
  constructor <;> intro p <;> rw [State.reset_noVotes, State.reset_program] <;> rfl

theorem State.reset_followsEntries : State.reset.FollowsEntries := by
  constructor <;> intro p <;> rw [State.reset_program, State.reset_activeEntry] <;> decide

theorem State.reset_gainsLimited : State.reset.GainsLimited where
  entries which p := by rw [State.reset_bank]; constructor <;> decide
  gain p := by rw [State.reset_program, State.reset_activeEntry]; decide
  free p _ := by rw [State.reset_program]; rfl

theorem State.reset_delaysHeld : State.reset.DelaysHeld where
  rings p held := by rw [State.reset_program] at held; exact absurd rfl held
  target p := by rw [State.reset_program]; decide
  actual p := by rw [State.reset_program]; decide
  places p processing := by rw [State.reset_program] at processing; cases processing

/-- Settles O51: a reset leaves every queue empty but for one notice, no name valid, and no program in use. -/
theorem resetMeetsLaws : Obligations.ResetMeetsLaws :=
  ⟨State.resetKeeping_reset ▸ State.QueuesBounded.reset (.powerOn 0) 0 State.reset, State.reset_poolPartitioned,
    Memory.empty_wf, State.resetKeeping_reset ▸ State.StreamsBounded.reset (.powerOn 0) 0 State.reset,
    State.resetKeeping_reset ▸ State.NamesUnique.reset (.powerOn 0) 0 State.reset, State.reset_votesCounted,
    State.reset_followsEntries, State.reset_gainsLimited, State.reset_delaysHeld⟩

/-! ### The values of reset -/

theorem entriesAtPowerOn : EntriesAtPowerOn := ⟨rfl, rfl, rfl, rfl, fun _ => rfl, fun _ => rfl⟩

theorem entriesCleared : EntriesCleared := by
  intro s
  refine ⟨rfl, fun _ => rfl, fun _ => rfl, fun k => ?_, fun _ => rfl, fun _ => rfl, fun t readOnly i => ?_⟩
  · simp [State.clearedEntry]
  · simp only [List.mem_cons, List.not_mem_nil, or_false] at readOnly
    rcases readOnly with rfl | rfl | rfl | rfl | rfl | rfl <;> rfl

theorem streamAtReset : StreamAtReset .reset := by
  refine ⟨rfl, rfl, rfl, rfl, rfl, rfl, rfl, rfl, rfl, rfl, rfl, rfl, rfl, rfl, rfl, rfl, rfl, rfl⟩

theorem meterAtReset : MeterAtReset .reset := by
  refine ⟨fun k => ⟨?_, ?_, ?_⟩, rfl, rfl, rfl, rfl, rfl, fun b => ?_, rfl, rfl⟩
  · simp [Meter.reset, FilterState.zero, StageState.zero]
  · simp [Meter.reset]
  · simp [Meter.reset]
  · simp [Meter.reset]

theorem correctionAtReset : CorrectionAtReset .reset :=
  ⟨rfl, rfl, rfl, rfl, rfl, rfl, rfl, rfl, rfl, rfl, rfl, rfl, rfl⟩

theorem programAtReset : ProgramAtReset .reset :=
  ⟨rfl, rfl, rfl, rfl, rfl, meterAtReset, correctionAtReset, rfl, rfl, rfl, rfl, rfl, rfl, rfl, rfl, rfl, rfl, rfl, rfl,
    rfl, rfl, rfl, rfl, rfl, rfl, rfl⟩

theorem triggerAtReset : TriggerAtReset .reset := ⟨rfl, rfl⟩

/-- Settles O3: each item of the state after reset, table by table. -/
theorem resetValues : Obligations.ResetValues := by
  refine ⟨rfl, rfl, rfl, rfl, rfl, fun i => ?_, fun k => ?_, State.reset_bank, rfl, rfl, fun p => ?_, State.reset_freeList, fun i => ?_,
    fun i => ?_, rfl, rfl, fun p => ?_, rfl, rfl, rfl, rfl, rfl, rfl, rfl, rfl, rfl, rfl, entriesAtPowerOn, entriesCleared⟩
  · rw [State.reset_stream]; exact streamAtReset
  · exact State.reset_slot k
  · rw [State.reset_program]; exact programAtReset
  · exact State.reset_latency i
  · rw [State.reset_trigger]; exact triggerAtReset
  · exact State.reset_egress p

end Sys2Proof.Machine
end

section
/-! Fields of a frame, and the part header in either carrier (R1, R180, R181). -/

namespace Sys2Proof.Machine

/-! ### Fields in bytes -/

theorem bytesToNat_lt (bs : List Byte) : bytesToNat bs < 256 ^ bs.length := by
  induction bs using List.reverseRecOn with
  | nil => simp [bytesToNat]
  | append_singleton bs x ih =>
    rw [bytesToNat_snoc, List.length_append, List.length_singleton, Nat.pow_succ]
    have := x.isLt
    omega

/-- A field of `len` bytes is below `256 ^ len`. -/
theorem fieldAt_lt (bs : List Byte) (off len : Nat) : fieldAt bs off len < 256 ^ len :=
  (bytesToNat_lt _).trans_le (Nat.pow_le_pow_right (by decide) (List.length_take_le _ _))

theorem fieldAt_drop (bs : List Byte) (skip off len : Nat) : fieldAt (bs.drop skip) off len = fieldAt bs (skip + off) len := by
  simp [fieldAt, List.drop_drop]

theorem wordAt_drop (w : Nat) (bs : List Byte) (skip off len : Nat) :
    wordAt w (bs.drop skip) off len = wordAt w bs (skip + off) len := by
  rw [wordAt, fieldAt_drop, wordAt]

/-- A word as wide as its field holds the field's value. -/
theorem wordAt_toNat (bs : List Byte) (off len : Nat) : (wordAt (8 * len) bs off len).toNat = fieldAt bs off len := by
  have lt := fieldAt_lt bs off len
  rw [show 256 = 2 ^ 8 from rfl, ← Nat.pow_mul] at lt
  rw [wordAt, BitVec.toNat_ofNat, Nat.mod_eq_of_lt lt]

/-- Bytes in front of a field are passed over. -/
theorem fieldAt_append_right (front rest : List Byte) (off len : Nat) (h : front.length ≤ off) :
    fieldAt (front ++ rest) off len = fieldAt rest (off - front.length) len := by
  simp [fieldAt, List.drop_append, List.drop_eq_nil_of_le h]

theorem fieldAt_cons (x : Byte) (rest : List Byte) (off len : Nat) (h : 0 < off) :
    fieldAt (x :: rest) off len = fieldAt rest (off - 1) len :=
  fieldAt_append_right [x] rest off len h

theorem fieldAt_first (x : Byte) (rest : List Byte) : fieldAt (x :: rest) 0 1 = x.toNat := by
  simp [fieldAt, bytesToNat]

/-- A number at the front of the bytes is read back. -/
theorem fieldAt_natToBytes (n v : Nat) (rest : List Byte) : fieldAt (natToBytes n v ++ rest) 0 n = v % 256 ^ n := by
  have := fieldAt_append [] (natToBytes n v) rest
  rw [natToBytes_length] at this
  exact this.trans (bytesToNat_natToBytes n v)

/-- A word at the front of the bytes is read back. -/
theorem fieldAt_word (n : Nat) (x : BitVec (8 * n)) (rest : List Byte) :
    fieldAt (natToBytes n x.toNat ++ rest) 0 n = x.toNat := by
  have lt := x.isLt
  rw [Nat.pow_mul] at lt
  rw [fieldAt_natToBytes, Nat.mod_eq_of_lt lt]

theorem drop_natToBytes (n v k : Nat) (rest : List Byte) (h : n ≤ k) :
    (natToBytes n v ++ rest).drop k = rest.drop (k - n) := by
  rw [List.drop_append, List.drop_eq_nil_of_le (by simpa using h), natToBytes_length, List.nil_append]

/-! ### The part header (R1) -/

/-- The path an answer takes back to a frame whose part header starts at `off`. -/
def pathFrom (frame : List Byte) (off : Nat) : ReplyPath :=
  if off = 14 then ⟨.raw, wordAt 48 frame 6 6, 0, 0, 0⟩
  else ⟨.udp, wordAt 48 frame 6 6, wordAt 32 frame 26 4, wordAt 16 frame (off - 8) 2, wordAt 16 frame (off - 6) 2⟩

/-- The part header of a frame where it starts at `off`. -/
def headerFrom (frame : List Byte) (off : Nat) : PartHeader :=
  ⟨fieldAt frame off 1, fieldAt frame (off + 1) 1, wordAt 16 frame (off + 2) 2, frame.drop (off + 4), pathFrom frame off⟩

theorem etherType_iff (frame : List Byte) (type : BitVec 16) :
    wordAt 16 frame 12 2 = type ↔ fieldAt frame 12 2 = type.toNat := by
  rw [← BitVec.toNat_inj]
  exact iff_of_eq (congrArg (· = type.toNat) (wordAt_toNat frame 12 2))

theorem udpTest_iff (own : BitVec 32) (frame : List Byte) :
    udpTest own frame = true ↔
      34 ≤ frame.length ∧ fieldAt frame 12 2 = 0x0800 ∧ fieldAt frame 14 1 / 16 = 4 ∧ 5 ≤ fieldAt frame 14 1 % 16 ∧
      fieldAt frame 23 1 = 17 ∧ fieldAt frame 20 2 % 0x4000 = 0 ∧
      ((own ≠ 0 ∧ fieldAt frame 30 4 = own.toNat) ∨
        (0xE0000000 ≤ fieldAt frame 30 4 ∧ fieldAt frame 30 4 ≤ 0xEFFFFFFF)) := by
  have words : 20 ≤ fieldAt frame 14 1 % 16 * 4 ↔ 5 ≤ fieldAt frame 14 1 % 16 := by omega
  have whole : (fieldAt frame 20 2 / 0x2000 % 2 = 0 ∧ fieldAt frame 20 2 % 0x2000 = 0) ↔ fieldAt frame 20 2 % 0x4000 = 0 := by
    omega
  simp only [udpTest, ipHeaderLength, destinationTaken, Bool.and_eq_true, Bool.or_eq_true, decide_eq_true_eq, words,
    and_assoc, ← whole]

/-- The header tests find the part header at the place of R1, and read it there. -/
theorem partHeader_eq (c : Settings) (frame : List Byte) :
    partHeader c frame = (headerPlace c frame).map (headerFrom frame) := by
  have whole (off place : Nat) (path : ReplyPath) (same : off = place) (from_ : path = pathFrom frame place) :
      headerAt frame off path = (if place + 4 ≤ frame.length then some place else none).map (headerFrom frame) := by
    subst same from_
    unfold headerAt
    split <;> rfl
  unfold partHeader headerPlace
  dsimp only
  by_cases raw : fieldAt frame 12 2 = c.partEtherType.toNat
  · rw [if_pos ((etherType_iff frame _).mpr raw), if_pos raw, ← whole 14 14 _ rfl rfl]
    split
    · unfold headerAt
      rw [if_neg (by omega)]
    · rfl
  · rw [if_neg (fun h => raw ((etherType_iff frame _).mp h)), if_neg raw]
    by_cases udp : udpTest c.ipv4 frame = true
    · have fields := (udpTest_iff c.ipv4 frame).mp udp
      have long := fields.1
      have words : 5 ≤ fieldAt frame 14 1 % 16 := fields.2.2.2.1
      rw [if_neg (by omega), if_pos udp, if_pos fields]
      refine whole _ _ _ (by unfold ipHeaderLength; omega) ?_
      unfold pathFrom ipHeaderLength
      rw [if_neg (by omega), show 14 + fieldAt frame 14 1 % 16 * 4 = 14 + 4 * (fieldAt frame 14 1 % 16) + 8 - 8 by omega,
        show 14 + 4 * (fieldAt frame 14 1 % 16) + 8 - 8 + 2 = 14 + 4 * (fieldAt frame 14 1 % 16) + 8 - 6 by omega]
    · rw [if_neg udp, if_neg (fun h => udp ((udpTest_iff c.ipv4 frame).mpr h))]
      split <;> rfl

/-- A header that is found stands whole in the frame. -/
theorem headerPlace_whole {c : Settings} {frame : List Byte} {off : Nat} (h : headerPlace c frame = some off) :
    14 ≤ off ∧ off + 4 ≤ frame.length := by
  unfold headerPlace at h
  dsimp only at h
  split at h
  · split at h
    · cases h; omega
    · cases h
  · split at h
    · split at h
      · cases h; omega
      · cases h
    · cases h

/-! ### The class of a frame (R2 to R4) -/

section

variable {s : State} {frame : List Byte} {off : Nat}

/-- A frame in neither carrier is OTHER. -/
theorem State.classify_none (place : headerPlace s.settings frame = none) : s.classify frame = .other := by
  unfold State.classify
  rw [partHeader_eq, place]
  rfl

theorem State.classify_version (place : headerPlace s.settings frame = some off) (version : fieldAt frame off 1 ≠ 1) :
    s.classify frame = .other := by
  unfold State.classify
  rw [partHeader_eq, place]
  exact if_pos version

/-- The classes of a frame of version 1 by its kind. -/
theorem State.classify_kind (place : headerPlace s.settings frame = some off) (version : fieldAt frame off 1 = 1) :
    s.classify frame =
      match fieldAt frame (off + 1) 1 with
      | 1 =>
        match s.streamOf (wordAt 16 frame (off + 2) 2 &&& s.settings.keyMask) with
        | some i => .media i (frame.drop (off + 4))
        | none => .foreign
      | 2 => classifyOrder s.settings (headerFrom frame off)
      | 4 =>
        if off + 13 ≤ frame.length then .latency (wordAt 32 frame (off + 5) 4) (fieldAt frame (off + 9) 4) else .other
      | _ => .other := by
  obtain ⟨-, whole⟩ := headerPlace_whole place
  have long : 9 ≤ (frame.drop (off + 4)).length ↔ off + 13 ≤ frame.length := by
    rw [List.length_drop]; omega
  unfold State.classify
  rw [partHeader_eq, place]
  simp only [Option.map_some, headerFrom, version, ne_eq, not_true, if_false, long, wordAt_drop, fieldAt_drop] <;> rfl

theorem State.classify_media (place : headerPlace s.settings frame = some off) (version : fieldAt frame off 1 = 1)
    (kind : fieldAt frame (off + 1) 1 = 1) :
    s.classify frame =
      match s.streamOf (wordAt 16 frame (off + 2) 2 &&& s.settings.keyMask) with
      | some i => .media i (frame.drop (off + 4))
      | none => .foreign := by
  rw [State.classify_kind place version, kind]
  rfl

theorem State.classify_order (place : headerPlace s.settings frame = some off) (version : fieldAt frame off 1 = 1)
    (kind : fieldAt frame (off + 1) 1 = 2) : s.classify frame = classifyOrder s.settings (headerFrom frame off) := by
  rw [State.classify_kind place version, kind]
  rfl

theorem State.classify_latency (place : headerPlace s.settings frame = some off) (version : fieldAt frame off 1 = 1)
    (kind : fieldAt frame (off + 1) 1 = 4) (long : off + 13 ≤ frame.length) :
    s.classify frame = .latency (wordAt 32 frame (off + 5) 4) (fieldAt frame (off + 9) 4) := by
  rw [State.classify_kind place version, kind]
  exact if_pos long

end

end Sys2Proof.Machine
end

section
/-! What a frame does by its class (Table 1-1, R3 to R5). -/

namespace Sys2Proof.Machine

/-! ### Offers -/

/-- An offer to the pass-through queue, in the words of the statements. -/
theorem State.offerPass_eq (frame : List Byte) (s : State) : s.offerPass frame = offered frame s := by
  unfold State.offerPass offered
  rfl

theorem State.passIf_eq (switch : Bool) (frame : List Byte) (s : State) :
    s.passIf switch frame = if switch = true then offered frame s else s := by
  unfold State.passIf
  rw [State.offerPass_eq]

theorem State.offerOrder_eq (o : Order) (s : State) :
    s.offerOrder o = if s.orders.length < 8 then { s with orders := s.orders ++ [o] }
      else { s with flags := { s.flags with ordersDropped := true } } := by
  unfold State.offerOrder
  rfl

/-! ### Order frames (R4) -/

section

variable {s : State} {frame : List Byte} {off : Nat}

/-- The order that a frame carries behind a part header at `off` (Table 11-3). -/
def orderFrom (frame : List Byte) (off : Nat) : Order :=
  ⟨pathFrom frame off, wordAt 8 frame (off + 5) 1, wordAt 8 frame (off + 6) 1, wordAt 8 frame (off + 7) 1,
    wordAt 8 frame (off + 8) 1, fieldAt frame (off + 9) 2, frame.drop (off + 11), false⟩

theorem readOrder_headerFrom (frame : List Byte) (off : Nat) : readOrder (headerFrom frame off) = orderFrom frame off := by
  simp only [readOrder, headerFrom, orderFrom, wordAt_drop, fieldAt_drop, List.drop_drop]

/-- The tests of an order frame, in the order of R4, on the frame's own bytes. -/
theorem classifyOrder_headerFrom (c : Settings) (frame : List Byte) (off : Nat) :
    classifyOrder c (headerFrom frame off) =
      if frame.length < off + 11 then .shortOrder
      else if wordAt 8 frame (off + 4) 1 = c.unit then
        if wordAt 16 frame (off + 2) 2 = c.managementKey then .order (orderFrom frame off) false else .other
      else if wordAt 8 frame (off + 4) 1 = 255 then
        if wordAt 16 frame (off + 2) 2 = c.managementKey then .order (orderFrom frame off) true else .orderElsewhere
      else .orderElsewhere := by
  have short : (headerFrom frame off).content.length < 7 ↔ frame.length < off + 11 := by
    unfold headerFrom
    rw [List.length_drop]
    omega
  unfold classifyOrder
  rw [readOrder_headerFrom]
  simp only [short]
  simp only [headerFrom, wordAt_drop, Nat.add_zero]
  rfl

variable (place : headerPlace s.settings frame = some off) (version : fieldAt frame off 1 = 1)
  (kind : fieldAt frame (off + 1) 1 = 2)

include place version kind

/-- An order frame shorter than the order header is dropped. -/
theorem exec_shortOrder (short : frame.length < off + 11) :
    exec (.ingressFrame frame) s = .next { s with flags := { s.flags with ordersDropped := true } } := by
  show Host.Outcome.next (s.receive frame) = _
  unfold State.receive
  rw [State.classify_order place version kind, classifyOrder_headerFrom, if_pos short]
  rfl

variable (long : off + 11 ≤ frame.length)

include long

theorem exec_orderHere (unit : wordAt 8 frame (off + 4) 1 = s.settings.unit)
    (key : wordAt 16 frame (off + 2) 2 = s.settings.managementKey) :
    exec (.ingressFrame frame) s = .next (s.offerOrder (orderFrom frame off)) := by
  show Host.Outcome.next (s.receive frame) = _
  unfold State.receive
  rw [State.classify_order place version kind, classifyOrder_headerFrom, if_neg (by omega), if_pos unit, if_pos key]
  rfl

theorem exec_orderEverywhere (unit : wordAt 8 frame (off + 4) 1 = 255)
    (other : wordAt 8 frame (off + 4) 1 ≠ s.settings.unit)
    (key : wordAt 16 frame (off + 2) 2 = s.settings.managementKey) :
    exec (.ingressFrame frame) s = .next (offered frame (s.offerOrder (orderFrom frame off))) := by
  show Host.Outcome.next (s.receive frame) = _
  unfold State.receive
  rw [State.classify_order place version kind, classifyOrder_headerFrom, if_neg (by omega), if_neg other, if_pos unit,
    if_pos key]
  dsimp only
  rw [State.passIf_eq]
  rfl

theorem exec_orderElsewhere (other : wordAt 8 frame (off + 4) 1 ≠ s.settings.unit)
    (elsewhere : wordAt 8 frame (off + 4) 1 ≠ 255 ∨ wordAt 16 frame (off + 2) 2 ≠ s.settings.managementKey) :
    exec (.ingressFrame frame) s = .next (offered frame s) := by
  show Host.Outcome.next (s.receive frame) = _
  unfold State.receive
  rw [State.classify_order place version kind, classifyOrder_headerFrom, if_neg (by omega), if_neg other]
  by_cases unit : wordAt 8 frame (off + 4) 1 = 255
  · rw [if_pos unit, if_neg (elsewhere.resolve_left (not_not_intro unit))]
    exact congrArg _ (s.offerPass_eq frame)
  · rw [if_neg unit]
    exact congrArg _ (s.offerPass_eq frame)

end

/-! ### Frames in the raw carrier -/

/-- A frame in the raw carrier: the addresses, the EtherType of the part, the part header and what follows it. -/
def rawBytes (c : Settings) (destination source : BitVec 48) (kind : Byte) (key : BitVec 16) (content : List Byte) :
    List Byte :=
  natToBytes 6 destination.toNat ++ (natToBytes 6 source.toNat ++ (natToBytes 2 c.partEtherType.toNat
    ++ (1#8 :: kind :: (natToBytes 2 key.toNat ++ content))))

section

variable (c : Settings) (destination source : BitVec 48) (kind : Byte) (key : BitVec 16) (content : List Byte)

theorem rawBytes_length : (rawBytes c destination source kind key content).length = 18 + content.length := by
  simp [rawBytes]
  omega

theorem rawBytes_place : headerPlace c (rawBytes c destination source kind key content) = some 14 := by
  have type : fieldAt (rawBytes c destination source kind key content) 12 2 = c.partEtherType.toNat := by
    unfold rawBytes
    rw [fieldAt_append_right _ _ _ _ (by simp), fieldAt_append_right _ _ _ _ (by simp)]
    simp only [natToBytes_length]
    rw [fieldAt_natToBytes]
    exact Nat.mod_eq_of_lt c.partEtherType.isLt
  unfold headerPlace
  dsimp only
  rw [if_pos type, if_pos (by rw [rawBytes_length]; omega)]

/-- What stands from the part header on. -/
theorem rawBytes_drop : (rawBytes c destination source kind key content).drop 14 =
    1#8 :: kind :: (natToBytes 2 key.toNat ++ content) := by
  unfold rawBytes
  rw [drop_natToBytes _ _ _ _ (by omega), drop_natToBytes _ _ _ _ (by omega), drop_natToBytes _ _ _ _ (by omega)]
  rfl

theorem rawBytes_version : fieldAt (rawBytes c destination source kind key content) 14 1 = 1 := by
  rw [← fieldAt_drop _ 14 0, rawBytes_drop, fieldAt_first]
  rfl

theorem rawBytes_kind : fieldAt (rawBytes c destination source kind key content) 15 1 = kind.toNat := by
  rw [← fieldAt_drop _ 14 1, rawBytes_drop, fieldAt_cons _ _ _ _ (by omega), fieldAt_first]

theorem rawBytes_key : wordAt 16 (rawBytes c destination source kind key content) 16 2 = key := by
  rw [← wordAt_drop 16 _ 14 2, rawBytes_drop, wordAt, fieldAt_cons _ _ _ _ (by omega), fieldAt_cons _ _ _ _ (by omega)]
  exact (congrArg (BitVec.ofNat 16) (fieldAt_word 2 key content)).trans (by simp)

theorem rawBytes_source : wordAt 48 (rawBytes c destination source kind key content) 6 6 = source := by
  unfold rawBytes
  rw [wordAt, fieldAt_append_right _ _ _ _ (by simp)]
  simp only [natToBytes_length]
  exact (congrArg (BitVec.ofNat 48) (fieldAt_word 6 source _)).trans (by simp)

/-- The bytes from the content on. -/
theorem rawBytes_content : (rawBytes c destination source kind key content).drop 18 = content := by
  have : (rawBytes c destination source kind key content).drop 18 =
      ((rawBytes c destination source kind key content).drop 14).drop 4 := by rw [List.drop_drop]
  rw [this, rawBytes_drop]
  show (natToBytes 2 key.toNat ++ content).drop 2 = content
  rw [drop_natToBytes _ _ _ _ (by omega)]
  rfl

theorem rawBytes_field (off len : Nat) :
    fieldAt (rawBytes c destination source kind key content) (18 + off) len = fieldAt content off len := by
  rw [← fieldAt_drop, rawBytes_content]

end

/-- An order frame is a frame in the raw carrier (Tables 11-1 and 11-3). -/
theorem orderFrame_eq (c : Settings) (destination source : BitVec 48) (unit tag kind table which : Byte)
    (index : BitVec 16) (contents : List Byte) :
    orderFrame c destination source unit tag kind table which index contents =
      rawBytes c destination source 2#8 c.managementKey
        (unit :: tag :: kind :: table :: which :: (natToBytes 2 index.toNat ++ contents)) := by
  simp [orderFrame, rawBytes]

/-- The order read back from the bytes of its frame. -/
theorem orderFrom_orderFrame (c : Settings) (destination source : BitVec 48) (unit tag kind table which : Byte)
    (index : BitVec 16) (contents : List Byte) :
    wordAt 8 (orderFrame c destination source unit tag kind table which index contents) 18 1 = unit ∧
    orderFrom (orderFrame c destination source unit tag kind table which index contents) 14 =
      ⟨⟨.raw, source, 0, 0, 0⟩, tag, kind, table, which, index.toNat, contents, false⟩ := by
  rw [orderFrame_eq]
  have byte (content : List Byte) (off : Nat) : wordAt 8 (rawBytes c destination source 2#8 c.managementKey content) (18 + off) 1 =
      BitVec.ofNat 8 (fieldAt content off 1) := by rw [wordAt, rawBytes_field]
  have contentsOf (content : List Byte) : (rawBytes c destination source 2#8 c.managementKey content).drop 25 = content.drop 7 := by
    rw [← rawBytes_content c destination source 2#8 c.managementKey content, List.drop_drop, rawBytes_content]
  refine ⟨?_, ?_⟩
  · rw [byte _ 0, fieldAt_first]
    simp
  · unfold orderFrom pathFrom
    rw [if_pos rfl, rawBytes_source, byte _ 1, byte _ 2, byte _ 3, byte _ 4, rawBytes_field _ _ _ _ _ _ 5 2, contentsOf]
    have indexRead := fieldAt_word 2 index contents
    simp [fieldAt_cons, fieldAt_first, indexRead]

/-- Settles O4: the tests of R4 on a header found in either carrier, and the raw frames as a case of them. -/
theorem orderFrameJoinsQueue : Obligations.OrderFrameJoinsQueue := by
  refine ⟨?_, ?_⟩
  · intro s destination source tag kind table which index contents
    dsimp only
    intro room
    have frameOf (unit : Byte) :
        let frame := orderFrame s.settings destination source unit tag kind table which index contents
        headerPlace s.settings frame = some 14 ∧ fieldAt frame 14 1 = 1 ∧ fieldAt frame 15 1 = 2 ∧ 25 ≤ frame.length ∧
        wordAt 16 frame 16 2 = s.settings.managementKey := by
      dsimp only
      rw [orderFrame_eq]
      refine ⟨rawBytes_place .., rawBytes_version .., rawBytes_kind .., ?_, rawBytes_key ..⟩
      rw [rawBytes_length]
      simp
      omega
    have joined (o : Order) : s.offerOrder o = { s with orders := s.orders ++ [o] } := by
      rw [State.offerOrder_eq, if_pos room]
    refine ⟨?_, fun notAll passes => ?_⟩
    · obtain ⟨place, version, kind', long, key⟩ := frameOf s.settings.unit
      obtain ⟨unit, order⟩ := orderFrom_orderFrame s.settings destination source s.settings.unit tag kind table which index contents
      rw [exec_orderHere place version kind' long unit key, order, joined]
    · obtain ⟨place, version, kind', long, key⟩ := frameOf 255
      obtain ⟨unit, order⟩ := orderFrom_orderFrame s.settings destination source 255 tag kind table which index contents
      rw [exec_orderEverywhere place version kind' long unit (by rw [unit]; exact Ne.symm notAll) key, order, joined]
      unfold offered
      rw [if_pos passes]
  · intro s frame off place version kind long
    dsimp only
    rw [← State.offerOrder_eq]
    exact ⟨exec_orderHere place version kind long, exec_orderEverywhere place version kind long,
      exec_orderElsewhere place version kind long⟩

/-- Settles O5: a full queue refuses the order, and a frame too short for the order header carries none. -/
theorem orderFrameDropped : Obligations.OrderFrameDropped := by
  refine ⟨fun s destination source => ⟨fun tag kind table which index contents full => ?_, fun key short shorter => ?_⟩,
    fun s frame off place version kind shorter => exec_shortOrder place version kind shorter⟩
  · obtain ⟨unit, order⟩ := orderFrom_orderFrame s.settings destination source s.settings.unit tag kind table which index contents
    rw [orderFrame_eq] at unit ⊢
    rw [exec_orderHere (rawBytes_place ..) (rawBytes_version ..) (rawBytes_kind ..) ?_ unit (rawBytes_key ..),
      State.offerOrder_eq, if_neg (by omega)]
    rw [rawBytes_length]
    simp
    omega
  · have raw : natToBytes 6 destination.toNat ++ natToBytes 6 source.toNat ++ natToBytes 2 s.settings.partEtherType.toNat
        ++ [1#8, 2#8] ++ natToBytes 2 key.toNat ++ short = rawBytes s.settings destination source 2#8 key short := by
      simp [rawBytes]
    rw [raw]
    exact exec_shortOrder (rawBytes_place ..) (rawBytes_version ..) (rawBytes_kind ..) (by rw [rawBytes_length]; omega)

/-! ### OTHER and FOREIGN (R3, R5) -/

theorem exec_other {s : State} {frame : List Byte} (h : s.classify frame = .other) :
    exec (.ingressFrame frame) s = .next (if s.settings.otherPass = true then offered frame s else s) := by
  show Host.Outcome.next (s.receive frame) = _
  unfold State.receive
  rw [h, ← State.passIf_eq]

theorem exec_foreign {s : State} {frame : List Byte} (h : s.classify frame = .foreign) :
    exec (.ingressFrame frame) s = .next (if s.settings.foreignPass = true then offered frame s else s) := by
  show Host.Outcome.next (s.receive frame) = _
  unfold State.receive
  rw [h, ← State.passIf_eq]

/-- The frames of `IsOther` are of class OTHER. -/
theorem State.classify_isOther {s : State} {frame : List Byte} (h : IsOther s.settings frame) :
    s.classify frame = .other := by
  cases place : headerPlace s.settings frame with
  | none => exact State.classify_none place
  | some off =>
    by_cases version : fieldAt frame off 1 = 1
    · rcases h off place with bad | kind | ⟨kind, short⟩ | ⟨kind, long, unit, key⟩
      · exact absurd version bad
      · simp only [List.mem_cons, List.not_mem_nil, or_false, not_or] at kind
        rw [State.classify_kind place version]
        split
        · next e => exact absurd e kind.1
        · next e => exact absurd e kind.2.1
        · next e => exact absurd e kind.2.2
        · rfl
      · rw [State.classify_kind place version, kind]
        exact if_neg (by omega)
      · rw [State.classify_order place version kind, classifyOrder_headerFrom, if_neg (by omega), if_pos unit, if_neg key]
    · exact State.classify_version place version

/-- No valid entry holds a key exactly where none is found. -/
theorem State.streamOf_none (s : State) (key : BitVec 16) :
    s.streamOf key = none ↔ ∀ i : Fin 32, s.streams[i].entry.valid = true → s.streams[i].entry.key ≠ key := by
  simp [State.streamOf, List.find?_eq_none]

/-- Settles O6: each class passes on, is dropped or vanishes as its switch and the queue decide. -/
theorem strangeFramePassesOrVanishes : Obligations.StrangeFramePassesOrVanishes := by
  refine fun s frame => ⟨fun long raw udp => ?_, fun other => exec_other (State.classify_isOther other),
    fun off place version kind strangers => exec_foreign ?_⟩
  · have nowhere : headerPlace s.settings frame = none := by
      unfold headerPlace
      dsimp only
      rw [if_neg (fun h => raw ((etherType_iff frame _).mpr h)),
        if_neg (fun h => udp ((etherType_iff frame 0x0800#16).mpr h.2.1))]
    rw [exec_other (State.classify_none nowhere)]
    unfold offered
    split
    · split <;> rfl
    · rfl
  · rw [State.classify_media place version kind, (s.streamOf_none _).mpr strangers]

end Sys2Proof.Machine
end

section
/-! Latency reports from the link (R117, R118, R125). -/

namespace Sys2Proof.Machine

/-! ### The lowest index that passes a test -/

theorem find?_finRange {n : Nat} {p : Fin n → Bool} {i : Fin n} (found : p i = true) (first : ∀ j < i, p j = false) :
    (List.finRange n).find? p = some i := by
  rw [List.find?_eq_some_iff_getElem]
  refine ⟨found, i.val, by simp, by simp, fun j lt => ?_⟩
  have := first ⟨j, lt.trans i.isLt⟩ lt
  simpa using this

theorem find?_finRange_none {n : Nat} {p : Fin n → Bool} (fails : ∀ i, p i = false) : (List.finRange n).find? p = none := by
  rw [List.find?_eq_none]
  intro i _
  rw [fails i]
  exact Bool.false_ne_true

/-! ### What a report does -/

/-- What a report makes of the entry it matches, by the lock field and the value (R117). -/
theorem LatencyEntry.report_eq (micros : Nat) (x : LatencyEntry) :
    x.report micros =
      if x.lock = false then { x with
        latency := some (min micros 1000000), origin := .captured, state := .fresh, age := 0
        changed := x.changed || decide (x.latency ≠ some (min micros 1000000)) }
      else if x.latency ≠ none then { x with state := .fresh, age := 0 }
      else { x with age := 0 } := by
  unfold LatencyEntry.report
  cases lock : x.lock with
  | false => rfl
  | true => cases latency : x.latency <;> simp

section

variable {s : State} {frame : List Byte} {reporter : BitVec 32} {micros : Nat}

theorem exec_latency (h : s.classify frame = .latency reporter micros) :
    exec (.ingressFrame frame) s = .next (if s.settings.latencyPass = true
      then offered frame (s.latencyReport reporter micros) else s.latencyReport reporter micros) := by
  show Host.Outcome.next (s.receive frame) = _
  unfold State.receive
  rw [h]
  dsimp only
  rw [State.passIf_eq]

/-- A report that matches an entry renews it; where the value differs after it the programs that name the entry follow. -/
theorem State.latencyReport_matched {i : Fin 64} (valid : s.latencies[i].valid = true)
    (named : s.latencies[i].reporter = reporter)
    (first : ∀ j : Fin 64, j < i → s.latencies[j].valid = true → s.latencies[j].reporter ≠ reporter) :
    s.latencyReport reporter micros =
      if (s.latencies[i].report micros).latency = s.latencies[i].latency then s.modifyLatency i (·.report micros)
      else (s.modifyLatency i (·.report micros)).recomputeNaming i := by
  have found : (List.finRange 64).find? (fun i => s.latencies[i].valid && decide (s.latencies[i].reporter = reporter)) =
      some i := by
    refine find?_finRange (by simp only [valid, named, Bool.true_and, decide_true]) fun j lt => ?_
    cases vj : s.latencies[j].valid with
    | false => rfl
    | true => exact decide_eq_false (first j lt vj)
  unfold State.latencyReport
  rw [found]
  dsimp only
  rw [State.modifyLatency_self]

/-- No valid entry bears the reporter id of the report. -/
theorem State.latencyReport_unmatched
    (unknown : ∀ j : Fin 64, s.latencies[j].valid = true → s.latencies[j].reporter ≠ reporter) :
    (List.finRange 64).find? (fun i => s.latencies[i].valid && decide (s.latencies[i].reporter = reporter)) = none := by
  refine find?_finRange_none fun j => ?_
  cases vj : s.latencies[j].valid with
  | false => rfl
  | true => exact decide_eq_false (unknown j vj)

theorem State.latencyReport_learned {i : Fin 64}
    (unknown : ∀ j : Fin 64, s.latencies[j].valid = true → s.latencies[j].reporter ≠ reporter)
    (learn : s.settings.learn = true) (free : s.latencies[i].valid = false)
    (first : ∀ j : Fin 64, j < i → s.latencies[j].valid = true) :
    s.latencyReport reporter micros = (s.modifyLatency i fun _ => .learned reporter micros).recomputeNaming i := by
  have lowest : (List.finRange 64).find? (fun i => !s.latencies[i].valid) = some i :=
    find?_finRange (by simp only [free, Bool.not_false]) fun j lt => by simp only [first j lt, Bool.not_true]
  unfold State.latencyReport
  rw [State.latencyReport_unmatched unknown]
  dsimp only
  rw [lowest]
  exact if_pos learn

theorem State.latencyReport_unknown
    (unknown : ∀ j : Fin 64, s.latencies[j].valid = true → s.latencies[j].reporter ≠ reporter)
    (refused : s.settings.learn = false ∨ ∀ j : Fin 64, s.latencies[j].valid = true) :
    s.latencyReport reporter micros = s.flagUnknownReporter := by
  unfold State.latencyReport
  rw [State.latencyReport_unmatched unknown]
  dsimp only
  split
  · next i free =>
    rcases refused with off | all
    · exact if_neg (by rw [off]; exact Bool.false_ne_true)
    · have := List.find?_some free
      rw [all i] at this
      cases this
  · rfl

end

/-- A frame of class LATENCY is taken as `ReportTaken` says. -/
theorem reportTaken_of_classify {s : State} {frame : List Byte} {reporter micros : BitVec 32}
    (h : s.classify frame = .latency reporter micros.toNat) : ReportTaken s frame reporter micros := by
  unfold ReportTaken
  dsimp only
  refine ⟨fun i valid named first => ?_, fun unknown => ⟨fun i learn free first => ?_, fun refused => ?_⟩⟩
  · rw [← LatencyEntry.report_eq]
    refine ⟨s.latencyReport reporter micros.toNat, exec_latency h, ?_⟩
    rw [State.latencyReport_matched valid named first]
    by_cases same : (s.latencies[i].report micros.toNat).latency = s.latencies[i].latency
    · rw [if_pos same]
      exact ⟨rfl, fun p => (if_neg fun c => c.1 same).symm⟩
    · rw [if_neg same]
      refine ⟨State.recomputeNaming_rest _ _, fun p => ?_⟩
      rw [State.recomputeNaming_programs]
      by_cases chained : i ∈ (s.activeEntry p).chain
      · exact (if_pos chained).trans (if_pos ⟨same, chained⟩).symm
      · exact (if_neg chained).trans (if_neg fun c => chained c.2).symm
  · refine ⟨s.latencyReport reporter micros.toNat, exec_latency h, ?_⟩
    rw [State.latencyReport_learned unknown learn free first]
    exact ⟨State.recomputeNaming_rest _ _, State.recomputeNaming_programs _ _⟩
  · rw [exec_latency h, State.latencyReport_unknown unknown refused]
    rfl

/-- Settles O7: every frame that holds its report whole is of class LATENCY, the raw ones among them. -/
theorem latencyReportRefreshes : Obligations.LatencyReportRefreshes := by
  have general (s : State) (frame : List Byte) (off : Nat) (place : headerPlace s.settings frame = some off)
      (version : fieldAt frame off 1 = 1) (kind : fieldAt frame (off + 1) 1 = 4) (long : off + 13 ≤ frame.length) :
      ReportTaken s frame (wordAt 32 frame (off + 5) 4) (wordAt 32 frame (off + 9) 4) := by
    refine reportTaken_of_classify ?_
    rw [State.classify_latency place version kind long]
    exact congrArg _ (wordAt_toNat frame (off + 9) 4).symm
  refine ⟨fun s destination source key unit reporter micros padding => ?_, general⟩
  have raw : reportOf s.settings destination source key unit reporter micros padding =
      rawBytes s.settings destination source 4#8 key
        (unit :: (natToBytes 4 reporter.toNat ++ (natToBytes 4 micros.toNat ++ padding))) := by
    simp [reportOf, rawBytes]
  rw [raw]
  have taken := general s _ 14 (rawBytes_place s.settings destination source 4#8 key
    (unit :: (natToBytes 4 reporter.toNat ++ (natToBytes 4 micros.toNat ++ padding)))) (rawBytes_version ..)
    (rawBytes_kind ..) (by rw [rawBytes_length]; simp; omega)
  have reporterRead : wordAt 32 (rawBytes s.settings destination source 4#8 key
      (unit :: (natToBytes 4 reporter.toNat ++ (natToBytes 4 micros.toNat ++ padding)))) 19 4 = reporter := by
    rw [wordAt, rawBytes_field _ _ _ _ _ _ 1 4, fieldAt_cons _ _ _ _ (by omega), fieldAt_word 4 reporter]
    simp
  have microsRead : wordAt 32 (rawBytes s.settings destination source 4#8 key
      (unit :: (natToBytes 4 reporter.toNat ++ (natToBytes 4 micros.toNat ++ padding)))) 23 4 = micros := by
    rw [wordAt, rawBytes_field _ _ _ _ _ _ 5 4, fieldAt_cons _ _ _ _ (by omega),
      fieldAt_append_right _ _ _ _ (by simp), natToBytes_length, fieldAt_word 4 micros]
    simp
  rwa [reporterRead, microsRead] at taken

end Sys2Proof.Machine
end

section
/-! Media packets: whose frames they are, what their bytes hold, and what each does by its distance (R2, R10 to R20). -/

namespace Sys2Proof.Machine

/-! ### Reading a media frame (R2, R10, R12, R182) -/

theorem fieldAt_one (bs : List Byte) (off : Nat) : fieldAt bs off 1 = (bs.getD off 0).toNat := by
  rcases Nat.lt_or_ge off bs.length with lt | ge
  · rw [fieldAt, List.drop_eq_getElem_cons lt, List.getD_eq_getElem _ _ lt]
    simp only [List.take_succ_cons, List.take_zero, bytesToNat, List.foldl_cons, List.foldl_nil, Nat.zero_mul, Nat.zero_add]
  · rw [fieldAt, List.drop_eq_nil_of_le ge, List.getD_eq_default _ _ ge]
    rfl

theorem fieldAt_two (bs : List Byte) (off : Nat) (h : off + 2 ≤ bs.length) :
    fieldAt bs off 2 = 256 * (bs.getD off 0).toNat + (bs.getD (off + 1) 0).toNat := by
  have lt0 : off < bs.length := by omega
  have lt1 : off + 1 < bs.length := by omega
  rw [fieldAt, List.drop_eq_getElem_cons lt0, List.drop_eq_getElem_cons lt1, List.getD_eq_getElem _ _ lt0,
    List.getD_eq_getElem _ _ lt1]
  simp only [List.take_succ_cons, List.take_zero, bytesToNat, List.foldl_cons, List.foldl_nil]
  omega

theorem fieldAt_three (bs : List Byte) (off : Nat) (h : off + 3 ≤ bs.length) :
    fieldAt bs off 3 = 65536 * (bs.getD off 0).toNat + 256 * (bs.getD (off + 1) 0).toNat + (bs.getD (off + 2) 0).toNat := by
  have lt0 : off < bs.length := by omega
  have lt1 : off + 1 < bs.length := by omega
  have lt2 : off + 1 + 1 < bs.length := by omega
  rw [fieldAt, List.drop_eq_getElem_cons lt0, List.drop_eq_getElem_cons lt1, List.drop_eq_getElem_cons lt2,
    List.getD_eq_getElem _ _ lt0, List.getD_eq_getElem _ _ lt1, List.getD_eq_getElem _ _ lt2]
  simp only [List.take_succ_cons, List.take_zero, bytesToNat, List.foldl_cons, List.foldl_nil]
  omega

theorem find?_finRange_iff {n : Nat} {p : Fin n → Bool} {i : Fin n} :
    (List.finRange n).find? p = some i ↔ p i = true ∧ ∀ j < i, ¬ p j = true := by
  refine ⟨fun h => ⟨List.find?_some h, fun j lt pj => ?_⟩,
    fun ⟨found, first⟩ => find?_finRange found fun j lt => Bool.eq_false_of_not_eq_true (first j lt)⟩
  obtain ⟨-, k, hk, rfl, before⟩ := List.find?_eq_some_iff_getElem.mp h
  have := before j.val (by rwa [List.getElem_finRange] at lt)
  simp [pj] at this

/-- A stream key leads to the first valid entry that holds it (R3). -/
theorem State.streamOf_iff (s : State) (key : BitVec 16) (i : Fin 32) :
    s.streamOf key = some i ↔ (s.streams[i].entry.valid = true ∧ s.streams[i].entry.key = key) ∧
      ∀ j < i, ¬ (s.streams[j].entry.valid = true ∧ s.streams[j].entry.key = key) := by
  unfold State.streamOf
  rw [find?_finRange_iff]
  simp only [Bool.and_eq_true, decide_eq_true_eq]

theorem classifyOrder_not_media (c : Settings) (h : PartHeader) (i : Fin 32) (content : List Byte) :
    classifyOrder c h ≠ .media i content := by
  unfold classifyOrder
  dsimp only
  split
  · nofun
  · split
    · split <;> nofun
    · split
      · split <;> nofun
      · nofun

/-- A frame belongs to a stream where its header says MEDIA of version 1 and its masked key leads to the stream. -/
theorem State.classify_media_iff (s : State) (frame content : List Byte) (i : Fin 32) :
    s.classify frame = .media i content ↔
      ∃ off, headerPlace s.settings frame = some off ∧ fieldAt frame off 1 = 1 ∧ fieldAt frame (off + 1) 1 = 1 ∧
        content = frame.drop (off + 4) ∧ s.streamOf (wordAt 16 frame (off + 2) 2 &&& s.settings.keyMask) = some i := by
  constructor
  · intro h
    cases place : headerPlace s.settings frame with
    | none => rw [State.classify_none place] at h; cases h
    | some off =>
      by_cases version : fieldAt frame off 1 = 1
      · refine ⟨off, rfl, version, ?_⟩
        rw [State.classify_kind place version] at h
        split at h
        · next kind =>
          split at h
          · next owner => cases h; exact ⟨kind, rfl, owner⟩
          · cases h
        · exact absurd h (classifyOrder_not_media _ _ _ _)
        · split at h <;> cases h
        · cases h
      · rw [State.classify_version place version] at h; cases h
  · rintro ⟨off, place, version, kind, rfl, owner⟩
    rw [State.classify_media place version kind, owner]

/-- The fields of a media packet, byte by byte (Table 11-2). -/
theorem readMedia_iff (content : List Byte) (m : MediaPacket) :
    let byte (k : Nat) : Nat := (content.getD k 0).toNat
    readMedia content = some m ↔ 10 ≤ content.length ∧
      m = ⟨BitVec.ofNat 16 (256 * byte 0 + byte 1), byte 2, byte 3, byte 4, byte 5, content.drop 10⟩ := by
  dsimp only
  unfold readMedia
  by_cases long : 10 ≤ content.length
  · rw [if_pos long, wordAt, fieldAt_two _ _ (by omega), fieldAt_one, fieldAt_one, fieldAt_one, fieldAt_one, Option.some_inj]
    exact ⟨fun e => ⟨long, e.symm⟩, fun e => e.2.symm⟩
  · rw [if_neg long]
    exact ⟨nofun, fun e => absurd e.1 long⟩

/-- The code of a rate in a frame (Table 11-4). -/
theorem rateCodes_eq (code : Nat) (r : Rate) : rateCodes[code]? = some r ↔ code = match r with
    | .r44 => 0
    | .r48 => 1
    | .r88 => 2
    | .r96 => 3 := by
  match code with
  | 0 => cases r <;> decide
  | 1 => cases r <;> decide
  | 2 => cases r <;> decide
  | 3 => cases r <;> decide
  | n + 4 =>
    have : rateCodes[n + 4]? = none := rfl
    rw [this]
    cases r <;> simp

/-- The code of a sample format in a frame (Table 11-4). -/
theorem formatCodes_eq (code : Nat) (f : SampleFormat) : formatCodes[code]? = some f ↔ code = match f with
    | .s16 => 0
    | .s24 => 1 := by
  match code with
  | 0 => cases f <;> decide
  | 1 => cases f <;> decide
  | n + 2 =>
    have : formatCodes[n + 2]? = none := rfl
    rw [this]
    cases f <;> simp

theorem MediaPacket.formatOk_iff (e : StreamEntry) (m : MediaPacket) :
    m.formatOk e = true ↔ rateCodes[m.rate]? = some e.rate ∧ m.lanes = e.lanes ∧ formatCodes[m.format]? = some e.format ∧
      1 ≤ m.frames ∧ m.frames ≤ 64 ∧ m.frames * e.lanes * e.format.bytes ≤ m.samples.length := by
  simp only [MediaPacket.formatOk, Bool.and_eq_true, decide_eq_true_eq, and_assoc]
  rfl

/-- Every sample of a frame below the count stands within the samples of a packet long enough for all. -/
theorem sample_held {frames lanes bytes length k j : Nat} (long : frames * lanes * bytes ≤ length) (hk : k < frames)
    (hj : j < lanes) : (k * lanes + j) * bytes + bytes ≤ length := by
  have row : k * lanes + j + 1 ≤ frames * lanes := by
    calc k * lanes + j + 1 ≤ k * lanes + lanes := by omega
      _ = (k + 1) * lanes := (Nat.succ_mul k lanes).symm
      _ ≤ frames * lanes := Nat.mul_le_mul_right lanes hk
  calc (k * lanes + j) * bytes + bytes = (k * lanes + j + 1) * bytes := (Nat.succ_mul _ bytes).symm
    _ ≤ frames * lanes * bytes := Nat.mul_le_mul_right bytes row
    _ ≤ length := long

theorem mediaFramesRead : MediaFramesRead := by
  refine ⟨fun s frame content i => ?_, readMedia_iff, fun e m => ⟨?_, fun ok => ?_⟩⟩
  · rw [State.classify_media_iff]
    simp only [State.streamOf_iff]
  · rw [MediaPacket.formatOk_iff, rateCodes_eq, formatCodes_eq]
    cases e.rate <;> cases e.format <;> rfl
  · obtain ⟨-, -, -, -, -, long⟩ := (MediaPacket.formatOk_iff e m).mp ok
    unfold MediaPacket.decoded
    refine List.map_congr_left fun k hk => List.map_congr_left fun j hj => ?_
    rw [List.mem_range] at hk hj
    have held := sample_held long hk hj
    obtain ⟨valid, key, rate, lanes, first, format, target, filter, concealment, gap, limit, gp, gi⟩ := e
    cases format with
    | s16 => exact congrArg (fun n => BitVec.ofNat 24 (n * 256)) (fieldAt_two m.samples _ held)
    | s24 => exact congrArg (BitVec.ofNat 24) (fieldAt_three m.samples _ held)

end Sys2Proof.Machine
end

section
/-! What a media packet does to its stream, by its distance from the expected number (R12 to R20, R38). -/

namespace Sys2Proof.Machine

/-! ### The rules of the context (R10, R11, R16, R20, R27) -/

/-- The step of R27 with its rounding down written as a floor. -/
theorem stepOf_floor (rate : Rate) (correction : Int) :
    stepOf rate correction = rate.nominalStep + ⌊(rate.nominalStep * correction : ℚ) / 16777216⌋ := by
  have floor := Rat.floor_intCast_div_natCast (rate.nominalStep * correction) 16777216
  push_cast at floor
  rw [stepOf, Int.fdiv_eq_ediv_of_nonneg _ (by decide), floor]

/-- A flush into ACQUIRE: the highest watermark stays, the lowest becomes 0. -/
theorem Context.flushTo_acquire (c : Context) : c.flushTo .acquire = { c with
    state := .acquire, buffer := [], writeIndex := 0, lockCount := 0, windowSum := 0, windowCount := 0, minFill := 0 } := by
  have greatest : max c.maxFill 0 = c.maxFill := Nat.max_zero _
  have least : min c.minFill 0 = 0 := Nat.min_zero _
  show ({ c with
    state := .acquire, buffer := [], writeIndex := 0, lockCount := 0, windowSum := 0, windowCount := 0
    maxFill := max c.maxFill 0, minFill := min c.minFill 0 } : Context) = _
  rw [greatest, least]

/-- Frames that join a live buffer, with the watermarks written out. -/
theorem Context.append_eq {c : Context} {frames : List (List Sample)} (live : c.state ≠ .empty) (some : frames ≠ [])
    (room : c.fill + frames.length ≤ 2016) : c.append frames = { c with
      buffer := c.buffer ++ frames, writeIndex := c.writeIndex + BitVec.ofNat 32 frames.length
      maxFill := max c.maxFill (c.fill + frames.length), minFill := min c.minFill (c.fill + frames.length) } := by
  have fill := c.append_fill frames live (by omega)
  rw [Context.append, if_neg some] at fill ⊢
  rw [← fill]
  rfl

/-- Concealment and then a packet's frames: the highest fill is the last, the lowest is the first. -/
theorem Context.append_append {c : Context} {concealed frames : List (List Sample)} (live : c.state ≠ .empty)
    (some : frames ≠ []) (room : c.fill + concealed.length + frames.length ≤ 2016) :
    (c.append concealed).append frames = { c with
      buffer := c.buffer ++ concealed ++ frames
      writeIndex := c.writeIndex + BitVec.ofNat 32 (concealed.length + frames.length)
      maxFill := max c.maxFill (c.fill + concealed.length + frames.length)
      minFill := min c.minFill
        (if concealed = [] then c.fill + concealed.length + frames.length else c.fill + concealed.length) } := by
  by_cases none : concealed = []
  · subst none
    rw [c.append_nil, Context.append_eq live some (by simpa using room)]
    simp
  · have fill := c.append_fill concealed live (by omega)
    have live' : (c.append concealed).state ≠ .empty := by rwa [(c.append_keeps concealed).1]
    rw [Context.append_eq live' some (by omega), fill, Context.append_eq live none (by omega), if_neg none]
    have greatest : max (max c.maxFill (c.fill + concealed.length)) (c.fill + concealed.length + frames.length) =
        max c.maxFill (c.fill + concealed.length + frames.length) := by omega
    have least : min (min c.minFill (c.fill + concealed.length)) (c.fill + concealed.length + frames.length) =
        min c.minFill (c.fill + concealed.length) := by omega
    have index : c.writeIndex + BitVec.ofNat 32 concealed.length + BitVec.ofNat 32 frames.length =
        c.writeIndex + BitVec.ofNat 32 (concealed.length + frames.length) := by
      rw [BitVec.add_assoc, ← BitVec.ofNat_add]
    dsimp only
    rw [greatest, least, index]

/-- The exit from ACQUIRE with the buffer's newest T + 32 frames and the watermarks at T (R19, R40). -/
theorem Context.acquireExit_eq {e : StreamEntry} {c : Context} (range : e.targetFill < 4294967296)
    (due : c.state = .acquire ∧ e.targetFill + e.taps / 2 ≤ c.fill) : c.acquireExit e = { c with
      state := .track, lockCount := 0, windowSum := 0, windowCount := 0, produced := [], stalled := 0
      pos := (c.writeIndex - BitVec.ofNat 32 e.targetFill).setWidth 64 <<< 32
      step := e.rate.nominalStep + ⌊(e.rate.nominalStep * c.correction : ℚ) / 16777216⌋
      buffer := c.buffer.drop (c.buffer.length - (e.targetFill + 32))
      maxFill := max c.maxFill e.targetFill, minFill := min c.minFill e.targetFill } := by
  have fill := Context.acquireExit_fill range due
  rw [Context.acquireExit, if_pos due] at fill ⊢
  rw [← stepOf_floor]
  set entered : Context := { c.enterTrack with
    pos := (c.writeIndex - BitVec.ofNat 32 e.targetFill).setWidth 64 <<< 32
    step := stepOf e.rate c.correction } with he
  have target : entered.fill = e.targetFill := fill
  show ({ entered with
    buffer := entered.buffer.drop (entered.buffer.length - (entered.fill + 32))
    maxFill := max entered.maxFill entered.fill, minFill := min entered.minFill entered.fill } : Context) = _
  rw [target]
  rfl

/-! ### A packet that is accepted (R13, R19, R38) -/

theorem Context.accept_of_not_holdover {e : StreamEntry} {now : BitVec 48} {m : MediaPacket} {c : Context}
    (h : c.state ≠ .holdover) : c.accept e now m = Context.acquireExit e { c with
      expected := some (m.sequence + 1), last := some ⟨m.frames, (m.decoded e).getLastD []⟩, acceptTime := now } := by
  unfold Context.accept
  dsimp only
  split
  · contradiction
  · rfl

/-- A packet whose frames fit behind the concealment is accepted as R13 gives. -/
theorem Context.accept_append {c : Context} {e : StreamEntry} {m : MediaPacket} {concealed : List (List Sample)}
    (now : BitVec 48) (ok : m.formatOk e = true) (live : c.state ≠ .empty) (room : c.fill + concealed.length + m.frames ≤ 2016) :
    ((c.append concealed).append (m.decoded e)).accept e now m = accepted e now m concealed c := by
  have frames := m.formatOk_frames ok
  have length := m.decoded_length e
  have written : m.decoded e ≠ [] := by
    intro none
    rw [none, List.length_nil] at length
    omega
  have fill : ((c.append concealed).append (m.decoded e)).fill = c.fill + concealed.length + m.frames := by
    have first := c.append_fill concealed live (by omega)
    rw [Context.append_fill _ _ (by rwa [(c.append_keeps concealed).1]) (by omega), first, length]
  rw [Context.append_append live written (by omega), length] at fill ⊢
  unfold accepted
  dsimp only
  by_cases hold : c.state = .holdover
  · rw [if_pos hold]
    unfold Context.accept
    dsimp only
    rw [hold]
    rfl
  · rw [if_neg hold]
    rw [Context.accept_of_not_holdover]
    swap
    · exact hold
    by_cases due : c.state = .acquire ∧ e.targetFill + e.taps / 2 ≤ c.fill + concealed.length + m.frames
    · rw [if_pos due, Context.acquireExit_eq (by omega)]
      exact ⟨due.1, fill.symm ▸ due.2⟩
    · rw [if_neg due, Context.acquireExit, if_neg]
      rintro ⟨acquire, full⟩
      exact due ⟨acquire, fill ▸ full⟩

/-! ### What a packet does, by its distance (R13 to R17, R20) -/

/-- A frame of a stream writes that stream's context. -/
theorem exec_media {s : State} {frame content : List Byte} {i : Fin 32} (class_ : s.classify frame = .media i content) :
    exec (.ingressFrame frame) s =
      .next (s.putContext i (s.streams[i].media s.house.count content).ctx) := by
  have received : s.receive frame = s.modifyStream i (·.media s.house.count content) := by rw [State.receive, class_]
  refine congrArg Host.Outcome.next (received.trans ?_)
  unfold State.modifyStream State.putContext Stream.media
  congr
  split <;> rfl

theorem exec_packet {s : State} {frame content : List Byte} {i : Fin 32} {m : MediaPacket}
    (class_ : s.classify frame = .media i content) (read : readMedia content = some m)
    (ok : m.formatOk s.streams[i].entry = true) : exec (.ingressFrame frame) s =
      .next (s.putContext i (s.streams[i].ctx.sequenced s.streams[i].entry s.house.count m)) := by
  rw [exec_media class_, Stream.media, read]
  dsimp only
  rw [if_pos ok]

theorem Context.sequenced_lost {c : Context} (lost : c.state = .lost) (e : StreamEntry) (now : BitVec 48) (m : MediaPacket) :
    c.sequenced e now m = ((c.flushTo .acquire).append (m.decoded e)).accept e now m := by
  unfold Context.sequenced
  split <;> simp_all

theorem Context.sequenced_unset {c : Context} (found : c.state ≠ .lost) (unset : c.expected = none) (e : StreamEntry)
    (now : BitVec 48) (m : MediaPacket) : c.sequenced e now m = (c.append (m.decoded e)).accept e now m := by
  unfold Context.sequenced
  split <;> simp_all

/-- The three ways of R14 to R17, by the distance. -/
theorem Context.sequenced_set {c : Context} {x : BitVec 16} (found : c.state ≠ .lost) (set : c.expected = some x)
    (e : StreamEntry) (now : BitVec 48) (m : MediaPacket) : c.sequenced e now m =
      if (m.sequence - x).toNat ≤ 32 then c.inOrder e now m (m.sequence - x).toNat
      else if (m.sequence - x).toNat < 32768 then
        ((c.flushTo .acquire).flagResync.append (m.decoded e)).accept e now m
      else c.flagLate := by
  unfold Context.sequenced
  split
  · contradiction
  · simp_all
  · next y hy _ =>
    obtain rfl : x = y := by simpa [set] using hy
    rfl

/-- The flag of a gap of `d` missing packets (R14). -/
theorem Context.seen_eq (c : Context) (d : Nat) : (if d = 0 then c else c.flagGap) =
    { c with flags := { c.flags with gap := c.flags.gap || decide (d ≠ 0) } } := by
  by_cases h : d = 0
  · rw [if_pos h, h, show decide ((0 : Nat) ≠ 0) = false from rfl, Bool.or_false]
  · rw [if_neg h, decide_eq_true h, Bool.or_true]
    rfl

/-- The distance of a packet that follows `d` missing ones. -/
theorem distance_of_missing (n : BitVec 16) {d : Nat} (h : d ≤ 32) : (n - (n - BitVec.ofNat 16 d)).toNat = d := by
  have : n - (n - BitVec.ofNat 16 d) = BitVec.ofNat 16 d := by bv_omega
  rw [this, BitVec.toNat_ofNat]
  omega

/-! ### Late packets and resynchronization -/

/-- Settles O8: at a distance from 32768 on only the flag is left of the three ways. -/
theorem latePacketDiscarded : Obligations.LatePacketDiscarded := by
  refine ⟨fun s frame content i m expected class_ read ok found set late => ?_, fun expected => by bv_omega⟩
  rw [exec_packet class_ read ok, Context.sequenced_set found set, if_neg (by omega), if_neg (by omega)]
  rfl

/-- The first packet after a flush stays below T + N/2 where T is at least 64: it is written and ACQUIRE stays. -/
theorem accepted_flushed {e : StreamEntry} {m : MediaPacket} (now : BitVec 48) {c : Context} (ok : m.formatOk e = true)
    (target : 64 ≤ e.targetFill) (acquire : c.state = .acquire) (buffer : c.buffer = []) (index : c.writeIndex = 0)
    (least : c.minFill = 0) : accepted e now m [] c = { c with
      expected := some (m.sequence + 1), last := some ⟨m.frames, (m.decoded e).getLastD []⟩, acceptTime := now
      buffer := m.decoded e, writeIndex := BitVec.ofNat 32 m.frames, maxFill := max c.maxFill m.frames, minFill := 0 } := by
  have frames := m.formatOk_frames ok
  have taps : 8 ≤ e.taps / 2 := by
    unfold StreamEntry.taps
    split <;> decide
  have empty : c.fill = 0 := by rw [Context.fill, acquire, index]; rfl
  unfold accepted
  dsimp only
  rw [if_neg (by rw [acquire]; nofun), if_neg, empty, buffer, index, least, List.length_nil, Nat.zero_add, Nat.zero_add,
    show 0 + BitVec.ofNat 32 m.frames = BitVec.ofNat 32 m.frames from BitVec.zero_add _, Nat.zero_min, List.nil_append,
    List.nil_append]
  rintro ⟨-, full⟩
  rw [empty, List.length_nil] at full
  omega

/-- Settles O9: the flush leaves a fill of 0, so the packet is accepted and stays short of T + N/2. -/
theorem resyncRestartsAcquisition : Obligations.ResyncRestartsAcquisition := by
  intro s frame content i m expected
  dsimp only
  intro class_ read ok target found set far near
  have frames := m.formatOk_frames ok
  rw [exec_packet class_ read ok, Context.sequenced_set found set, if_neg (by omega), if_pos (by omega),
    Context.flushTo_acquire]
  set flushed : Context := { s.streams[i].ctx with
    state := .acquire, buffer := [], writeIndex := 0, lockCount := 0, windowSum := 0, windowCount := 0, minFill := 0 }
  have accept := Context.accept_append (c := flushed.flagResync) (concealed := []) s.house.count ok (by nofun)
    (show 0 + 0 + m.frames ≤ 2016 by omega)
  rw [Context.append_nil] at accept
  rw [accept, accepted_flushed _ ok target rfl rfl rfl rfl]
  rfl

/-! ### Packets in order, after a gap, or first -/

/-- A packet in order, or after a gap of `d` missing ones: accepted where it fits, else refused. -/
theorem Context.inOrder_eq {e : StreamEntry} {m : MediaPacket} {c : Context} (now : BitVec 48) (d : Nat)
    (ok : m.formatOk e = true) (live : c.state ≠ .empty) :
    let last := c.last.getD ⟨0, []⟩
    let concealment : List Sample := match e.concealment with
      | .zero => List.replicate e.lanes 0
      | .holdFade => last.lastFrame
    let seen : Context := { c with flags := { c.flags with gap := c.flags.gap || decide (d ≠ 0) } }
    (c.fill + m.frames ≤ 2016 → c.inOrder e now m d =
      accepted e now m (List.replicate (min (d * last.frames) (2016 - c.fill - m.frames)) concealment) seen) ∧
    (2016 < c.fill + m.frames → c.inOrder e now m d =
      { seen with expected := some (m.sequence + 1), flags := { seen.flags with overrun := true } }) := by
  dsimp only
  unfold Context.inOrder
  rw [c.seen_eq d]
  dsimp only
  constructor
  · intro fits
    rw [if_pos (by exact fits)]
    refine Context.accept_append now ok live ?_
    show c.fill + List.length _ + m.frames ≤ 2016
    rw [Context.concealment, List.length_replicate]
    have := Nat.min_le_right (d * (c.last.getD ⟨0, []⟩).frames) (2016 - c.fill - m.frames)
    exact (by omega : ∀ k ≤ 2016 - c.fill - m.frames, c.fill + k + m.frames ≤ 2016) _ this
  · intro full
    rw [if_neg (by exact Nat.not_le.mpr full)]
    rfl

/-- What fails of a frame whose content the format test discards (R12). -/
theorem Stream.media_format {t : Stream} (now : BitVec 48) {content : List Byte}
    (fails : ∀ m : MediaPacket, readMedia content = some m → m.formatOk t.entry = false) :
    (t.media now content).ctx = t.ctx.flagFormat := by
  unfold Stream.media
  split
  · rfl
  · next m read => rw [fails m read]; rfl

theorem Context.flagFormat_eq (c : Context) : c.flagFormat =
    { c with flags := { c.flags with format := true }, formatCount := min 65535 (c.formatCount + 1) } := by
  rw [Context.flagFormat, saturating_eq]
  rfl

/-- The format test fails where a field or the length does not agree with the entry (R12). -/
theorem formatOk_false_of_field {content : List Byte} {e : StreamEntry}
    (fails : content.length < 10 ∨ rateCodes[fieldAt content 2 1]? ≠ some e.rate ∨ fieldAt content 3 1 ≠ e.lanes ∨
      formatCodes[fieldAt content 4 1]? ≠ some e.format ∨ fieldAt content 5 1 = 0 ∨ 64 < fieldAt content 5 1 ∨
      content.length < 10 + fieldAt content 5 1 * e.lanes * e.format.bytes)
    (m : MediaPacket) (read : readMedia content = some m) : m.formatOk e = false := by
  unfold readMedia at read
  split at read
  · next long =>
    injection read with read
    subst read
    rw [Bool.eq_false_iff]
    intro ok
    obtain ⟨rate, lanes, format, least, most, samples⟩ := (MediaPacket.formatOk_iff e _).mp ok
    dsimp only at rate lanes format least most samples
    rw [List.length_drop] at samples
    rcases fails with h | h | h | h | h | h | h
    · omega
    · exact h rate
    · exact h lanes
    · exact h format
    · omega
    · omega
    · omega
  · cases read

/-- Settles O10: whose frame it is from `mediaFramesRead`; a packet's ways by the expected number, each an acceptance or a
refusal; and the format test. -/
theorem inOrderPacketWritten : Obligations.InOrderPacketWritten := by
  refine ⟨mediaFramesRead, fun s frame content i => ?_⟩
  dsimp only
  intro class_
  refine ⟨fun m read ok _ => ⟨fun d few set state => ?_, fun acquire unset empty => ?_, fun lost _ => ?_⟩, fun fails => ?_⟩
  · have found : s.streams[i].ctx.state ≠ .lost := by rcases state with h | h | h | h <;> rw [h] <;> nofun
    have live : s.streams[i].ctx.state ≠ .empty := by rcases state with h | h | h | h <;> rw [h] <;> nofun
    obtain ⟨fits, full⟩ := Context.inOrder_eq s.house.count d ok live
    rw [exec_packet class_ read ok, Context.sequenced_set found set, distance_of_missing _ few, if_pos few]
    exact ⟨fun h => congrArg (fun c => Host.Outcome.next (s.putContext i c)) (fits h),
      fun h => congrArg (fun c => Host.Outcome.next (s.putContext i c)) (full h)⟩
  · have frames := m.formatOk_frames ok
    have accept := Context.accept_append (concealed := []) s.house.count ok
      (c := s.streams[i].ctx) (by rw [acquire]; nofun) (by rw [empty]; show 0 + 0 + m.frames ≤ 2016; omega)
    rw [Context.append_nil] at accept
    rw [exec_packet class_ read ok, Context.sequenced_unset (by rw [acquire]; nofun) unset, accept]
  · have frames := m.formatOk_frames ok
    rw [exec_packet class_ read ok, Context.sequenced_lost lost, Context.flushTo_acquire]
    set flushed : Context := { s.streams[i].ctx with
      state := .acquire, buffer := [], writeIndex := 0, lockCount := 0, windowSum := 0, windowCount := 0, minFill := 0 }
    have accept := Context.accept_append (c := flushed) (concealed := []) s.house.count ok (by nofun)
      (show 0 + 0 + m.frames ≤ 2016 by omega)
    rw [Context.append_nil] at accept
    rw [accept]
  · rw [exec_media class_, Stream.media_format, Context.flagFormat_eq]
    exact formatOk_false_of_field fails

end Sys2Proof.Machine
end

section
/-! The target delay of a program, from the entries it is computed from to the move it starts (R122 to R131). -/

namespace Sys2Proof.Machine

/-! ### What the entries give (R7, R27, R42, R54) -/

theorem StreamEntry.taps_eq (e : StreamEntry) : e.taps = match e.rate with
    | .r44 | .r48 => if e.filter = .normal then 32 else 16
    | .r88 | .r96 => if e.filter = .normal then 64 else 32 := by
  unfold StreamEntry.taps
  cases e.rate <;> cases e.filter <;> rfl

/-- Division rounded up, by each source rate. -/
theorem ceilDiv_hertz (n : Nat) (rate : Rate) :
    (ceilDiv (n * 48000) rate.hertz : Int) = ⌈(n : ℚ) * 48000 / rate.hertz⌉ := by
  have ceil := Rat.ceil_intCast_div_natCast ((n * 48000 : Nat) : Int) rate.hertz
  push_cast at ceil
  rw [ceil, ceilDiv]
  cases rate <;> simp only [Rate.hertz] <;> omega

theorem StreamEntry.latency_eq (e : StreamEntry) : (e.latency : Int) = if e.valid = true then
    ⌈((e.targetFill + e.taps / 2 : Nat) : ℚ) * 48000 / (match e.rate with
      | .r44 => 44100
      | .r48 => 48000
      | .r88 => 88200
      | .r96 => 96000)⌉ else 0 := by
  have hertz : (match e.rate with
      | .r44 => 44100
      | .r48 => 48000
      | .r88 => 88200
      | .r96 => 96000 : ℚ) = (e.rate.hertz : ℚ) := by
    cases e.rate <;> simp only [Rate.hertz] <;> norm_num
  rw [hertz, ← ceilDiv_hertz, StreamEntry.latency]
  by_cases valid : e.valid = true
  · rw [if_pos valid, if_pos valid]
  · rw [if_neg valid, if_neg valid]
    rfl

theorem entryValues : EntryValues := by
  refine ⟨fun e => ⟨e.taps_eq, e.latency_eq, e.covers_iff⟩, fun r => ?_, fun e => ⟨rfl, fun l set => ?_⟩⟩
  · cases r <;> rfl
  · show e.fallback.getD [] = l
    rw [set]
    rfl

/-! ### The greatest of a list -/

theorem foldl_max_le {m : Nat} : ∀ (l : List Nat) (a : Nat), a ≤ m → (∀ x ∈ l, x ≤ m) → l.foldl max a ≤ m
  | [], _, start, _ => start
  | x :: l, a, start, all => foldl_max_le l (max a x)
      (Nat.max_le.mpr ⟨start, all x List.mem_cons_self⟩) fun y hy => all y (List.mem_cons_of_mem x hy)

theorem le_foldl_max {m : Nat} : ∀ (l : List Nat) (a : Nat), m ≤ a ∨ m ∈ l → m ≤ l.foldl max a
  | [], _, h => h.elim id fun none => absurd none List.not_mem_nil
  | x :: l, a, h => le_foldl_max l (max a x) <| by
      rcases h with start | held
      · exact .inl (start.trans (Nat.le_max_left a x))
      · rcases List.mem_cons.mp held with rfl | rest
        · exact .inl (Nat.le_max_right a m)
        · exact .inr rest

/-! ### The audio latency (R123) -/

theorem State.slotLatency_le {s : State} {k : Fin 128} {most : Nat}
    (bound : ∀ i : Fin 32, s.streams[i].entry.covers k.val = true → s.streams[i].entry.latency ≤ most) :
    s.slotLatency k ≤ most := by
  refine foldl_max_le _ 0 (Nat.zero_le most) fun x hx => ?_
  obtain ⟨t, ht, rfl⟩ := List.mem_map.mp hx
  obtain ⟨n, hn, rfl⟩ := List.mem_iff_getElem.mp ht
  have held := bound ⟨n, by simpa using hn⟩
  rw [Vector.getElem_toList]
  split
  · next covers => exact held covers
  · exact Nat.zero_le most

theorem State.le_slotLatency {s : State} {k : Fin 128} {i : Fin 32} (covers : s.streams[i].entry.covers k.val = true) :
    s.streams[i].entry.latency ≤ s.slotLatency k := by
  refine le_foldl_max _ 0 (.inr (List.mem_map.mpr ⟨s.streams[i], Vector.mem_toList_iff.mpr (Vector.getElem_mem i.isLt), ?_⟩))
  rw [if_pos covers]

/-- A is the greatest latency of the streams behind the effective slots, with the two fixed parts. -/
theorem State.audioLatency_eq {s : State} {p : Fin 16} {most : Nat}
    (bound : ∀ k ∈ effectiveSlots (s.activeEntry p) s.programs[p].fallbackInUse, ∀ i : Fin 32,
      s.streams[i].entry.covers k.val = true → s.streams[i].entry.latency ≤ most)
    (held : most = 0 ∨ ∃ k ∈ effectiveSlots (s.activeEntry p) s.programs[p].fallbackInUse, ∃ i : Fin 32,
      s.streams[i].entry.covers k.val = true ∧ s.streams[i].entry.latency = most) :
    s.audioLatency p = most + 8 + s.egressTable[p].packetSize := by
  have greatest : ((effectiveSlots (s.activeEntry p) s.programs[p].fallbackInUse).map s.slotLatency).foldl max 0 = most := by
    refine Nat.le_antisymm (foldl_max_le _ 0 (Nat.zero_le most) fun x hx => ?_) ?_
    · obtain ⟨k, hk, rfl⟩ := List.mem_map.mp hx
      exact State.slotLatency_le (bound k hk)
    · rcases held with rfl | ⟨k, hk, i, covers, rfl⟩
      · exact Nat.zero_le _
      · exact (State.le_slotLatency covers).trans (le_foldl_max _ 0 (.inr (List.mem_map_of_mem hk)))
  rw [State.audioLatency, greatest]
  rfl

/-! ### The alignment of a program that is not FREE (R122 to R124) -/

section
variable {s : State} {p : Fin 16} (taken : s.programs[p].state ≠ .free) (l : LipSync)
include taken

theorem State.alignment_micros : (s.alignment p l).videoMicros = max 0 (min 2000000
    (((s.activeEntry p).chain.map fun i : Fin 64 => if s.latencies[i].valid = true ∧ s.latencies[i].ignore = false then
      ((s.latencies[i].latency.getD 0 : Nat) : Int) else 0).sum + (s.activeEntry p).offset)) := by
  have share : (fun i : Fin 64 => (s.latencies[i].contribution : Int)) = fun i : Fin 64 =>
      if s.latencies[i].valid = true ∧ s.latencies[i].ignore = false then
        ((s.latencies[i].latency.getD 0 : Nat) : Int) else 0 := by
    funext i
    unfold LatencyEntry.contribution
    cases s.latencies[i].valid <;> cases s.latencies[i].ignore <;> rfl
  rw [State.alignment, if_neg taken]
  show s.videoMicros (s.activeEntry p) = _
  rw [State.videoMicros, share, clamp_eq _ _ _ (by decide)]
  rfl

theorem State.alignment_video : (s.alignment p l).video = ((s.alignment p l).videoMicros * 48 + 500) / 1000 := by
  rw [State.alignment, if_neg taken]
  exact Int.fdiv_eq_ediv_of_nonneg _ (by decide)

theorem State.alignment_audio : (s.alignment p l).audio = s.audioLatency p := by
  rw [State.alignment, if_neg taken]

theorem State.alignment_unclamped :
    (s.alignment p l).unclamped = (s.alignment p l).video - (s.alignment p l).audio + (s.activeEntry p).trim := by
  rw [State.alignment, if_neg taken]

theorem State.alignment_target : ((s.alignment p l).target : Int) =
    max 0 (min ((min (s.programs[p].delay.blocks * 1024 - 1) 96000 : Nat) : Int) (s.alignment p l).unclamped) := by
  rw [State.alignment, if_neg taken]
  show ((clamp _ 0 (s.programs[p].delay.limit : Int)).toNat : Int) = max 0 (min (s.programs[p].delay.limit : Int) _)
  rw [clamp_eq _ _ _ (Int.natCast_nonneg _)]
  exact Int.toNat_of_nonneg (Int.le_max_left 0 _)

theorem State.alignment_late : (s.alignment p l).audioLate = true ↔ (s.alignment p l).unclamped < 0 := by
  rw [State.alignment, if_neg taken]
  exact decide_eq_true_iff

theorem State.alignment_clamp : (s.alignment p l).delayClamp = true ↔
    ((min (s.programs[p].delay.blocks * 1024 - 1) 96000 : Nat) : Int) < (s.alignment p l).unclamped := by
  rw [State.alignment, if_neg taken]
  exact decide_eq_true_iff

end

/-- The computation touches the seven computed items alone. -/
theorem State.alignment_eq (s : State) (p : Fin 16) (l : LipSync) : s.alignment p l = { l with
    videoMicros := (s.alignment p l).videoMicros, video := (s.alignment p l).video, audio := (s.alignment p l).audio
    unclamped := (s.alignment p l).unclamped, target := (s.alignment p l).target
    audioLate := (s.alignment p l).audioLate, delayClamp := (s.alignment p l).delayClamp } := by
  unfold State.alignment
  dsimp only
  split <;> rfl

/-! ### What a computation does (R125 to R127, R131, R135) -/

/-- The program with the computed items stored and its changed flag following the two flags (R135). -/
def Program.aligned (g : Program) (l : LipSync) : Program := { g with
  lip := l, changed := g.changed || decide (l.audioLate ≠ g.lip.audioLate ∨ l.delayClamp ≠ g.lip.delayClamp) }

theorem flagged_eq (a b c d : Bool) : (a != b || c != d) = decide (a ≠ b ∨ c ≠ d) := by
  cases a <;> cases b <;> cases c <;> cases d <;> rfl

/-- A computation replaces one program: it stores its items and hands the target to the rule of the program's state. -/
theorem State.recompute_put (s : State) (p : Fin 16) : s.recompute p = s.putProgram p
    ((s.programs[p].aligned (s.alignment p s.programs[p].lip)).follow s.house.count (s.activeEntry p)
      (decide ((s.alignment p s.programs[p].lip).target ≠ s.programs[p].lip.target))) := by
  rw [Program.aligned, ← flagged_eq]
  rfl

theorem State.recompute_program (s : State) (p : Fin 16) : (s.recompute p).programs[p] =
    (s.programs[p].aligned (s.alignment p s.programs[p].lip)).follow s.house.count (s.activeEntry p)
      (decide ((s.alignment p s.programs[p].lip).target ≠ s.programs[p].lip.target)) := by
  rw [State.recompute_put, State.putProgram_self]

section
variable {g : Program} (now : BitVec 48) (e : ProgramEntry) (moved : Bool)

theorem Program.follow_free (h : g.state = .free) :
    g.follow now e moved = g.withLip fun l => { l with actual := 0 } := by
  rw [Program.follow, h]

theorem Program.follow_stopped (h : g.state = .stopped) :
    g.follow now e moved = g.withLip fun l => { l with actual := l.target } := by
  rw [Program.follow, h]

theorem Program.follow_filling_or_stopping (h : g.state = .filling ∨ g.state = .stopping) :
    g.follow now e moved = if moved then g.jumpTo g.lip.target else g := by
  rcases h with h | h <;> rw [Program.follow, h]

theorem Program.follow_running (h : g.state = .running) : g.follow now e moved = g.judge now e moved := by
  rw [Program.follow, h]

theorem Program.judge_none (h : g.lip.move = .none) :
    g.judge now e moved = if moved && g.beyond e then g.startMove now e else g := by
  rw [Program.judge, h]

theorem Program.judge_waiting (h : g.lip.move = .waiting) :
    g.judge now e moved = if g.beyond e then g else g.withLip fun l => { l with move := .none } := by
  rw [Program.judge, h]

theorem Program.judge_fadingOut (h : g.lip.move = .fadingOut) : g.judge now e moved = g := by
  rw [Program.judge, h]

theorem Program.judge_fadingIn (h : g.lip.move = .fadingIn) : g.judge now e moved =
    if g.beyond e then if moved then g.withLip fun l => { l with pendingMove := true } else g
    else g.withLip fun l => { l with pendingMove := false } := by
  rw [Program.judge, h]

/-- What a move in the move mode of the entry starts with (R130, R131). -/
theorem Program.startMove_dip (mode : e.moveMode = .dip) (rest : g.corr.dip = .rest) :
    g.startMove now e = { g with
      lip := { g.lip with move := .fadingOut, pendingMove := false }
      corr := { g.corr with dip := .fadeOut, dipCount := 0 } } := by
  rw [Program.startMove, mode]
  show g.requestFadeOut = _
  rw [Program.requestFadeOut, if_pos rest]

theorem Program.startMove_quiet (mode : e.moveMode = .quiet) : g.startMove now e = g.withLip fun l =>
    { l with move := .waiting, pendingMove := false, waitStart := now, waitLength := 48000 * e.quietWait } := by
  rw [Program.startMove, mode]
  rfl

end

/-- A FREE program is computed to 0 and false throughout (R124, R126). -/
theorem State.recompute_free {s : State} {p : Fin 16} (free : s.programs[p].state = .free) :
    (s.recompute p).programs[p] = { s.programs[p] with
      changed := s.programs[p].changed || s.programs[p].lip.audioLate || s.programs[p].lip.delayClamp
      lip := { s.programs[p].lip with
        videoMicros := 0, video := 0, audio := 0, unclamped := 0, target := 0, actual := 0
        audioLate := false, delayClamp := false } } := by
  rw [State.recompute_program, Program.follow_free (g := s.programs[p].aligned _) _ _ _ free, State.alignment, if_pos free]
  unfold Program.withLip Program.aligned
  dsimp only
  rw [Bool.or_assoc]
  cases s.programs[p].lip.audioLate <;> cases s.programs[p].lip.delayClamp <;> rfl

/-- Settles O29: the computed items are the alignment's, and each state and move state has its rule. -/
theorem targetDelay : Obligations.TargetDelay := by
  refine ⟨entryValues, fun s p => ?_⟩
  dsimp only
  have program := s.recompute_program p
  have same := s.alignment_eq p s.programs[p].lip
  obtain ⟨-, -, -, -, -, -, -, -, -, -, micros, video, audio, unclamped, target, late, clamped, -⟩ :=
    (Program.follow_moved s.house.count (s.activeEntry p)
      (decide ((s.alignment p s.programs[p].lip).target ≠ s.programs[p].lip.target))
      (s.programs[p].aligned (s.alignment p s.programs[p].lip))).keeps
  rw [← program] at micros video audio unclamped target late clamped
  refine ⟨?_, State.recompute_free, fun taken => ?_⟩
  · rw [program]
    exact s.recompute_put p
  · rw [micros, video, audio, unclamped, target, late, clamped]
    dsimp only [Program.aligned]
    rw [← same]
    refine ⟨State.alignment_micros taken _, ?_, fun most bound held => ?_, State.alignment_unclamped taken _,
      State.alignment_target taken _, State.alignment_late taken _, State.alignment_clamp taken _, ?_⟩
    · rw [State.alignment_video taken, State.alignment_micros taken]
    · rw [State.alignment_audio taken, State.audioLatency_eq bound held]
      push_cast
      rfl
    · rw [program]
      generalize s.alignment p s.programs[p].lip = a at same
      generalize s.programs[p] = g at same
      obtain ⟨vm, v, au, u, t, al, dc, rfl⟩ : ∃ vm v au u t al dc, a = { g.lip with
          videoMicros := vm, video := v, audio := au, unclamped := u, target := t, audioLate := al, delayClamp := dc } :=
        ⟨_, _, _, _, _, _, _, same⟩
      refine ⟨fun stopped => ?_, fun paused => ⟨fun unmoved => ?_, fun moved => ?_⟩, fun running => ?_⟩
      · rw [Program.follow_stopped (g := g.aligned _) _ _ _ stopped]
        rfl
      · rw [Program.follow_filling_or_stopping (g := g.aligned _) _ _ _ paused, if_neg (by simpa using unmoved)]
        rfl
      · rw [Program.follow_filling_or_stopping (g := g.aligned _) _ _ _ paused, if_pos (decide_eq_true moved)]
        rfl
      · rw [Program.follow_running (g := g.aligned _) _ _ _ running]
        refine ⟨fun still stays => ?_, fun still moved beyond => ⟨fun dip rest => ?_, fun quiet => ?_⟩,
          fun waiting beyond => ?_, fun waiting near => ?_, fun fading => ?_, fun fading beyond moved => ?_,
          fun fading beyond unmoved => ?_, fun fading near => ?_⟩
        · refine (Program.judge_none _ _ _ (by exact still)).trans (if_neg ?_)
          rw [Bool.and_eq_true, decide_eq_true_eq]
          rintro ⟨moved, beyond⟩
          exact stays.elim (absurd moved) (absurd (of_decide_eq_true beyond))
        · refine (Program.judge_none _ _ _ (by exact still)).trans ((if_pos ?_).trans (Program.startMove_dip _ _ dip rest))
          exact Bool.and_eq_true_iff.mpr ⟨decide_eq_true moved, decide_eq_true beyond⟩
        · refine (Program.judge_none _ _ _ (by exact still)).trans ((if_pos ?_).trans (Program.startMove_quiet _ _ quiet))
          exact Bool.and_eq_true_iff.mpr ⟨decide_eq_true moved, decide_eq_true beyond⟩
        · exact (Program.judge_waiting _ _ _ (by exact waiting)).trans (if_pos (decide_eq_true beyond))
        · exact (Program.judge_waiting _ _ _ (by exact waiting)).trans (if_neg (decide_eq_true_iff.not.mpr near))
        · exact Program.judge_fadingOut _ _ _ (by exact fading)
        · exact (Program.judge_fadingIn _ _ _ (by exact fading)).trans
            ((if_pos (decide_eq_true beyond)).trans (if_pos (decide_eq_true moved)))
        · exact (Program.judge_fadingIn _ _ _ (by exact fading)).trans
            ((if_pos (decide_eq_true beyond)).trans (if_neg (decide_eq_true_iff.not.mpr unmoved)))
        · exact (Program.judge_fadingIn _ _ _ (by exact fading)).trans (if_neg (decide_eq_true_iff.not.mpr near))

end Sys2Proof.Machine
end

section
/-! RESET STREAM, RESET PART and the writes of a Stream Table entry (R8, R9, R171, R175, R179). -/

namespace Sys2Proof.Machine

/-! ### An accepted write of a stream entry (R9, R125) -/

/-- A context reset leaves no frames, so the highest watermark stays and the lowest becomes 0. -/
theorem Context.restart_eq (c : Context) (valid : Bool) : c.restart valid = { c with
    state := if valid = true then .acquire else .empty
    expected := none, last := none, buffer := [], writeIndex := 0, pos := 0
    integrator := 0, correction := 0, lastError := 0, lockCount := 0, windowSum := 0, windowCount := 0
    minFill := 0 } := by
  have greatest : max c.maxFill 0 = c.maxFill := Nat.max_zero _
  have least : min c.minFill 0 = 0 := Nat.min_zero _
  have flushed (st : ContextState) (empty : st = .empty ∨ st = .acquire) : c.flushTo st = { c with
      state := st, buffer := [], writeIndex := 0, lockCount := 0, windowSum := 0, windowCount := 0, minFill := 0 } := by
    show ({ c with
      state := st, buffer := [], writeIndex := 0, lockCount := 0, windowSum := 0, windowCount := 0
      maxFill := max c.maxFill (c.flushTo st).fill, minFill := min c.minFill (c.flushTo st).fill } : Context) = _
    rw [(c.flushTo_fill st empty).1, greatest, least]
  cases valid
  · show ({ c.flushTo .empty with
      expected := none, last := none, pos := 0, integrator := 0, correction := 0, lastError := 0 } : Context) = _
    rw [flushed .empty (.inl rfl)]
    rfl
  · show ({ c.flushTo .acquire with
      expected := none, last := none, pos := 0, integrator := 0, correction := 0, lastError := 0 } : Context) = _
    rw [flushed .acquire (.inr rfl)]
    rfl

/-- `s` with a Stream Table entry stored under its reset context, before the programs are computed again. -/
def State.withStream (s : State) (i : Fin 32) (e : StreamEntry) : State :=
  { s with streams := s.streams.set i ⟨e, { s.streams[i].ctx with
    state := if e.valid = true then .acquire else .empty
    expected := none, last := none, buffer := [], writeIndex := 0, pos := 0
    integrator := 0, correction := 0, lastError := 0, lockCount := 0, windowSum := 0, windowCount := 0
    minFill := 0 }⟩ }

theorem State.storeStream_eq (s : State) (i : Fin 32) (e : StreamEntry) :
    s.storeStream i e = (s.withStream i e).recomputeAll := by
  have stored : s.modifyStream i (fun t => ⟨e, t.ctx.restart e.valid⟩) = s.withStream i e := by
    unfold State.modifyStream State.withStream
    dsimp only
    rw [Context.restart_eq]
  rw [State.storeStream, stored]

/-- Beside the stream an accepted write touches the programs alone, each computed again by itself. -/
theorem State.storeStream_programs (s : State) (i : Fin 32) (e : StreamEntry) :
    s.storeStream i e = { s.withStream i e with programs := (s.storeStream i e).programs } ∧
      ∀ p : Fin 16, (s.storeStream i e).programs[p] = ((s.withStream i e).recompute p).programs[p] := by
  rw [State.storeStream_eq]
  exact ⟨State.recomputeAll_rest _, State.recomputeAll_programs _⟩

/-! ### Orders answered at once -/

section
variable {s : State} {before after : List Order} {o : Order} {kind : Nat}

/-- An order answered at once acts on the part without the order. -/
theorem State.OrderReady.takeImmediate (h : s.OrderReady before o after kind) (known : kind < 16)
    (act : Order → State → Status × List Byte × State) : s.take kind (State.immediate act) =
      (act o (s.withOrders (before ++ after))).2.2.reply o o.table (act o (s.withOrders (before ++ after))).1
        (act o (s.withOrders (before ++ after))).2.1 none := by
  rw [h.take known, State.immediate, h.withoutTaken]
  rfl

end

theorem resetStreamAct_of_index {o : Order} {i : Fin 32} (index : o.index = i.val) (s : State) :
    resetStreamAct o s = (.done, [], s.storeStream i s.streams[i].entry) := by
  have lt : o.index < 32 := index ▸ i.isLt
  obtain rfl : ⟨o.index, lt⟩ = i := Fin.ext index
  exact dif_pos lt

/-- Settles O43: the entry is stored again, and every program computed by itself. -/
theorem resetStreamResult : Obligations.ResetStreamResult := by
  intro s before after o ready
  have taken : exec .resetStream s = .next (s.take 11 (State.immediate resetStreamAct)) := rfl
  rw [ready.takeImmediate (by decide)] at taken
  refine ⟨fun i index => ?_, fun outside => ?_⟩
  · dsimp only
    obtain ⟨rest, programs⟩ := s.storeStream_programs i s.streams[i].entry
    have act : resetStreamAct o (s.withOrders (before ++ after)) =
        (.done, [], (s.storeStream i s.streams[i].entry).withOrders (before ++ after)) := by
      rw [resetStreamAct_of_index index, State.withOrders_storeStream]
      rfl
    refine ⟨s.storeStream i s.streams[i].entry, ?_, rest, fun p => ⟨programs p, ?_, ?_⟩⟩
    · rw [taken, act]
      exact congrArg _ (State.withOrders_reply _ _ _ _ _)
    · rw [programs]
      exact (State.recompute_keeps p _).1
    · rw [programs]
      exact (State.recompute_keeps p _).2.1
  · have act : resetStreamAct o (s.withOrders (before ++ after)) = (.range, [], s.withOrders (before ++ after)) :=
      dif_neg (by omega)
    rw [taken, act]
    exact congrArg _ (State.withOrders_reply _ _ _ _ _)

/-! ### RESET PART and the resets (R6, R169, R176, R179) -/

/-- The sixteen order commands each take the oldest waiting order if it is of their kind. -/
theorem exec_orderCommand (c : Instr) (hc : c ∈ [Instr.nop, .readEntry, .readNext, .writeEntry, .writeNext, .clearEntry,
    .swapProgramBank, .startProgram, .stopProgram, .allocateDelay, .releaseDelay, .resetStream, .resetIntegration,
    .acknowledge, .sendLatency, .resetPart]) (s : State) :
    ∃ (kind : Nat) (handle : Order → State → State), exec c s = .next (s.take kind handle) := by
  simp only [List.mem_cons, List.not_mem_nil, or_false] at hc
  rcases hc with rfl | rfl | rfl | rfl | rfl | rfl | rfl | rfl | rfl | rfl | rfl | rfl | rfl | rfl | rfl | rfl <;>
    exact ⟨_, _, rfl⟩

/-- Settles O49: the reply and the phase, the sixteen order commands while the reset is awaited, and the two resets. -/
theorem resetsAct : Obligations.ResetsAct := by
  intro s
  dsimp only
  refine ⟨fun before after o ready => ?_, fun awaited c hc => ?_, fun due => ?_, fun undue => ?_, fun straps => rfl⟩
  · show Host.Outcome.next (s.take 15 State.resetPartOrder) = _
    rw [ready.take (by decide), State.resetPartOrder, ready.withoutTaken]
    simp only [State.answer, List.length_append]
  · obtain ⟨kind, handle, taken⟩ := exec_orderCommand c hc s
    rw [taken, s.take_none awaited]
  · exact congrArg Host.Outcome.next (if_pos due : s.partReset = s.resetKeeping _ _)
  · exact congrArg Host.Outcome.next (if_neg undue : s.partReset = s)

end Sys2Proof.Machine
end

section
/-! The writes of a Stream Table and of a Program Table entry (R8, R9, R44 to R46, R175). -/

namespace Sys2Proof.Machine

/-! ### The tests of R8 -/

/-- What a writing order puts into an entry is what its contents or the power-on contents give. -/
theorem State.Writes.fromOrder {s : State} {before after : List Order} {o : Order} {table : Table} {which : Bank} {i : Nat}
    {n : NewEntry} {c : Instr} {cursor : Option Cursor} (h : s.Writes before o after table which i n c cursor) :
    n.FromOrder := by
  cases h with
  | entry _ _ _ read => exact .inl ⟨_, _, read⟩
  | next _ _ _ _ read => exact .inl ⟨_, _, read⟩
  | clear _ _ cleared => exact .inr ⟨_, _, _, cleared⟩

/-- Two valid entries with lanes that share no key and no slot do not conflict. -/
theorem StreamEntry.not_conflicts {e f : StreamEntry} (lanes : 1 ≤ e.lanes) (lanes' : 1 ≤ f.lanes) (key : f.key ≠ e.key)
    (slots : ∀ k, e.covers k = true → f.covers k = false) : ¬ e.conflicts f = true := by
  rw [StreamEntry.conflicts_iff]
  rintro ⟨ve, vf, same | ⟨ef, fe⟩⟩
  · exact key same.symm
  · have shared := slots (max e.first f.first) ((e.covers_iff _).mpr ⟨ve, by omega, by omega⟩)
    rw [(f.covers_iff _).mpr ⟨vf, by omega, by omega⟩] at shared
    cases shared

/-- A key or a slot in common makes two valid entries conflict. -/
theorem StreamEntry.conflicts_of_shared {e f : StreamEntry} (ve : e.valid = true) (vf : f.valid = true)
    (shared : f.key = e.key ∨ ∃ k, e.covers k = true ∧ f.covers k = true) : e.conflicts f = true := by
  rw [StreamEntry.conflicts_iff]
  refine ⟨ve, vf, shared.imp Eq.symm ?_⟩
  rintro ⟨k, ce, cf⟩
  obtain ⟨-, le, lt⟩ := (e.covers_iff k).mp ce
  obtain ⟨-, le', lt'⟩ := (f.covers_iff k).mp cf
  omega

section
variable {s : State} {before after : List Order} {o : Order} {i : Fin 32} {e : StreamEntry} {c : Instr}
  {cursor : Option Cursor} (h : s.Writes before o after .stream .a i.val (.stream e) c cursor)
include h

theorem State.Writes.streamStored (passes : ¬ s.streamRefused i e = true) :
    exec c s = .next ((s.storeStream i e).answered before o after 1 .done [] cursor) := by
  have index : Fin.ofNat 32 i.val = i := Fin.ofNat_val_eq_self i
  rw [h.exec_eq]
  show Host.Outcome.next ((s.writeStream (Fin.ofNat 32 i.val) e).2.answered before o after _
    (s.writeStream (Fin.ofNat 32 i.val) e).1 [] cursor) = _
  rw [index, State.writeStream, if_neg passes]
  rfl

theorem State.Writes.streamRefused (refused : s.streamRefused i e = true) :
    exec c s = .next (s.answered before o after 1 .range [] cursor) := by
  have index : Fin.ofNat 32 i.val = i := Fin.ofNat_val_eq_self i
  rw [h.exec_eq]
  show Host.Outcome.next ((s.writeStream (Fin.ofNat 32 i.val) e).2.answered before o after _
    (s.writeStream (Fin.ofNat 32 i.val) e).1 [] cursor) = _
  rw [index, State.writeStream, if_pos refused]
  rfl

end

/-! ### A new entry comes into force in a program that does not process (R46, R54, R64, R79, R82, R87, R88) -/

/-- The filters and peaks of the members under a new entry (R64, R79). -/
theorem Meter.zeroChanged_trimPeaks (m : Meter) (slots slots' : List (Fin 128)) (old new : Nat) :
    (m.zeroChanged slots slots').trimPeaks old new = { m with
      filters := .ofFn fun k => if slots[k.val]? = slots'[k.val]? then m.filters[k] else ⟨⟨0, 0, 0, 0⟩, ⟨0, 0, 0, 0⟩⟩
      peaks := .ofFn fun k => if old = new ∨ k.val < new then m.peaks[k] else 0 } := by
  unfold Meter.trimPeaks
  by_cases same : old = new
  · have kept : m.peaks = Vector.ofFn fun k => if old = new ∨ k.val < new then m.peaks[k] else 0 := by
      ext k
      simp [same]
    rw [if_pos same, ← kept]
    rfl
  · rw [if_neg same]
    simp only [same, false_or]
    rfl

/-- The correction of a STOPPED program under a new entry: the gain follows R87, and a smaller W shortens the ring (R82). -/
theorem Program.loudnessFields_stopped {g : Program} (e : ProgramEntry) (stopped : g.state = .stopped) :
    let ring := g.corr.ring.drop (g.corr.ring.length - e.window * 10)
    let shorter : Bool := decide (e.window * 10 < g.corr.ring.length)
    g.loudnessFields e = { g with corr := { g.corr with
      gain := match e.mode with
        | .measure => e.preset
        | .track => if g.corr.gain < -e.maxCut then -e.maxCut else if e.maxBoost < g.corr.gain then e.maxBoost
          else g.corr.gain
      ring := ring
      window := if shorter then (windowLoudness ring).2 else g.corr.window
      windowGate := if shorter then (windowLoudness ring).1 else g.corr.windowGate } } := by
  dsimp only
  unfold Program.loudnessFields Correction.shorten
  rw [if_neg (by rw [stopped]; nofun)]
  dsimp only
  rw [if_neg (by rw [stopped]; nofun)]
  unfold Program.withCorr
  dsimp only
  by_cases shorter : e.window * 10 < g.corr.ring.length
  · rw [if_pos shorter, decide_eq_true shorter]
    rfl
  · have whole : g.corr.ring.drop (g.corr.ring.length - e.window * 10) = g.corr.ring := by
      rw [Nat.sub_eq_zero_of_le (by omega), List.drop_zero]
    rw [if_neg shorter, decide_eq_false shorter, whole]
    rfl

theorem Program.loudnessFields_free {g : Program} (e : ProgramEntry) (free : g.state = .free) : g.loudnessFields e = g :=
  if_pos free

/-- The state outcome of R46: STOPPED under a valid entry, and under another FREE, which ends what a STOPPED program
holds. -/
theorem Program.outcome_valid {g : Program} (old : ProgramEntry) {new : ProgramEntry} (still : g.state.processing = false)
    (valid : new.valid = true) : g.outcome old new = g.enter .stopped := by
  rw [Program.outcome, if_pos valid]
  by_cases free : g.state = .free
  · rw [if_pos free]
  · have stopped : g.state = .stopped := by
      cases state : g.state <;> simp_all [ProgramState.processing]
    rw [if_neg free, if_neg (by rw [still]; nofun), Program.enter, stopped]
    simp [← stopped]

theorem Program.outcome_free {g : Program} (old : ProgramEntry) {new : ProgramEntry} (invalid : new.valid = false)
    (free : g.state = .free) : g.outcome old new = g := by
  rw [Program.outcome, invalid, if_neg (by nofun), if_pos free]

theorem Program.outcome_freed {g : Program} (old : ProgramEntry) {new : ProgramEntry} (invalid : new.valid = false)
    (taken : g.state ≠ .free) : g.outcome old new = g.halt .free := by
  rw [Program.outcome, invalid, if_neg (by nofun), if_neg taken]

/-- What a program takes over from a new entry after its state outcome: the rings released or kept, fallback, the meter,
and the loudness fields. -/
def Program.takeIn (old new : ProgramEntry) (slots : List (Fin 128)) (released fallback : Bool) (g : Program) : Program :=
  ({ g with
    delay := if released then .none else g.delay
    fallbackInUse := fallback
    changed := g.changed || decide (g.fallbackInUse ≠ fallback)
    meter := (g.meter.zeroChanged slots (effectiveSlots new fallback)).trimPeaks old.members.length
      new.members.length }).loudnessFields new

theorem Program.outcome_votes (old new : ProgramEntry) (g : Program) : (g.outcome old new).votes = g.votes := by
  unfold Program.outcome
  split
  · split
    · rfl
    · split <;> rfl
  · split <;> rfl

theorem State.releaseBlocks_put (s : State) (p : Fin 16) (g : Program) : (s.putProgram p g).releaseBlocks p =
    ({ s with freeList := s.freeList ++ g.delay.rings.flatten }).putProgram p { g with delay := .none } := by
  have released : (s.putProgram p g).releaseBlocks p =
      ({ s.putProgram p g with freeList := s.freeList ++ (s.putProgram p g).programs[p].delay.rings.flatten }).putProgram p
        { (s.putProgram p g).programs[p] with delay := .none } := rfl
  rw [released, State.putProgram_self]
  exact State.putProgram_put (s := { s with freeList := s.freeList ++ g.delay.rings.flatten }) p g _

theorem State.wantsFallback_put (s : State) (p : Fin 16) (g : Program) : (s.putProgram p g).wantsFallback p =
    (decide (0 < g.votes.fallback) && (s.activeEntry p).fallback.isSome) := by
  rw [State.wantsFallback, State.putProgram_self]
  rfl

/-- A new entry in force replaces one program, and its rings may go back to the free list. -/
theorem State.bringIn_eq (old : ProgramEntry) (p : Fin 16) (s : State) :
    let new := s.activeEntry p
    let g := s.programs[p].outcome old new
    s.bringIn old p = (({ s with
      freeList := if ringsReleased new g = true then s.freeList ++ g.delay.rings.flatten else s.freeList }).putProgram p
        (g.takeIn old new (effectiveSlots old s.programs[p].fallbackInUse) (ringsReleased new g)
          (decide (0 < s.programs[p].votes.fallback) && new.fallback.isSome))).recompute p := by
  dsimp only
  have votes := Program.outcome_votes old (s.activeEntry p) s.programs[p]
  unfold State.bringIn
  dsimp only
  simp only [State.modifyProgram_eq, State.putProgram_self]
  generalize s.programs[p].outcome old (s.activeEntry p) = g at votes
  by_cases released : ringsReleased (s.activeEntry p) g = true
  · rw [if_pos released, if_pos released, State.releaseBlocks_put, State.wantsFallback_put, State.putProgram_self,
      State.putProgram_put, State.putProgram_put, released, ← votes]
    rfl
  · rw [if_neg released, if_neg released, State.wantsFallback_put, State.putProgram_self,
      State.putProgram_put, State.putProgram_put, ← votes, Bool.eq_false_of_not_eq_true released]
    rfl

/-! ### The write of a Program Table entry (R44 to R46) -/

theorem State.setBankEntry_eq (s : State) (which : Bank) (p : Fin 16) (e : ProgramEntry) : s.setBankEntry which p e = { s with
    bankA := if which = .a then s.bankA.set p e else s.bankA, bankB := if which = .b then s.bankB.set p e else s.bankB } := by
  cases which <;> rfl

theorem State.setBankEntry_active (s : State) (p : Fin 16) (e : ProgramEntry) :
    (s.setBankEntry s.activeBank p e).activeEntry p = e := by
  unfold State.setBankEntry State.activeEntry State.bank
  cases s.activeBank <;> simp

theorem Program.outcome_delay (old new : ProgramEntry) (g : Program) : (g.outcome old new).delay = g.delay := by
  unfold Program.outcome
  split
  · split
    · rfl
    · split <;> rfl
  · split <;> rfl

theorem ringsReleased_outcome (g : Program) (old e : ProgramEntry) : ringsReleased e (g.outcome old e) =
    (e.valid && decide (g.delay.rings ≠ [] ∧ g.delay.rings.length ≠ e.members.length)) := by
  rw [ringsReleased, Program.outcome_delay, Bool.and_assoc, Bool.decide_and]

/-- A program that does not process under a new entry, item by item (R46). -/
theorem Program.takeIn_outcome {g : Program} (still : g.state.processing = false) (old e : ProgramEntry)
    (slots : List (Fin 128)) (released fallback : Bool) :
    let state : ProgramState := if e.valid = true then .stopped else .free
    let freed : Bool := !e.valid && decide (g.state ≠ .free)
    let slots' := effectiveSlots e fallback
    let ring := g.corr.ring.drop (g.corr.ring.length - e.window * 10)
    let shorter : Bool := decide (e.window * 10 < g.corr.ring.length)
    (g.outcome old e).takeIn old e slots released fallback = { g with
      state := state
      changed := g.changed || decide (g.state ≠ state) || decide (g.fallbackInUse ≠ fallback)
      fallbackInUse := fallback
      meter := { g.meter with
        filters := .ofFn fun k => if slots[k.val]? = slots'[k.val]? then g.meter.filters[k] else ⟨⟨0, 0, 0, 0⟩, ⟨0, 0, 0, 0⟩⟩
        peaks := .ofFn fun k =>
          if old.members.length = e.members.length ∨ k.val < e.members.length then g.meter.peaks[k] else 0 }
      corr :=
        if e.valid = true then { g.corr with
          gain := match e.mode with
            | .measure => e.preset
            | .track => if g.corr.gain < -e.maxCut then -e.maxCut else if e.maxBoost < g.corr.gain then e.maxBoost
              else g.corr.gain
          ring := ring
          window := if shorter then (windowLoudness ring).2 else g.corr.window
          windowGate := if shorter then (windowLoudness ring).1 else g.corr.windowGate }
        else if freed then { g.corr with
          gain := 0, schedule := [], ramp := { g.corr.ramp with present := g.corr.ramp.finish, count := 480 }
          dip := .rest, dipCount := 0, stop := 0 }
        else g.corr
      delay := if released then ⟨0, [], 0, 0⟩ else g.delay
      lip := if freed then { g.lip with move := .none, pendingMove := false } else g.lip
      egress := if freed then { g.egress with progress := [] } else g.egress } := by
  dsimp only
  unfold Program.takeIn
  rw [Meter.zeroChanged_trimPeaks]
  cases valid : e.valid
  · by_cases free : g.state = .free
    · rw [Program.outcome_free old valid free]
      refine (Program.loudnessFields_free e (by exact free)).trans ?_
      simp only [Bool.false_eq_true, if_false, free, ne_eq, not_true_eq_false, decide_false, Bool.and_false, Bool.or_false]
      rfl
    · rw [Program.outcome_freed old valid free]
      refine (Program.loudnessFields_free e (by exact rfl)).trans ?_
      have changed : (g.halt .free).changed = (g.changed || true) :=
        congrArg (g.changed || ·) (decide_eq_true (by exact free))
      simp only [Bool.false_eq_true, if_false, ne_eq, decide_eq_true free, Bool.not_false, Bool.and_true, if_true,
        changed]
      rfl
  · rw [Program.outcome_valid old still valid]
    refine (Program.loudnessFields_stopped e (by exact rfl)).trans ?_
    simp only [Bool.not_true, Bool.false_and, Bool.false_eq_true, if_false, if_true]
    rfl

theorem programWritesAct : ProgramWritesAct := by
  intro s before after o which p e c cursor h
  dsimp only
  have index : Fin.ofNat 16 p.val = p := Fin.ofNat_val_eq_self p
  have write : exec c s = .next ((s.writeProgram which p e).2.answered before o after 2 (s.writeProgram which p e).1 []
      cursor) := by
    rw [h.exec_eq]
    show Host.Outcome.next ((s.writeProgram which (Fin.ofNat 16 p.val) e).2.answered before o after _
      (s.writeProgram which (Fin.ofNat 16 p.val) e).1 [] cursor) = _
    rw [index]
    rfl
  rw [write, State.writeProgram]
  refine ⟨fun inactive => ?_, fun active processing => ?_, fun active still => ?_⟩
  · rw [if_neg inactive, State.setBankEntry_eq]
  · rw [if_pos active, if_pos processing]
  · rw [if_pos active, if_neg (by rw [still]; nofun)]
    subst active
    have new := s.setBankEntry_active p e
    have brought := State.bringIn_eq (s.activeEntry p) p (s.setBankEntry s.activeBank p e)
    dsimp only at brought
    rw [new, State.setBankEntry_eq, ringsReleased_outcome, Program.outcome_delay] at brought
    refine congrArg (fun u : State => Host.Outcome.next (u.answered before o after 2 .done [] cursor)) ?_
    rw [State.setBankEntry_eq]
    refine brought.trans (congrArg (State.recompute p) ?_)
    exact congrArg (State.putProgram _ p) (Program.takeIn_outcome still (s.activeEntry p) e _ _ _)

/-- Settles O47: the tests of R8 decide the stream write; the program write is `programWritesAct`. -/
theorem streamWritten : Obligations.StreamWritten := by
  refine ⟨fun s before after o i e c cursor h => ?_, programWritesAct⟩
  dsimp only
  have lanes := h.fromOrder.stream_inRange.lanes.1
  refine ⟨fun fits free => ?_, fun j valid ne valid' shared => ?_, fun beyond => ?_⟩
  · obtain ⟨rest, programs⟩ := s.storeStream_programs i e
    refine ⟨s.storeStream i e, h.streamStored ?_, rest, programs⟩
    rw [State.streamRefused_iff]
    rintro (beyond | ⟨j, ne, conflict⟩)
    · omega
    · obtain ⟨valid, valid', -⟩ := (StreamEntry.conflicts_iff _ _).mp conflict
      obtain ⟨key, lanes', slots⟩ := free valid j ne valid'
      exact StreamEntry.not_conflicts lanes lanes' key slots conflict
  · exact h.streamRefused ((State.streamRefused_iff _ _ _).mpr
      (.inr ⟨j, ne, StreamEntry.conflicts_of_shared valid valid' shared⟩))
  · exact h.streamRefused ((State.streamRefused_iff _ _ _).mpr (.inl (by omega)))

end Sys2Proof.Machine
end

section
/-! The events of one stream: the loop update, the gap timeout and the holdover limit (R34 to R36, R39). -/

namespace Sys2Proof.Machine

/-! ### The loop update and the lock test (R34, R35) -/

/-- The error of a window is a mean less T, within its bounds. -/
theorem loopError_eq (targetFill sum : Nat) :
    loopError targetFill sum = max (-1024) (min 1024 ((sum / 480 : Nat) - (targetFill : Int))) :=
  clamp_eq _ _ _ (by decide)

theorem clamp_loopBound (x : Int) : clamp x (-Config.loopBound) Config.loopBound = max (-16777) (min 16777 x) :=
  clamp_eq _ _ _ (by decide)

/-- The context that a loop update leaves, before the lock test is taken (R27, R33, R34). -/
def Context.looped (e : StreamEntry) (c : Context) : Context :=
  let err : Int := max (-1024) (min 1024 ((c.windowSum / 480 : Nat) - (e.targetFill : Int)))
  let integrator : Int := max (-16777) (min 16777 (c.integrator + err * e.gi))
  let correction : Int := max (-16777) (min 16777 (err * e.gp + integrator))
  { c with
    lastError := err, integrator := integrator, correction := correction
    step := e.rate.nominalStep + ⌊(e.rate.nominalStep * correction : ℚ) / 16777216⌋
    windowSum := 0, windowCount := 0 }

theorem Context.lockTest_emptyWindow (c : Context) : c.lockTest.emptyWindow = c.emptyWindow.lockTest := by
  unfold Context.lockTest Context.emptyWindow
  dsimp only
  split
  · rfl
  · split <;> rfl
  · rfl

/-- A loop update that is due takes the lock test with its error and empties the window. -/
theorem Context.loopUpdate_due (e : StreamEntry) (c : Context) (loops : c.state.looping = true)
    (full : 480 ≤ c.windowCount) : c.loopUpdate e = (c.looped e).lockTest := by
  rw [Context.loopUpdate, if_pos ⟨loops, full⟩, Context.lockTest_emptyWindow]
  unfold Context.looped Context.emptyWindow
  dsimp only
  rw [loopError_eq, clamp_loopBound, clamp_loopBound, stepOf_floor]

theorem Context.loopUpdate_undue (e : StreamEntry) (c : Context)
    (undue : c.windowCount < 480 ∨ (c.state ≠ .track ∧ c.state ≠ .locked)) : c.loopUpdate e = c := by
  refine if_neg ?_
  rintro ⟨loops, full⟩
  rcases undue with short | ⟨track, locked⟩
  · exact absurd (show 480 ≤ c.windowCount from full) (by omega)
  · cases state : c.state <;> simp_all [ContextState.looping]

theorem Context.lockTest_track {c : Context} (track : c.state = .track) :
    let count : Nat := if decide (c.lastError.natAbs ≤ 32) then c.lockCount + 1 else 0
    c.lockTest = { c with lockCount := count, state := if 8 ≤ count then .locked else .track } := by
  obtain ⟨⟩ := c
  cases track
  rfl

theorem Context.lockTest_locked {c : Context} (locked : c.state = .locked) :
    c.lockTest = if 256 < c.lastError.natAbs then { c with lockCount := 0, state := .track }
      else { c with lockCount := if decide (c.lastError.natAbs ≤ 32) then c.lockCount + 1 else 0 } := by
  obtain ⟨⟩ := c
  cases locked
  rfl

theorem exec_loopUpdate (s : State) (i : Fin 32) :
    exec (.loopUpdate i.val) s = .next (s.putContext i (s.streams[i].ctx.loopUpdate s.streams[i].entry)) :=
  congrArg Host.Outcome.next (atIndex_fin i State.loopUpdate s)

/-- Settles O12: at a full window the lock test acts on the looped context, and an update not due changes nothing. -/
theorem loopUpdateResult : Obligations.LoopUpdateResult := by
  intro s i
  dsimp only
  rw [exec_loopUpdate]
  refine ⟨fun full => ⟨fun track => ?_, fun locked => ?_⟩, fun undue => ?_⟩
  · rw [Context.loopUpdate_due _ _ (by rw [track]; rfl) full, Context.lockTest_track (by exact track)]
    rfl
  · rw [Context.loopUpdate_due _ _ (by rw [locked]; rfl) full, Context.lockTest_locked (by exact locked)]
    rfl
  · rw [Context.loopUpdate_undue _ _ undue, State.putContext_same]

/-! ### HOLDOVER and LOST (R36, R39) -/

theorem exec_gapTimeout (s : State) (i : Fin 32) : exec (.gapTimeout i.val) s =
    .next (s.putContext i (s.streams[i].ctx.gapTimeout s.streams[i].entry s.house.count)) :=
  congrArg Host.Outcome.next (atIndex_fin i State.gapTimeout s)

theorem exec_holdoverLimit (s : State) (i : Fin 32) : exec (.holdoverLimit i.val) s =
    .next (s.putContext i (s.streams[i].ctx.holdoverLimit s.streams[i].entry s.house.count)) :=
  congrArg Host.Outcome.next (atIndex_fin i State.holdoverLimit s)

theorem ContextState.looping_iff (st : ContextState) : st.looping = true ↔ st = .track ∨ st = .locked := by
  cases st <;> simp [ContextState.looping]

theorem Context.gapTimeout_undue (e : StreamEntry) (now : BitVec 48) (c : Context)
    (undue : (c.state ≠ .track ∧ c.state ≠ .locked) ∨ (now - c.acceptTime).toNat < e.gapTimeout * 48) :
    c.gapTimeout e now = c := by
  refine if_neg ?_
  rintro ⟨loops, late⟩
  rw [ContextState.looping_iff] at loops
  rcases undue with ⟨track, locked⟩ | early
  · exact loops.elim track locked
  · exact Nat.not_le.mpr early late

theorem Context.holdoverLimit_undue (e : StreamEntry) (now : BitVec 48) (c : Context)
    (undue : c.state ≠ .holdover ∨ (now - c.holdoverStart).toNat < e.holdoverLimit * 4800) :
    c.holdoverLimit e now = c := by
  refine if_neg ?_
  rintro ⟨holds, late⟩
  exact undue.elim (absurd holds) fun early => Nat.not_le.mpr early late

/-- Settles O13: each timeout acts at its limit, and below it or in another state changes nothing. -/
theorem holdoverAndLost : Obligations.HoldoverAndLost := by
  intro s i
  dsimp only
  rw [exec_gapTimeout, exec_holdoverLimit]
  refine ⟨fun loops late => ?_, fun undue => ?_, fun holds late => ?_, fun undue => ?_⟩
  · rw [Context.gapTimeout, if_pos ⟨(ContextState.looping_iff _).mpr loops, late⟩]
    rfl
  · rw [Context.gapTimeout_undue _ _ _ undue, State.putContext_same]
  · rw [Context.holdoverLimit, if_pos ⟨holds, late⟩]
  · rw [Context.holdoverLimit_undue _ _ _ undue, State.putContext_same]

end Sys2Proof.Machine
end

section
/-! Swap boundaries without a pending swap (R25, R26, R55). -/

namespace Sys2Proof.Machine

/-- The count and the pulse state that a boundary leaves (R25, R26). -/
def House.recorded (pulse : Presence) (h : House) : House :=
  { h with pulse := pulse, lastBoundary := h.count, boundaryMade := true }

/-- A boundary that hands no swap over is recorded alone. -/
theorem State.boundary_of_no_swap {s : State} (pulse : Presence)
    (none : s.swapPending = false ∨ s.house.boundaryMade = true) :
    s.boundary pulse = { s with house := s.house.recorded pulse } := by
  unfold State.boundary State.handBoundary
  dsimp only
  by_cases made : s.house.boundaryMade = true
  · have same : ({ s.house with pulse := pulse, lastBoundary := s.house.count } : House) = s.house.recorded pulse := by
      rw [House.recorded, ← made]
    rw [if_pos made, same]
  · rw [if_neg made, if_neg (by rw [none.resolve_right made]; nofun)]
    rfl

/-- The end of the time after the last pulse is a boundary of the part's own, once it has come (R25, R26). -/
theorem State.pulseAbsent_due {s : State} (present : s.house.pulse = .present)
    (late : 9600 ≤ (s.house.count - s.house.lastBoundary).toNat) : s.pulseAbsent = s.boundary .absent :=
  if_pos ⟨present, late⟩

theorem State.pulseAbsent_undue {s : State}
    (undue : s.house.pulse = .absent ∨ (s.house.count - s.house.lastBoundary).toNat < 9600) : s.pulseAbsent = s := by
  refine if_neg ?_
  rintro ⟨present, late⟩
  rcases undue with absent | early
  · rw [present] at absent
    cases absent
  · exact Nat.not_le.mpr early late

theorem State.synthesizedBoundary_due {s : State} (absent : s.house.pulse = .absent)
    (late : 1920 ≤ (s.house.count - s.house.lastBoundary).toNat) : s.synthesizedBoundary = s.boundary .absent :=
  if_pos ⟨absent, late⟩

theorem State.synthesizedBoundary_undue {s : State}
    (undue : s.house.pulse = .present ∨ (s.house.count - s.house.lastBoundary).toNat < 1920) :
    s.synthesizedBoundary = s := by
  refine if_neg ?_
  rintro ⟨absent, late⟩
  rcases undue with present | early
  · rw [absent] at present
    cases present
  · exact Nat.not_le.mpr early late

/-- Settles O16: a boundary without a swap is recorded, and the part's own boundaries come at their times alone. -/
theorem boundaryWithoutSwap : Obligations.BoundaryWithoutSwap := by
  intro s
  dsimp only
  refine ⟨fun none => ?_, fun none present late => ?_, fun none absent late => ?_, fun undue => ?_, fun undue => ?_⟩
  · exact congrArg Host.Outcome.next (State.boundary_of_no_swap .present none)
  · exact congrArg Host.Outcome.next ((State.pulseAbsent_due present late).trans (State.boundary_of_no_swap .absent none))
  · exact congrArg Host.Outcome.next
      ((State.synthesizedBoundary_due absent late).trans (State.boundary_of_no_swap .absent none))
  · exact congrArg Host.Outcome.next (State.pulseAbsent_undue undue)
  · exact congrArg Host.Outcome.next (State.synthesizedBoundary_undue undue)

end Sys2Proof.Machine
end

section
/-! What a boundary with a pending swap makes first: the meter update and the packet that are due of a program that the swap
cuts (R65, R158; log 21). -/

namespace Sys2Proof.Machine

/-! ### A meter update, seen from outside (R65) -/

/-- The gain law changes Correction's state alone. -/
theorem Program.gainLaw_rest (e : ProgramEntry) (momentary : Option Int) (g : Program) :
    g.gainLaw e momentary = { g with corr := (g.gainLaw e momentary).corr } := by
  unfold Program.gainLaw
  split
  · split
    · rfl
    · dsimp only
      split
      · rfl
      · rw [Program.appendGain_eq]
        rfl
  · rfl

/-- An update changes the meter, which awaits none after it, and Correction. -/
theorem Program.update_rest (e : ProgramEntry) (processedIn : ProgramState) (g : Program) :
    g.update e processedIn = { g with
      meter := { (g.update e processedIn).meter with due := none }, corr := (g.update e processedIn).corr } := by
  unfold Program.update Program.correctionUpdate
  rw [Program.gainLaw_rest]
  dsimp only
  split
  · split <;> rfl
  · rfl

/-- A report marks its program and replaces what it last reported; the other programs stay. -/
theorem State.reportLatency_put (p : Fin 16) (s : State) : ∃ l c reports flags, s.reportLatency p =
    ({ s with reportQueue := reports, flags := flags }).putProgram p { s.programs[p] with lip := l, changed := c } := by
  unfold State.reportLatency
  dsimp only
  split
  · exact ⟨_, _, s.reportQueue, s.flags, (s.putProgram_same p).symm⟩
  · have offered (r : LatencyReport) (t : State) :
        ∃ reports flags, t.offerReport r = { t with reportQueue := reports, flags := flags } := ⟨_, _, t.offerReport_rest r⟩
    obtain ⟨reports, flags, e⟩ := offered ⟨p, s.egressTable[p].reporter, outgoingMicros s.programs[p].lip.audio
      s.programs[p].lip.actual⟩ (s.modifyProgram p _)
    rw [e]
    exact ⟨_, true, reports, flags, rfl⟩

/-- What a meter update leaves of its program: its state, its content index and its packet; it awaits no update where it
processes house samples. -/
theorem State.meterUpdate_put (p : Fin 16) (s : State) :
    ∃ g reports flags, s.meterUpdate p = ({ s with reportQueue := reports, flags := flags }).putProgram p g ∧
      g.state = s.programs[p].state ∧ (g.state.processing = true → g.meter.due = none) := by
  unfold State.meterUpdate
  split
  · next due => exact ⟨_, s.reportQueue, s.flags, (s.putProgram_same p).symm, rfl, fun _ => due⟩
  · next processedIn _ =>
    split
    · obtain ⟨l, c, reports, flags, reported⟩ :=
        State.reportLatency_put p (s.modifyProgram p (·.update (s.activeEntry p) processedIn))
      rw [State.modifyProgram_self, Program.update_rest] at reported
      obtain ⟨state, -, -, -, meter, -⟩ := (Program.quietMove_moved { s.programs[p] with
        meter := { (s.programs[p].update (s.activeEntry p) processedIn).meter with due := none }
        corr := (s.programs[p].update (s.activeEntry p) processedIn).corr, lip := l, changed := c }).keeps
      refine ⟨_, reports, flags, ?_, state, fun _ => congrArg Meter.due meter⟩
      rw [reported, State.modifyProgram_eq, State.putProgram_self, State.putProgram_put]
      exact State.putProgram_put (s := { s with reportQueue := reports, flags := flags }) p _ _
    · next still =>
      exact ⟨_, s.reportQueue, s.flags, (s.putProgram_same p).symm, rfl, fun processing => absurd processing still⟩

theorem State.meterUpdate_of_not_due {p : Fin 16} {s : State} (none : s.programs[p].meter.due = none) :
    s.meterUpdate p = s := by
  unfold State.meterUpdate
  rw [none]

/-! ### A packet that completes, seen from outside (R51, R158) -/

theorem State.packetEnds_iff (p : Fin 16) (s : State) : s.packetEnds p = true ↔
    s.programs[p].egress.progress ≠ [] ∧ s.programs[p].content.toNat % s.egressTable[p].packetSize = 0 := by
  rw [State.packetEnds, Bool.and_eq_true, decide_eq_true_eq, decide_eq_true_eq]

theorem State.packetComplete_of_incomplete {p : Fin 16} {s : State} (h : s.programs[p].egress.progress = [] ∨
    s.programs[p].content.toNat % s.egressTable[p].packetSize ≠ 0) : s.packetComplete p = s := by
  refine if_neg ?_
  rw [State.packetEnds_iff]
  rintro ⟨some, ends⟩
  exact h.elim some (absurd ends)

theorem State.completeStop_put (p : Fin 16) (s : State) :
    ∃ orders replies, s.completeStop p = { s with orders := orders, replyQueue := replies } := by
  unfold State.completeStop
  rcases s.completeDeferred_spec fun o => decide (o.kind = kindStop) && decide (o.index = p.val)
    with e | ⟨_, _, _, _, _, e⟩ <;> exact ⟨_, _, e⟩

theorem Program.queueMedia_keeps (frame : List Byte) (g : Program) :
    (g.queueMedia frame).state = g.state ∧ (g.queueMedia frame).meter = g.meter := by
  unfold Program.queueMedia
  split <;> exact ⟨rfl, rfl⟩

/-- What the completion of a packet leaves of its program: its meter, an empty packet, and its state or STOPPED. -/
theorem State.packetComplete_put (p : Fin 16) (s : State) :
    ∃ g orders replies, s.packetComplete p = ({ s with orders := orders, replyQueue := replies }).putProgram p g ∧
      (g.state = s.programs[p].state ∨ g.state = .stopped) ∧ g.meter = s.programs[p].meter ∧
      (g.egress.progress = [] ∨ g.content.toNat % s.egressTable[p].packetSize ≠ 0) := by
  unfold State.packetComplete
  split
  · dsimp only
    obtain ⟨state, meter⟩ := Program.queueMedia_keeps (mediaFrame s.settings s.egressTable[p]
      (s.activeEntry p).members.length s.programs[p].egress) s.programs[p]
    rw [State.modifyProgram_eq]
    split
    · rw [State.modifyProgram_eq, State.putProgram_self, State.putProgram_put]
      obtain ⟨orders, replies, e⟩ := State.completeStop_put p (s.putProgram p _)
      refine ⟨_, orders, replies, e, ?_, ?_, ?_⟩
      · exact .inr rfl
      · exact meter
      · exact .inl rfl
    · refine ⟨_, s.orders, s.replyQueue, rfl, ?_, ?_, ?_⟩
      · exact .inl state
      · exact meter
      · exact .inl rfl
  · next running =>
    rw [State.packetEnds_iff] at running
    refine ⟨_, s.orders, s.replyQueue, (s.putProgram_same p).symm, .inl rfl, rfl, ?_⟩
    by_cases none : s.programs[p].egress.progress = []
    · exact .inl none
    · exact .inr fun ends => running ⟨none, ends⟩

/-- With no STOP of the program in progress a packet that completes leaves the orders and the replies alone (R51). -/
theorem State.packetComplete_of_no_stop {p : Fin 16} {s : State}
    (none : ∀ o ∈ s.orders, o.inProgress = true → o.kind ≠ 8#8) :
    s.packetComplete p = { s with programs := (s.packetComplete p).programs } := by
  unfold State.packetComplete
  split
  · dsimp only
    split
    · unfold State.completeStop
      rcases State.completeDeferred_spec (fun o => decide (o.kind = kindStop) && decide (o.index = p.val))
        ((s.modifyProgram p _).modifyProgram p (·.endStopping)) with e | ⟨o, held, progress, mine, -, -⟩
      · rw [e]
        rfl
      · exact absurd (of_decide_eq_true (Bool.and_eq_true_iff.mp mine).1) (none o held progress)
    · rfl
  · rfl

/-! ### What is due of one program -/

/-- Neither a meter update nor a packet of the program is due (R65, R158). -/
def State.Idle (s : State) (p : Fin 16) : Prop := s.programs[p].meter.due = none ∧
  (s.programs[p].egress.progress = [] ∨ s.programs[p].content.toNat % s.egressTable[p].packetSize ≠ 0)

/-- The meter update and then the packet of one program. -/
def State.finish (p : Fin 16) (s : State) : State := (s.meterUpdate p).packetComplete p

theorem State.finish_of_idle {s : State} {p : Fin 16} (idle : s.Idle p) : s.finish p = s := by
  rw [State.finish, State.meterUpdate_of_not_due idle.1, State.packetComplete_of_incomplete idle.2]

/-- What is due of a program replaces that program, which keeps its state or becomes STOPPED, and touches the orders, the
replies and the reports. Where the program processed house samples nothing of it is due after that. -/
theorem State.finish_put (p : Fin 16) (s : State) : ∃ g orders replies reports flags, s.finish p =
    ({ s with orders := orders, replyQueue := replies, reportQueue := reports, flags := flags }).putProgram p g ∧
      (g.state = s.programs[p].state ∨ g.state = .stopped) ∧
      (s.programs[p].state.processing = true → (s.finish p).Idle p) := by
  obtain ⟨g, reports, flags, updated, state, due⟩ := s.meterUpdate_put p
  obtain ⟨g', orders, replies, completed, state', meter, packet⟩ := (s.meterUpdate p).packetComplete_put p
  rw [State.finish]
  generalize (s.meterUpdate p).packetComplete p = t at completed
  rw [updated] at completed state' meter packet
  rw [State.putProgram_self] at state' meter
  subst completed
  refine ⟨g', orders, replies, reports, flags, ?_, by rwa [state] at state', fun processing => ?_⟩
  · exact State.putProgram_put (s := { s with orders := orders, replyQueue := replies, reportQueue := reports, flags := flags })
      p g g'
  · rw [State.Idle, State.putProgram_self, meter]
    exact ⟨due (by rw [state]; exact processing), packet⟩

/-- `s` with other values of the house timing. -/
def State.withHouse (h : House) (s : State) : State := { s with house := h }

section
variable (h : House) (p : Fin 16) (s : State)

theorem State.withHouse_offerReport (r : LatencyReport) :
    (s.withHouse h).offerReport r = (s.offerReport r).withHouse h := by
  unfold State.offerReport
  by_cases room : s.reportQueue.length < Config.reportPlaces
  · rw [if_pos room]
    exact if_pos room
  · rw [if_neg room]
    refine (if_neg room).trans ?_
    show (match newestReport r.program s.reportQueue with | some k => _ | none => _) = _
    cases newestReport r.program s.reportQueue <;> rfl

theorem State.withHouse_reportLatency : (s.withHouse h).reportLatency p = (s.reportLatency p).withHouse h := by
  unfold State.reportLatency
  dsimp only
  by_cases known : s.programs[p].lip.lastReported =
      some (outgoingMicros s.programs[p].lip.audio s.programs[p].lip.actual) ∧ s.programs[p].lip.sendFlag = false
  · rw [if_pos known]
    exact if_pos known
  · rw [if_neg known, ← State.withHouse_offerReport]
    exact if_neg known

theorem State.withHouse_meterUpdate : (s.withHouse h).meterUpdate p = (s.meterUpdate p).withHouse h := by
  unfold State.meterUpdate
  show (match s.programs[p].meter.due with | none => _ | some processedIn => _) = _
  cases s.programs[p].meter.due with
  | none => rfl
  | some processedIn =>
    dsimp only
    by_cases processing : s.programs[p].state.processing = true
    · rw [if_pos processing]
      refine (if_pos processing).trans ?_
      exact congrArg (State.modifyProgram p (·.quietMove)) (State.withHouse_reportLatency h p
        (s.modifyProgram p (·.update (s.activeEntry p) processedIn)))
    · rw [if_neg processing]
      exact if_neg processing

theorem State.withHouse_completeDeferred (mine : Order → Bool) :
    (s.withHouse h).completeDeferred mine = (s.completeDeferred mine).withHouse h := by
  unfold State.completeDeferred
  by_cases phase : s.resetPhase = .none
  · rw [if_pos phase]
    refine (if_pos phase).trans ?_
    show (match s.orders.find? _ with | some o => _ | none => _) = _
    cases s.orders.find? fun o => o.inProgress && mine o <;> rfl
  · rw [if_neg phase]
    exact if_neg phase

theorem State.withHouse_completeStop : (s.withHouse h).completeStop p = (s.completeStop p).withHouse h :=
  State.withHouse_completeDeferred h s _

theorem State.withHouse_packetComplete : (s.withHouse h).packetComplete p = (s.packetComplete p).withHouse h := by
  unfold State.packetComplete
  by_cases ends : s.packetEnds p = true
  · rw [if_pos ends]
    refine (if_pos ends).trans ?_
    dsimp only
    by_cases last : s.programs[p].state = .stopping ∧ Config.rampSamples ≤ s.programs[p].corr.stop
    · rw [if_pos last, ← State.withHouse_completeStop]
      exact if_pos last
    · rw [if_neg last]
      exact if_neg last
  · rw [if_neg ends]
    exact if_neg ends

/-- What is due of a program is made without a look at the house timing. -/
theorem State.withHouse_finish : (s.withHouse h).finish p = (s.finish p).withHouse h := by
  rw [State.finish, State.withHouse_meterUpdate, State.withHouse_packetComplete]
  rfl

end

end Sys2Proof.Machine
end

section
/-! What a new entry makes of a program in any state (R52, R54, R57, R58, R64, R79, R82, R87, R88, R107). -/

namespace Sys2Proof.Machine

/-! ### The loudness fields (R87 to R90) -/

/-- The entries kept in the schedule are those that R89 keeps. -/
theorem scheduled_eq (gain : Int) (g : Program) (c : Correction) : scheduled gain g c = ({ c with
    gain := gain, schedule := dropNear g.content.toNat c.schedule ++ [GainEntry.mk g.content.toNat gain] }).takeUp g.readIndex := by
  have kept : (match c.schedule.getLast? with
      | some last => if (g.content.toNat : Int) < last.content + 4800 then c.schedule.dropLast else c.schedule
      | none => []) = dropNear g.content.toNat c.schedule := by
    unfold dropNear
    cases last : c.schedule.getLast? with
    | none => exact (List.getLast?_eq_none_iff.mp last).symm
    | some e =>
      have near : (g.content.toNat : Int) - Config.subBlock < e.content ↔ (g.content.toNat : Int) < e.content + 4800 := by
        simp only [Config.subBlock]
        omega
      simp only [near]
  rw [← kept]
  rfl

/-- A decided gain is scheduled and, where it is due, taken up (R89, R90). -/
theorem Program.appendGain_scheduled (gain : Int) (g : Program) :
    (g.withCorr fun c => { c with gain := gain }).appendGain = { g with corr := scheduled gain g g.corr } := by
  rw [scheduled_eq]
  rfl

theorem scheduled_ring (gain : Int) (g : Program) (c : Correction) : (scheduled gain g c).ring = c.ring := by
  unfold scheduled
  rw [Correction.takeUp_eq]

/-- Correction's state once the loudness fields of an entry are in force: the gain of R87 and a ring of the new size
(R82). -/
def Program.loudnessTaken (e : ProgramEntry) (g : Program) : Correction :=
  let gain : Int := newGain e g.corr.gain
  let gained : Correction := if g.state.processing = true ∧ gain ≠ g.corr.gain then scheduled gain g g.corr
    else { g.corr with gain := gain }
  let ring := g.corr.ring.drop (g.corr.ring.length - e.window * 10)
  if e.window * 10 < g.corr.ring.length then
    { gained with ring := ring, window := (windowOf ring).2, windowGate := (windowOf ring).1 }
  else gained

theorem Program.loudnessFields_taken (e : ProgramEntry) {g : Program} (taken : g.state ≠ .free) :
    g.loudnessFields e = { g with corr := g.loudnessTaken e } := by
  have shortened (c : Correction) (same : c.ring = g.corr.ring) : c.shorten (e.window * 10) =
      if e.window * 10 < g.corr.ring.length then { c with
        ring := g.corr.ring.drop (g.corr.ring.length - e.window * 10)
        window := (windowOf (g.corr.ring.drop (g.corr.ring.length - e.window * 10))).2
        windowGate := (windowOf (g.corr.ring.drop (g.corr.ring.length - e.window * 10))).1 } else c := by
    rw [← same]
    rfl
  unfold Program.loudnessFields Program.loudnessTaken
  dsimp only
  rw [if_neg taken]
  split
  · rw [Program.appendGain_scheduled]
    exact congrArg (fun c => { g with corr := c }) (shortened _ (scheduled_ring _ _ _))
  · exact congrArg (fun c => { g with corr := c }) (shortened { g.corr with gain := newGain e g.corr.gain } rfl)

/-! ### The state outcome of Table 3-4 -/

theorem cutBy_invalid {old new : ProgramEntry} {g : Program} (invalid : new.valid = false) :
    cutBy old new g = g.state.processing := by
  rw [cutBy, invalid]
  exact Bool.and_true _

theorem Program.outcome_cut {old new : ProgramEntry} {g : Program} (valid : new.valid = true)
    (cut : cutBy old new g = true) : g.outcome old new = g.halt .stopped := by
  rw [cutBy, valid, Bool.not_true, Bool.false_or, Bool.and_eq_true, decide_eq_true_eq] at cut
  rw [Program.outcome, if_pos valid, if_neg (fun free => by rw [free] at cut; exact absurd cut.1 (by decide)), if_pos cut]

theorem Program.outcome_kept {old new : ProgramEntry} {g : Program} (valid : new.valid = true) (taken : g.state ≠ .free)
    (kept : cutBy old new g = false) : g.outcome old new = g := by
  rw [cutBy, valid, Bool.not_true, Bool.false_or] at kept
  rw [Program.outcome, if_pos valid, if_neg taken, if_neg]
  intro cut
  rw [cut.1, decide_eq_true cut.2] at kept
  cases kept

theorem Program.outcome_stopped {old new : ProgramEntry} {g : Program} (valid : new.valid = true) (free : g.state = .free) :
    g.outcome old new = g.enter .stopped := by
  rw [Program.outcome, if_pos valid, if_pos free]

/-- A program takes over a new entry after its state outcome, item by item. -/
theorem Program.takeIn_broughtIn (old new : ProgramEntry) (g : Program) :
    (g.outcome old new).takeIn old new (effectiveSlots old g.fallbackInUse) (releasedBy new g)
      (decide (0 < g.votes.fallback) && new.fallback.isSome) = broughtIn old new g := by
  unfold Program.takeIn
  rw [Meter.zeroChanged_trimPeaks]
  cases valid : new.valid
  · by_cases free : g.state = .free
    · have uncut : cutBy old new g = false := by rw [cutBy_invalid valid, free]; rfl
      rw [Program.outcome_free old valid free]
      refine (Program.loudnessFields_free new (by exact free)).trans ?_
      simp [broughtIn, valid, uncut, free, DelayLine.none]
    · rw [Program.outcome_freed old valid free]
      refine (Program.loudnessFields_free new (by exact rfl)).trans ?_
      simp [broughtIn, valid, free, Program.halt, Program.enter, Correction.freed, Correction.atRest, Ramp.rest,
        LipSync.noMove, DelayLine.none, Config.rampSamples]
  · by_cases free : g.state = .free
    · have uncut : cutBy old new g = false := by rw [cutBy, free]; rfl
      rw [Program.outcome_stopped valid free]
      refine (Program.loudnessFields_taken new (by nofun)).trans ?_
      simp [broughtIn, valid, uncut, free, Program.enter, Program.loudnessTaken, DelayLine.none] <;> rfl
    · by_cases cut : cutBy old new g = true
      · rw [Program.outcome_cut valid cut]
        refine (Program.loudnessFields_taken new (by nofun)).trans ?_
        simp [broughtIn, valid, cut, free, Program.halt, Program.enter, Program.loudnessTaken, Correction.atRest,
          Ramp.rest, LipSync.noMove, DelayLine.none] <;> rfl
      · have uncut : cutBy old new g = false := Bool.eq_false_of_not_eq_true cut
        rw [Program.outcome_kept valid free uncut]
        refine (Program.loudnessFields_taken new (by exact free)).trans ?_
        simp [broughtIn, valid, uncut, free, Program.loudnessTaken, DelayLine.none] <;> rfl

end Sys2Proof.Machine
end

section
/-! A pending swap at a boundary: what is due before a cut, the entries brought in, and the orders answered (R25, R26, R52,
R55, R57, R65, R107, R158, R177). -/

namespace Sys2Proof.Machine

/-! ### The entries brought in (R57, R107, R125) -/

/-- The blocks that a new entry in force releases (R107). -/
def State.freedBlocks (s : State) (p : Fin 16) : List Nat :=
  if releasedBy (s.activeEntry p) s.programs[p] = true then s.programs[p].delay.rings.flatten else []

/-- A program once its new entry has come into force and its delay has been computed again (R57, R125). -/
def State.programAfter (s : State) (old : ProgramEntry) (p : Fin 16) : Program :=
  ((s.putProgram p (broughtIn old (s.activeEntry p) s.programs[p])).recompute p).programs[p]

theorem State.bringIn_put (old : ProgramEntry) (p : Fin 16) (s : State) : s.bringIn old p =
    ({ s with freeList := s.freeList ++ s.freedBlocks p }).putProgram p (s.programAfter old p) := by
  have brought := State.bringIn_eq old p s
  have free : (if releasedBy (s.activeEntry p) s.programs[p] = true then s.freeList ++ s.programs[p].delay.rings.flatten
      else s.freeList) = s.freeList ++ s.freedBlocks p := by
    unfold State.freedBlocks
    split
    · rfl
    · exact (List.append_nil _).symm
  have released : ringsReleased (s.activeEntry p) (s.programs[p].outcome old (s.activeEntry p)) =
      releasedBy (s.activeEntry p) s.programs[p] := ringsReleased_outcome _ _ _
  dsimp only at brought
  rw [released, Program.takeIn_broughtIn, Program.outcome_delay, free] at brought
  rw [brought, State.programAfter, State.recompute_put, State.recompute_program, State.putProgram_put]
  rfl

theorem State.programAfter_congr (old : ProgramEntry) (p : Fin 16) (t u : State) (streams : t.streams = u.streams)
    (latencies : t.latencies = u.latencies) (egress : t.egressTable = u.egressTable)
    (entry : t.activeEntry p = u.activeEntry p) (count : t.house.count = u.house.count)
    (program : t.programs[p] = u.programs[p]) : t.programAfter old p = u.programAfter old p := by
  refine State.recompute_congr p _ _ (fun i => ?_) latencies egress entry count ?_
  · show t.streams[i].entry = u.streams[i].entry
    rw [streams]
  · rw [State.putProgram_self, State.putProgram_self, entry, program]

/-- Every program takes in its entry by itself, and the blocks released join the free list in the order of the programs. -/
theorem State.bringIn_all (old : Fin 16 → ProgramEntry) (s : State) : forEach 16 (fun p u => u.bringIn (old p) p) s = { s with
    freeList := s.freeList ++ (List.finRange 16).flatMap s.freedBlocks
    programs := .ofFn fun p => s.programAfter (old p) p } := by
  have key : ∀ (l : List (Fin 16)) (t : State), l.Nodup → t = { s with programs := t.programs, freeList := t.freeList } →
      (∀ q ∈ l, t.programs[q] = s.programs[q]) → l.foldl (fun u p => u.bringIn (old p) p) t = { s with
        freeList := t.freeList ++ l.flatMap s.freedBlocks
        programs := .ofFn fun p => if p ∈ l then s.programAfter (old p) p else t.programs[p] } := by
    intro l
    induction l with
    | nil =>
      intro t _ e _
      have same : (Vector.ofFn fun p : Fin 16 => t.programs[p]) = t.programs := by ext; simp
      simpa [same] using e
    | cons q l ih =>
      intro t nodup e keep
      obtain ⟨fresh, nodup'⟩ := List.nodup_cons.mp nodup
      have held := keep q List.mem_cons_self
      have entry : t.activeEntry q = s.activeEntry q := by rw [e]; rfl
      have freed : t.freedBlocks q = s.freedBlocks q := by rw [State.freedBlocks, entry, held]; rfl
      have after : t.programAfter (old q) q = s.programAfter (old q) q :=
        State.programAfter_congr _ _ _ _ (by rw [e]) (by rw [e]) (by rw [e]) entry (by rw [e]) held
      rw [List.foldl_cons, State.bringIn_put, freed, after, ih _ nodup' (by rw [e]; rfl)]
      · have programs : (Vector.ofFn fun p : Fin 16 => if p ∈ l then s.programAfter (old p) p
            else (t.putProgram q (s.programAfter (old q) q)).programs[p]) =
            .ofFn fun p : Fin 16 => if p ∈ q :: l then s.programAfter (old p) p else t.programs[p] := by
          congr 1
          funext p
          rw [State.putProgram_get]
          by_cases same : p = q
          · subst same
            simp [fresh]
          · simp [same]
        rw [← programs]
        simp only [List.flatMap_cons, ← List.append_assoc]
        rfl
      · intro r member
        have ne : r ≠ q := by rintro rfl; exact fresh member
        exact (State.putProgram_other _ q r _ ne).trans (keep r (List.mem_cons_of_mem q member))
  have all := key (List.finRange 16) s (List.nodup_finRange 16) rfl fun _ _ => rfl
  simpa [forEach] using all

/-! ### The orders answered (R52, R55, R177) -/

/-- The STOP in progress of a program. -/
def stopOf (p : Fin 16) (o : Order) : Bool := o.inProgress && decide (o.kind = 8#8 ∧ o.index = p.val)

theorem State.completeStop_find {s : State} (phase : s.resetPhase = .none) (p : Fin 16) :
    (∀ o, s.orders.find? (stopOf p) = some o →
      s.completeStop p = s.answer o (s.orders.eraseP (stopOf p)) o.table .done [] false) ∧
    (s.orders.find? (stopOf p) = none → s.completeStop p = s) := by
  have mine : (fun o : Order => o.inProgress && (decide (o.kind = kindStop) && decide (o.index = p.val))) = stopOf p := by
    funext o
    rw [stopOf, Bool.decide_and]
    rfl
  unfold State.completeStop State.completeDeferred
  rw [if_pos phase, mine]
  constructor
  · intro o found
    rw [found]
  · intro none
    rw [none]

theorem stopsAnswered_cons (settings : Settings) (p : Fin 16) (l : List (Fin 16)) (orders : List Order)
    (replies : List QueuedReply) :
    (∀ o, orders.find? (stopOf p) = some o → stopsAnswered settings (p :: l) (orders, replies) =
      stopsAnswered settings l (orders.eraseP (stopOf p),
        replies ++ [⟨replyFrame settings o o.table .done (orders.eraseP (stopOf p)).length [], false⟩])) ∧
    (orders.find? (stopOf p) = none →
      stopsAnswered settings (p :: l) (orders, replies) = stopsAnswered settings l (orders, replies)) := by
  constructor
  · intro o found
    show (match orders.find? (stopOf p) with
      | none => _
      | some o => stopsAnswered settings l (orders.eraseP (stopOf p),
          replies ++ [QueuedReply.mk (replyFrame settings o o.table .done (orders.eraseP (stopOf p)).length []) false])) = _
    rw [found]
  · intro none
    show (match orders.find? (stopOf p) with | .none => _ | some o => _) = _
    rw [none]

/-- The STOPs of a list of programs are answered in turn. -/
theorem State.completeStops_eq (l : List (Fin 16)) {s : State} (phase : s.resetPhase = .none) :
    l.foldl (fun u p => u.completeStop p) s = { s with
      orders := (stopsAnswered s.settings l (s.orders, s.replyQueue)).1
      replyQueue := (stopsAnswered s.settings l (s.orders, s.replyQueue)).2 } := by
  induction l generalizing s with
  | nil => rfl
  | cons p l ih =>
    obtain ⟨stop, stay⟩ := State.completeStop_find phase p
    obtain ⟨stop', stay'⟩ := stopsAnswered_cons s.settings p l s.orders s.replyQueue
    rw [List.foldl_cons]
    cases found : s.orders.find? (stopOf p) with
    | none =>
      rw [stay found, stay' found]
      exact ih phase
    | some o =>
      rw [stop o found, stop' o found]
      exact ih (s := s.answer o _ o.table .done [] false) phase

theorem stopsAnswered_none {settings : Settings} (l : List (Fin 16)) {orders : List Order} {replies : List QueuedReply}
    (none : ∀ x ∈ orders, x.inProgress = true → x.kind ≠ 8#8) :
    stopsAnswered settings l (orders, replies) = (orders, replies) := by
  induction l with
  | nil => rfl
  | cons p l ih =>
    have absent : orders.find? (stopOf p) = .none := by
      rw [List.find?_eq_none]
      intro x held stop
      obtain ⟨progress, kind⟩ := Bool.and_eq_true_iff.mp stop
      exact none x held progress (of_decide_eq_true kind).1
    rw [(stopsAnswered_cons settings p l orders replies).2 absent, ih]

/-- The SWAP in progress is answered (R55). -/
theorem State.completeSwap_eq {s : State} {before after : List Order} {o : Order} (phase : s.resetPhase = .none)
    (queue : s.orders = before ++ o :: after) (progress : o.inProgress = true) (kind : o.kind = 6#8)
    (first : ∀ x ∈ before, x.inProgress = true → x.kind ≠ 6#8) : s.completeSwap = { s with
      orders := before ++ after
      replyQueue := s.replyQueue ++ [⟨replyFrame s.settings o o.table .done (before.length + after.length) [], false⟩] } := by
  have swaps : (o.inProgress && decide (o.kind = kindSwap)) = true := by rw [progress, kind]; rfl
  have none (x : Order) (held : x ∈ before) : ¬ (x.inProgress && decide (x.kind = kindSwap)) = true := by
    intro swap
    obtain ⟨progress, kind⟩ := Bool.and_eq_true_iff.mp swap
    exact first x held progress (of_decide_eq_true kind)
  have found : s.orders.find? (fun o => o.inProgress && decide (o.kind = kindSwap)) = some o := by
    rw [queue, List.find?_append, List.find?_eq_none.mpr none, Option.none_or]
    exact List.find?_cons_of_pos (by exact swaps)
  have erased : s.orders.eraseP (fun o => o.inProgress && decide (o.kind = kindSwap)) = before ++ after := by
    rw [queue, List.eraseP_append_right _ none]
    exact congrArg (before ++ ·) (List.eraseP_cons_of_pos (by exact swaps))
  unfold State.completeSwap State.completeDeferred
  rw [if_pos phase, found, erased]
  simp only [State.answer, List.length_append]

/-! ### The switch of the banks -/

/-- The swap once what is due of the programs cut has been made. -/
def State.switchBanks (s : State) : State :=
  forEach 16 (fun p u => if s.willCut p && decide (s.programs[p].state = .stopping) then u.completeStop p else u)
    (State.completeSwap (forEach 16 (fun p u => u.bringIn (s.activeEntry p) p)
      { s with activeBank := s.activeBank.other, swapPending := false }))

theorem State.swapBanks_eq (s : State) : s.swapBanks = (forEach 16 State.finishDue s).switchBanks := rfl

theorem State.willCut_eq (s : State) (p : Fin 16) :
    s.willCut p = cutBy (s.activeEntry p) (s.bank s.activeBank.other)[p] s.programs[p] := rfl

theorem Bank.other_eq (which : Bank) : which.other = if which = .a then .b else .a := by cases which <;> rfl

/-- What a switch makes of the part (R52, R55, R57, R107, R125, R177). -/
theorem State.switchBanks_eq {s : State} {before after : List Order} {o : Order} (phase : s.resetPhase = .none)
    (queue : s.orders = before ++ o :: after) (progress : o.inProgress = true) (kind : o.kind = 6#8)
    (first : ∀ x ∈ before, x.inProgress = true → x.kind ≠ 6#8) :
    let switched : State := { s with activeBank := s.activeBank.other, swapPending := false }
    let queues := stopsAnswered s.settings
      ((List.finRange 16).filter fun p => s.willCut p && decide (s.programs[p].state = .stopping))
      (before ++ after, s.replyQueue ++
        [⟨replyFrame s.settings o o.table .done (before.length + after.length) [], false⟩])
    s.switchBanks = { switched with
      freeList := s.freeList ++ (List.finRange 16).flatMap switched.freedBlocks
      orders := queues.1, replyQueue := queues.2
      programs := .ofFn fun p => switched.programAfter (s.activeEntry p) p } := by
  unfold State.switchBanks
  dsimp only
  rw [State.bringIn_all, State.completeSwap_eq (by exact phase) (by exact queue) progress kind first, forEach,
    ← List.foldl_filter, State.completeStops_eq _ (by exact phase)]

end Sys2Proof.Machine
end

section
/-! A boundary with a pending swap, whichever command makes it (R25, R26, R52, R55, R57). -/

namespace Sys2Proof.Machine

/-! ### The boundary -/

theorem exec_of_makesBoundary {s : State} {c : Instr} {pulse : Presence} (makes : MakesBoundary s c pulse) :
    exec c s = .next (s.boundary pulse) := by
  rcases makes with ⟨rfl, rfl⟩ | ⟨rfl, rfl, present, late⟩ | ⟨rfl, rfl, absent, late⟩
  · rfl
  · exact congrArg Host.Outcome.next (State.pulseAbsent_due present late)
  · exact congrArg Host.Outcome.next (State.synthesizedBoundary_due absent late)

/-- A boundary that no boundary of this house sample has come before hands a pending swap over. -/
theorem State.boundary_of_swap {s : State} (pulse : Presence) (pending : s.swapPending = true)
    (fresh : s.house.boundaryMade = false) :
    s.boundary pulse = (s.withHouse (s.house.recorded pulse)).swapBanks := by
  unfold State.boundary State.handBoundary
  dsimp only
  rw [if_neg (by rw [fresh]; nofun), if_pos pending]
  rfl

/-! ### What is due before a cut (R65, R158; log 21) -/

theorem State.finishDue_cut {s : State} {p : Fin 16} (cut : s.willCut p = true) : s.finishDue p = s.finish p := if_pos cut

theorem State.finishDue_same {s : State} {p : Fin 16} (idle : s.willCut p = true → s.Idle p) : s.finishDue p = s := by
  by_cases cut : s.willCut p = true
  · rw [State.finishDue_cut cut, State.finish_of_idle (idle cut)]
  · exact if_neg cut

theorem foldl_same {α β : Type} {f : β → α → β} {b : β} {l : List α} (same : ∀ a ∈ l, f b a = b) : l.foldl f b = b := by
  induction l with
  | nil => rfl
  | cons a l ih =>
    rw [List.foldl_cons, same a List.mem_cons_self]
    exact ih fun x hx => same x (List.mem_cons_of_mem a hx)

/-- What is due of one program leaves every other one as it was: cut or not, and due or not. -/
theorem State.finish_others {s : State} {p q : Fin 16} (ne : q ≠ p) :
    (s.finish p).willCut q = s.willCut q ∧ ((s.finish p).Idle q ↔ s.Idle q) := by
  obtain ⟨g, orders, replies, reports, flags, e, -, -⟩ := s.finish_put p
  have other : (s.finish p).programs[q] = s.programs[q] := by
    rw [e]
    exact State.putProgram_other _ p q g ne
  constructor
  · rw [State.willCut_eq, State.willCut_eq, other, e]
    rfl
  · unfold State.Idle
    rw [other, e]
    rfl

/-- What is due of the first program of the cut that has something due may as well be made before (log 21). -/
theorem State.finishDue_absorbs {s : State} {p : Fin 16} (cut : s.willCut p = true)
    (before : ∀ q : Fin 16, q < p → s.willCut q = true → s.Idle q) :
    forEach 16 State.finishDue s = forEach 16 State.finishDue (s.finish p) := by
  obtain ⟨early, late, split⟩ := List.append_of_mem (List.mem_finRange p)
  have sorted := List.pairwise_lt_finRange 16
  rw [split, List.pairwise_append] at sorted
  have less (q : Fin 16) (member : q ∈ early) : q < p := sorted.2.2 q member p List.mem_cons_self
  have start : early.foldl (fun t q => t.finishDue q) s = s :=
    foldl_same fun q member => State.finishDue_same (before q (less q member))
  have start' : early.foldl (fun t q => t.finishDue q) (s.finish p) = s.finish p := by
    refine foldl_same fun q member => State.finishDue_same fun cut' => ?_
    obtain ⟨sameCut, sameIdle⟩ := State.finish_others (s := s) (less q member).ne
    exact sameIdle.mpr (before q (less q member) (sameCut ▸ cut'))
  have processing : s.programs[p].state.processing = true := (Bool.and_eq_true_iff.mp cut).1
  obtain ⟨-, -, -, -, -, -, -, idle⟩ := s.finish_put p
  unfold forEach
  rw [split, List.foldl_append, List.foldl_append, start, start', List.foldl_cons, List.foldl_cons,
    State.finishDue_cut cut, State.finishDue_same fun _ => idle processing]

/-- `t` is `s` but for the programs, the latency reports and the flags of PART STATUS. -/
def State.Reported (s t : State) : Prop :=
  t = { s with programs := t.programs, reportQueue := t.reportQueue, flags := t.flags }

theorem State.Reported.trans {s t u : State} (h : s.Reported t) (k : t.Reported u) : s.Reported u := by
  unfold State.Reported at *
  rw [h] at k
  rw [k]

/-- With no STOP in progress what is due of a program leaves the orders and the replies alone. -/
theorem State.finish_reported {s : State} (p : Fin 16) (none : ∀ o ∈ s.orders, o.inProgress = true → o.kind ≠ 8#8) :
    s.Reported (s.finish p) := by
  have updated : s.Reported (s.meterUpdate p) := s.meterUpdate_rest p
  have orders : (s.meterUpdate p).orders = s.orders := by rw [updated]
  have completed := State.packetComplete_of_no_stop (p := p) (s := s.meterUpdate p) (by rwa [orders])
  refine updated.trans ?_
  unfold State.Reported State.finish
  rw [completed]

/-- A program cut by the swap is one that processes house samples, so it is judged as it was before. -/
theorem State.willCut_of_kept {s t : State} {p : Fin 16} (rest : s.Reported t) (cut : t.willCut p = true)
    (state : t.programs[p].state = s.programs[p].state) : s.willCut p = true := by
  have entry : t.activeEntry p = s.activeEntry p := by rw [rest]; rfl
  have banks : t.bank t.activeBank.other = s.bank s.activeBank.other := by rw [rest]; rfl
  rw [State.willCut_eq, cutBy, state, entry, banks] at cut
  exact cut

/-- With no STOP in progress, what is due before the cuts leaves a program its state, or makes one that is cut STOPPED. -/
theorem State.finishDue_all {s : State} (none : ∀ o ∈ s.orders, o.inProgress = true → o.kind ≠ 8#8) :
    s.Reported (forEach 16 State.finishDue s) ∧
    ∀ p : Fin 16, (forEach 16 State.finishDue s).programs[p].state = s.programs[p].state ∨
      (s.willCut p = true ∧ (forEach 16 State.finishDue s).programs[p].state = .stopped) := by
  refine forEach_induct (P := fun t => s.Reported t ∧ ∀ p : Fin 16, t.programs[p].state = s.programs[p].state ∨
    (s.willCut p = true ∧ t.programs[p].state = .stopped)) 16 _ s ⟨rfl, fun p => .inl rfl⟩ fun q t ⟨rest, states⟩ => ?_
  by_cases cut : t.willCut q = true
  · obtain ⟨g, orders, replies, reports, flags, e, state, -⟩ := t.finish_put q
    rw [State.finishDue_cut cut]
    refine ⟨rest.trans (State.finish_reported q (by rwa [rest])), fun p => ?_⟩
    rw [e, State.putProgram_get]
    split
    · next same =>
      subst same
      rcases state with kept | stopped
      · rw [kept]
        exact states p
      · have cut' : s.willCut p = true := (states p).elim (State.willCut_of_kept rest cut) And.left
        exact .inr ⟨cut', stopped⟩
    · exact states p
  · rw [State.finishDue_same fun cut' => absurd cut' cut]
    exact ⟨rest, states⟩

/-! ### The swap -/

theorem ofFn_get {α : Type} {n : Nat} (f : Fin n → α) (p : Fin n) : (Vector.ofFn f)[p] = f p := by simp

/-- The state of a program under its new entry, where what was due before its cut may have made it STOPPED (Table 3-4). -/
theorem broughtIn_state {old new : ProgramEntry} {g g' : Program}
    (state : g'.state = g.state ∨ (cutBy old new g = true ∧ g'.state = .stopped)) : (broughtIn old new g').state =
      if new.valid = false then .free
      else if g.state = .free then .stopped
      else if g.state.processing = true ∧ old.members.length ≠ new.members.length then .stopped
      else g.state := by
  have brought : (broughtIn old new g').state = if new.valid = false then .free
      else if g'.state = .free ∨ cutBy old new g' = true then .stopped else g'.state := rfl
  rw [brought]
  by_cases invalid : new.valid = false
  · rw [if_pos invalid, if_pos invalid]
  · have valid : new.valid = true := Bool.eq_true_of_not_eq_false invalid
    have cut (x : Program) :
        cutBy old new x = true ↔ x.state.processing = true ∧ old.members.length ≠ new.members.length := by
      rw [cutBy, valid, Bool.not_true, Bool.false_or, Bool.and_eq_true, decide_eq_true_eq]
    rw [if_neg invalid, if_neg invalid]
    simp only [cut]
    rcases state with same | ⟨cuts, stopped⟩
    · rw [same]
      by_cases free : g.state = .free
      · rw [if_pos (.inl free), if_pos free]
      · rw [if_neg free]
        simp only [free, false_or]
    · rw [stopped, if_pos ((cut g).mp cuts)]
      split <;> split <;> rfl

theorem swapTakesEffect : SwapTakesEffect := by
  intro s c pulse makes pending fresh
  have bank : (if s.activeBank = .a then .b else .a : Bank) = s.activeBank.other := s.activeBank.other_eq.symm
  dsimp only
  simp only [bank]
  refine ⟨fun before after o phase queue progress kind first idle => ?_, fun p cut before => ?_⟩
  · have due : forEach 16 State.finishDue (s.withHouse (s.house.recorded pulse)) = s.withHouse (s.house.recorded pulse) :=
      forEach_id 16 _ _ fun p => State.finishDue_same (idle p)
    have swapped := State.switchBanks_eq (s := s.withHouse (s.house.recorded pulse)) phase queue progress kind first
    rw [exec_of_makesBoundary makes, State.boundary_of_swap pulse pending fresh, State.swapBanks_eq, due]
    refine ⟨_, rfl, ?_, fun p => ?_⟩
    · rw [swapped]
      rfl
    · rw [swapped]
      refine (ofFn_get _ p).trans ?_
      exact State.programAfter_congr _ p _ _ rfl rfl rfl rfl rfl rfl
  · refine ⟨s.meterUpdate p, s.finish p, congrArg Host.Outcome.next (atIndex_fin p _ s),
      congrArg Host.Outcome.next (atIndex_fin p _ _), ?_⟩
    obtain ⟨g, orders, replies, reports, flags, e, -, -⟩ := s.finish_put p
    have house : (s.finish p).house = s.house := by rw [e]; rfl
    have makes' : MakesBoundary (s.finish p) c pulse := by
      unfold MakesBoundary
      rw [house]
      exact makes
    rw [exec_of_makesBoundary makes, exec_of_makesBoundary makes', State.boundary_of_swap pulse pending fresh,
      State.boundary_of_swap pulse (by rw [e]; exact pending) (by rw [house]; exact fresh), State.swapBanks_eq,
      State.swapBanks_eq, house, ← State.withHouse_finish, ← State.finishDue_absorbs (by exact cut) (by exact before)]

/-- Settles O17: the switch of the banks after what is due of the programs cut, of which only the packets that end can
touch an order. -/
theorem swapTakesEffectAtPulse : Obligations.SwapTakesEffectAtPulse := by
  refine ⟨fun s before after o c pulse makes pending fresh phase queue progress kind others => ?_, swapTakesEffect⟩
  have none : ∀ x ∈ (s.withHouse (s.house.recorded pulse)).orders, x.inProgress = true → x.kind ≠ 8#8 := by
    intro x held progress'
    have member : x ∈ before ++ o :: after := queue ▸ held
    rcases List.mem_append.mp member with early | late
    · exact (others x (List.mem_append_left _ early) progress').2
    · rcases List.mem_cons.mp late with rfl | late
      · rw [kind]
        decide
      · exact (others x (List.mem_append_right _ late) progress').2
  obtain ⟨rest, states⟩ := State.finishDue_all none
  have swapped := State.swapBanks_eq (s.withHouse (s.house.recorded pulse))
  generalize forEach 16 State.finishDue (s.withHouse (s.house.recorded pulse)) = t at rest states swapped
  obtain ⟨programs, reports, flags, rfl⟩ : ∃ programs reports flags, t = { s.withHouse (s.house.recorded pulse) with
      programs := programs, reportQueue := reports, flags := flags } := ⟨_, _, _, rest⟩
  rw [State.switchBanks_eq (by exact phase) (by exact queue) progress kind
    fun x early progress' => (others x (List.mem_append_left _ early) progress').1,
    stopsAnswered_none _ fun x held progress' => (others x held progress').2] at swapped
  refine ⟨_, (exec_of_makesBoundary makes).trans (congrArg _ ((State.boundary_of_swap pulse pending fresh).trans swapped)),
    ?_, rfl, rfl, rfl, rfl, rfl, rfl, fun p => ?_, rfl, rfl, rfl, rfl, rfl, rfl, rfl⟩
  · show s.activeBank.other ≠ s.activeBank
    cases s.activeBank <;> decide
  · obtain ⟨state, -⟩ := State.recompute_keeps p ((State.putProgram _ p (broughtIn (s.activeEntry p)
      (s.bank s.activeBank.other)[p] programs[p])))
    refine (congrArg Program.state (ofFn_get _ p)).trans (state.trans ?_)
    rw [State.putProgram_self]
    exact broughtIn_state (states p)

end Sys2Proof.Machine
end

section
/-! Taking orders until none can be taken (R163, R168, R169): each order taken fills one more reply place, and the house
timing stands beside it. -/

namespace Sys2Proof.Machine

/-! ### The acts of the blocks leave the queues and the house timing alone -/

/-- `t` has the queues and the house timing of `s`. -/
def State.Apart (s t : State) : Prop := s.SameQueues t ∧ t.house = s.house

theorem State.Apart.refl (s : State) : s.Apart s := ⟨.refl s, rfl⟩

theorem State.apart_afterReading (table : Table) (i : Nat) (s : State) : s.Apart (s.afterReading table i) :=
  ⟨s.sameQueues_afterReading table i, by rw [State.afterReading_rest]⟩

theorem State.writeEntry_house (which : Bank) (i : Nat) (n : NewEntry) (s : State) :
    (s.writeEntry which i n).2.house = s.house := by
  cases n with
  | settings c => rfl
  | stream e =>
    simp only [State.writeEntry, State.writeStream]
    split
    · rfl
    · rw [State.storeStream_rest]
  | program e =>
    simp only [State.writeEntry, State.writeProgram]
    split
    · split
      · rfl
      · rw [State.bringIn_rest]
        exact State.setBankEntry_house s _ _ _
    · exact State.setBankEntry_house s _ _ _
  | egress e =>
    simp only [State.writeEntry, State.writeEgress]
    split <;> rfl
  | latency w =>
    simp only [State.writeEntry, State.tryLatency]
    split
    · rfl
    · rw [State.writeLatency_rest]
  | trigger e =>
    simp only [State.writeEntry, State.tryTrigger]
    split
    · rfl
    · unfold State.writeTrigger
      dsimp only
      rw [State.applyVotes_rest]
      dsimp only
      split
      · rw [State.offerNotice_rest]
      · rfl

theorem State.apart_writeEntry (which : Bank) (i : Nat) (n : NewEntry) (s : State) :
    s.Apart (s.writeEntry which i n).2 :=
  ⟨s.sameQueues_writeEntry which i n, s.writeEntry_house which i n⟩

theorem State.apart_tryWrite (table : Table) (which : Bank) (i : Nat) (contents : List Byte) (s : State) :
    s.Apart (s.tryWrite table which i contents).2 := by
  unfold State.tryWrite
  split
  · exact .refl s
  · split
    · exact s.apart_writeEntry which i _
    · exact .refl s

theorem apart_clearAct (o : Order) (s : State) : s.Apart (clearAct o s).2.2 := by
  unfold clearAct
  split
  · exact .refl s
  · split
    · exact s.apart_writeEntry _ _ _
    · exact .refl s

theorem apart_onProgram {act : Fin 16 → State → Status × List Byte × State} (o : Order)
    (apart : ∀ (p : Fin 16) (t : State), t.Apart (act p t).2.2) (s : State) : s.Apart (onProgram act o s).2.2 := by
  unfold onProgram
  split
  · exact apart _ s
  · exact .refl s

theorem State.startProgram_house (p : Fin 16) (s : State) : (s.startProgram p).2.house = s.house := by
  rw [State.startProgram_rest]

theorem State.stopProgram_house (p : Fin 16) (s : State) : (s.stopProgram p).2.house = s.house := by
  rw [State.stopProgram_rest]

theorem State.allocateDelay_house (p : Fin 16) (request : Nat) (s : State) :
    (s.allocateDelay p request).2.2.house = s.house := by
  rw [State.allocateDelay_rest]

theorem State.releaseDelay_house (p : Fin 16) (s : State) : (s.releaseDelay p).2.house = s.house := by
  rw [State.releaseDelay_rest]

theorem State.storeStream_house (i : Fin 32) (e : StreamEntry) (s : State) : (s.storeStream i e).house = s.house := by
  rw [State.storeStream_rest]

theorem apart_startAct (p : Fin 16) (s : State) : s.Apart (startAct p s).2.2 :=
  ⟨s.sameQueues_startProgram p, s.startProgram_house p⟩

theorem State.apart_stopProgram (p : Fin 16) (s : State) : s.Apart (s.stopProgram p).2 :=
  ⟨s.sameQueues_stopProgram p, s.stopProgram_house p⟩

theorem apart_allocateAct (o : Order) (s : State) : s.Apart (allocateAct o s).2.2 := by
  unfold allocateAct
  split
  · exact .refl s
  · exact apart_onProgram o
      (fun p t => ⟨t.sameQueues_allocateDelay p _, t.allocateDelay_house p _⟩) s

theorem apart_releaseAct (p : Fin 16) (s : State) : s.Apart (releaseAct p s).2.2 := by
  have released : s.Apart (s.releaseDelay p).2 :=
    ⟨s.sameQueues_releaseDelay p, s.releaseDelay_house p⟩
  unfold releaseAct
  split <;> next e => rw [e] at released; exact released

theorem apart_resetStreamAct (o : Order) (s : State) : s.Apart (resetStreamAct o s).2.2 := by
  unfold resetStreamAct
  split
  · exact ⟨s.sameQueues_storeStream _ _, s.storeStream_house _ _⟩
  · exact .refl s

theorem State.apart_acknowledge (which : Option (Fin 48)) (s : State) : s.Apart (s.acknowledge which) := by
  cases which <;> exact ⟨⟨rfl, rfl, rfl, rfl, fun _ => rfl⟩, rfl⟩

theorem apart_acknowledgeAct (o : Order) (s : State) : s.Apart (acknowledgeAct o s).2.2 := by
  unfold acknowledgeAct
  split
  · exact s.apart_acknowledge none
  · split
    · exact s.apart_acknowledge (some _)
    · exact .refl s

theorem apart_resetIntegrationAct (p : Fin 16) (s : State) : s.Apart (resetIntegrationAct p s).2.2 :=
  ⟨s.sameQueues_modifyProgram p (·.withMeter _) fun _ => rfl, rfl⟩

theorem apart_sendLatencyAct (p : Fin 16) (s : State) : s.Apart (sendLatencyAct p s).2.2 :=
  ⟨s.sameQueues_modifyProgram p (·.withLip _) fun _ => rfl, rfl⟩

/-! ### An order handled -/

/-- The reply places filled or reserved (R163). -/
def State.places (s : State) : Nat := s.replyQueue.length + s.inProgress

/-- An order has been answered or deferred: one more reply place is taken, and the house timing is as it was. -/
structure State.Handled (s t : State) : Prop where
  places : t.places = s.places + 1
  house : t.house = s.house

/-- An order taken out and answered, once its act is done. -/
theorem State.Apart.reply {s t : State} (apart : s.withoutTaken.Apart t) (o : Order) (table : Byte) (status : Status)
    (data : List Byte) (cursor : Option Cursor) : s.Handled (t.reply o table status data cursor) := by
  obtain ⟨queues, house⟩ := apart
  refine ⟨?_, house⟩
  unfold State.places State.inProgress State.reply State.answer
  dsimp only
  rw [List.length_append, queues.orders, queues.replies, List.length_singleton]
  show s.replyQueue.length + 1 + ((withoutWaiting s.orders).filter (·.inProgress)).length = _
  rw [filter_withoutWaiting]
  omega

theorem filter_startWaiting_of_first {l : List Order} {o : Order} (first : firstWaiting l = some o) :
    ((startWaiting l).filter (·.inProgress)).length = (l.filter (·.inProgress)).length + 1 := by
  unfold firstWaiting at first
  induction l with
  | nil => cases first
  | cons x l ih =>
    unfold startWaiting
    cases progress : x.inProgress
    · simp [progress]
    · rw [List.find?_cons_of_neg (by simp [progress])] at first
      simpa [progress] using ih first

theorem State.takeable_first {s : State} {o : Order} (h : s.takeable = some o) : firstWaiting s.orders = some o := by
  unfold State.takeable at h
  split at h
  · exact h
  · cases h

theorem State.deferOrder_handled {s t : State} {o : Order} (apart : s.Apart t) (h : s.takeable = some o) :
    s.Handled t.deferOrder := by
  obtain ⟨queues, house⟩ := apart
  refine ⟨?_, house⟩
  unfold State.places State.inProgress State.deferOrder
  dsimp only
  rw [queues.orders, queues.replies, filter_startWaiting_of_first (State.takeable_first h)]
  omega

section
variable {s : State} (o : Order)

theorem State.nop_handled : s.Handled (s.nop o) := (State.Apart.refl _).reply o _ _ _ _

theorem State.readEntry_handled : s.Handled (s.readEntry o) := by
  unfold State.readEntry
  dsimp only
  split
  · exact (State.Apart.refl _).reply o _ _ _ _
  · exact (State.apart_afterReading _ _ _).reply o _ _ _ _

theorem State.readNext_handled : s.Handled (s.readNext o) := by
  unfold State.readNext
  dsimp only
  split
  · split
    · exact (State.apart_afterReading _ _ _).reply o _ _ _ _
    · exact (State.Apart.refl _).reply o _ _ _ _
  · exact (State.Apart.refl _).reply o _ _ _ _

theorem State.writeEntryOrder_handled : s.Handled (s.writeEntryOrder o) := by
  unfold State.writeEntryOrder
  dsimp only
  split
  · exact (State.Apart.refl _).reply o _ _ _ _
  · exact (State.apart_tryWrite _ _ _ _ _).reply o _ _ _ _

theorem State.writeNext_handled : s.Handled (s.writeNext o) := by
  unfold State.writeNext
  dsimp only
  split
  · split
    · exact (State.apart_tryWrite _ _ _ _ _).reply o _ _ _ _
    · exact (State.Apart.refl _).reply o _ _ _ _
  · exact (State.Apart.refl _).reply o _ _ _ _

theorem State.immediate_handled {act : Order → State → Status × List Byte × State}
    (apart : ∀ t : State, t.Apart (act o t).2.2) : s.Handled (State.immediate act o s) :=
  (apart s.withoutTaken).reply o _ _ _ _

theorem State.swapOrder_handled (h : s.takeable = some o) : s.Handled (s.swapOrder o) := by
  unfold State.swapOrder
  split
  · exact (State.Apart.refl _).reply o _ _ _ _
  · obtain ⟨places, house⟩ := State.deferOrder_handled (.refl s) h
    exact ⟨places, house⟩

theorem State.stopOrder_handled (h : s.takeable = some o) : s.Handled (s.stopOrder o) := by
  unfold State.stopOrder
  split
  · exact (State.Apart.refl _).reply o _ _ _ _
  · next p _ =>
    have stopped := s.apart_stopProgram p
    split
    · exact (State.Apart.refl _).reply o _ _ _ _
    · next t e =>
      rw [e] at stopped
      exact State.deferOrder_handled stopped h

theorem State.resetPartOrder_handled : s.Handled (s.resetPartOrder o) := by
  obtain ⟨places, house⟩ := (State.Apart.refl s.withoutTaken).reply o o.table .done [] none
  refine ⟨?_, house⟩
  rw [← places]
  unfold State.places State.resetPartOrder State.reply State.answer
  simp only [List.length_append, List.length_singleton]
  rfl

end

/-! ### One order after another (R168, R169) -/

/-- What the order command of a kind does with an order of its kind (Table 11-4). -/
def orderHandler : Nat → Order → State → State
  | 0 => State.nop
  | 1 => State.readEntry
  | 2 => State.readNext
  | 3 => State.writeEntryOrder
  | 4 => State.writeNext
  | 5 => State.immediate clearAct
  | 6 => State.swapOrder
  | 7 => State.immediate (onProgram startAct)
  | 8 => State.stopOrder
  | 9 => State.immediate allocateAct
  | 10 => State.immediate (onProgram releaseAct)
  | 11 => State.immediate resetStreamAct
  | 12 => State.immediate (onProgram resetIntegrationAct)
  | 13 => State.immediate acknowledgeAct
  | 14 => State.immediate (onProgram sendLatencyAct)
  | 15 => State.resetPartOrder
  | _ => fun _ s => s

theorem orderHandler_handled {kind : Nat} (known : kind < 16) {s : State} {o : Order} (h : s.takeable = some o) :
    s.Handled (orderHandler kind o s) := by
  match kind, known with
  | 0, _ => exact State.nop_handled o
  | 1, _ => exact State.readEntry_handled o
  | 2, _ => exact State.readNext_handled o
  | 3, _ => exact State.writeEntryOrder_handled o
  | 4, _ => exact State.writeNext_handled o
  | 5, _ => exact State.immediate_handled o (apart_clearAct o)
  | 6, _ => exact State.swapOrder_handled o h
  | 7, _ => exact State.immediate_handled o (apart_onProgram o apart_startAct)
  | 8, _ => exact State.stopOrder_handled o h
  | 9, _ => exact State.immediate_handled o (apart_allocateAct o)
  | 10, _ => exact State.immediate_handled o (apart_onProgram o apart_releaseAct)
  | 11, _ => exact State.immediate_handled o (apart_resetStreamAct o)
  | 12, _ => exact State.immediate_handled o (apart_onProgram o apart_resetIntegrationAct)
  | 13, _ => exact State.immediate_handled o (apart_acknowledgeAct o)
  | 14, _ => exact State.immediate_handled o (apart_onProgram o apart_sendLatencyAct)
  | 15, _ => exact State.resetPartOrder_handled o
  | _ + 16, known => omega

/-- The command of a kind takes an order of that kind. -/
theorem exec_orderCommands {kind : Nat} (known : kind < 16) (s : State) :
    ∃ c ∈ orderCommands, exec c s = .next (s.take kind (orderHandler kind)) := by
  refine ⟨orderCommands[kind]'known, List.getElem_mem _, ?_⟩
  match kind, known with
  | 0, _ | 1, _ | 2, _ | 3, _ | 4, _ | 5, _ | 6, _ | 7, _ | 8, _ | 9, _ | 10, _ | 11, _ | 12, _ | 13, _ | 14, _
  | 15, _ => rfl
  | _ + 16, known => omega

theorem State.takeUnknown_none {s : State} (none : s.takeable = none) (n : Nat) : s.takeUnknown n = s := by
  cases n with
  | zero => rfl
  | succ n =>
    unfold State.takeUnknown
    rw [none]

theorem State.takeUnknown_known {s : State} {o : Order} (h : s.takeable = some o) (known : o.kind.toNat < 16) (n : Nat) :
    s.takeUnknown n = s := by
  cases n with
  | zero => rfl
  | succ n =>
    unfold State.takeUnknown
    rw [h]
    exact if_neg (by omega)

theorem State.takeUnknown_unknown {s : State} {o : Order} (h : s.takeable = some o) (unknown : 16 ≤ o.kind.toNat) (n : Nat) :
    s.takeUnknown (n + 1) = (s.withoutTaken.reply o o.table .illegal [] none).takeUnknown n := by
  conv_lhs => unfold State.takeUnknown
  rw [h]
  exact if_pos unknown

/-- No order is taken where every reply place is filled or reserved. -/
theorem State.places_of_takeable {s : State} {o : Order} (h : s.takeable = some o) : s.places < 8 :=
  State.takeable_room h

/-- Orders of unknown kind are answered until the oldest waiting order is of a known one, or none can be taken (log 16). -/
theorem State.takeUnknown_settled (n : Nat) (s : State) (enough : 8 ≤ s.places + n) :
    (∀ o, (s.takeUnknown n).takeable = some o → o.kind.toNat < 16) ∧ s.places ≤ (s.takeUnknown n).places ∧
    (s.takeUnknown n).house = s.house ∧
    ((s.takeUnknown n).takeable = none → s.takeable ≠ none → s.places < (s.takeUnknown n).places) := by
  induction n generalizing s with
  | zero =>
    have none : s.takeable = none := by
      by_contra some
      obtain ⟨o, h⟩ := Option.ne_none_iff_exists'.mp some
      exact absurd (State.places_of_takeable h) (by omega)
    exact ⟨fun o h => absurd (none.symm.trans h) (by nofun), Nat.le_refl _, rfl, fun _ some => absurd none some⟩
  | succ n ih =>
    cases h : s.takeable with
    | none =>
      rw [State.takeUnknown_none h]
      exact ⟨fun o h' => absurd (h.symm.trans h') (by nofun), Nat.le_refl _, rfl, fun _ some => absurd rfl some⟩
    | some o =>
      by_cases known : o.kind.toNat < 16
      · rw [State.takeUnknown_known h known, h]
        exact ⟨fun x e => Option.some.inj e ▸ known, Nat.le_refl _, rfl, nofun⟩
      · rw [State.takeUnknown_unknown h (by omega)]
        obtain ⟨places, house⟩ := (State.Apart.refl s.withoutTaken).reply o o.table .illegal [] none
        obtain ⟨kinds, rises, house', -⟩ := ih (s.withoutTaken.reply o o.table .illegal [] none) (by omega)
        exact ⟨kinds, by omega, house'.trans house, fun _ _ => by omega⟩

theorem State.take_handled {s : State} {o : Order} (h : (s.takeUnknown Config.orderPlaces).takeable = some o)
    (handle : Order → State → State) :
    s.take o.kind.toNat handle = handle o (s.takeUnknown Config.orderPlaces) := by
  unfold State.take
  dsimp only
  rw [h]
  exact if_pos rfl

/-- The taking of whichever order stands at the front is that of the command of its kind. -/
theorem State.takeAny_handled {s : State} {o : Order} (h : (s.takeUnknown Config.orderPlaces).takeable = some o) :
    s.takeAny = orderHandler o.kind.toNat o (s.takeUnknown Config.orderPlaces) := by
  obtain ⟨kinds, -⟩ := State.takeUnknown_settled Config.orderPlaces s (Nat.le_add_left 8 _)
  have again := State.takeUnknown_known h (kinds o h) Config.orderPlaces
  have front := State.take_handled (s := s.takeUnknown Config.orderPlaces) (o := o) (by rw [again]; exact h)
  unfold State.takeAny
  dsimp only
  rw [h]
  rw [again] at front
  rw [← front (orderHandler o.kind.toNat)]
  dsimp only
  generalize kind : o.kind.toNat = k
  have known : k < 16 := kind ▸ kinds o h
  clear kind again front
  match k, known with
  | 0, _ | 1, _ | 2, _ | 3, _ | 4, _ | 5, _ | 6, _ | 7, _ | 8, _ | 9, _ | 10, _ | 11, _ | 12, _ | 13, _ | 14, _
  | 15, _ => rfl
  | _ + 16, known => omega

theorem State.takeAny_none {s : State} (h : (s.takeUnknown Config.orderPlaces).takeable = none) :
    s.takeAny = s.takeUnknown Config.orderPlaces := by
  unfold State.takeAny
  dsimp only
  rw [h]

/-- One of the order commands takes whichever order stands at the front. -/
theorem State.takeAny_command (s : State) : ∃ c ∈ orderCommands, exec c s = .next s.takeAny := by
  cases h : (s.takeUnknown Config.orderPlaces).takeable with
  | none =>
    refine ⟨.nop, by decide, ?_⟩
    rw [State.takeAny_none h]
    show Host.Outcome.next (s.take 0 State.nop) = _
    unfold State.take
    dsimp only
    rw [h]
  | some o =>
    obtain ⟨kinds, -⟩ := State.takeUnknown_settled Config.orderPlaces s (Nat.le_add_left 8 _)
    obtain ⟨c, member, e⟩ := exec_orderCommands (kinds o h) s
    exact ⟨c, member, by rw [e, State.take_handled h, State.takeAny_handled h]⟩

/-- A turn leaves the house timing, and where an order could be taken one more reply place is taken. -/
theorem State.takeAny_places (s : State) :
    s.takeAny.house = s.house ∧ (s.takeable ≠ none → s.places < s.takeAny.places) ∧ (s.takeable = none → s.takeAny = s) := by
  obtain ⟨kinds, rises, house, answered⟩ := State.takeUnknown_settled Config.orderPlaces s (Nat.le_add_left 8 _)
  refine ⟨?_, fun some => ?_, fun none => ?_⟩
  · cases h : (s.takeUnknown Config.orderPlaces).takeable with
    | none => rwa [State.takeAny_none h]
    | some o =>
      rw [State.takeAny_handled h]
      exact (orderHandler_handled (kinds o h) h).house.trans house
  · cases h : (s.takeUnknown Config.orderPlaces).takeable with
    | none =>
      rw [State.takeAny_none h]
      exact answered h some
    | some o =>
      rw [State.takeAny_handled h, (orderHandler_handled (kinds o h) h).places]
      omega
  · have same := State.takeUnknown_none none Config.orderPlaces
    rw [State.takeAny_none (by rw [same]; exact none), same]

theorem State.takeAll_house (n : Nat) (s : State) : (s.takeAll n).house = s.house := by
  induction n generalizing s with
  | zero => rfl
  | succ n ih => exact (ih s.takeAny).trans s.takeAny_places.1

theorem State.takeAll_none {s : State} (none : s.takeable = none) (n : Nat) : s.takeAll n = s := by
  induction n with
  | zero => rfl
  | succ n ih =>
    unfold State.takeAll
    rw [s.takeAny_places.2.2 none, ih]

/-- Eight turns suffice, as each fills a reply place: after them no order can be taken. -/
theorem State.takeAll_settled (n : Nat) (s : State) (enough : 8 ≤ s.places + n) : (s.takeAll n).takeable = none := by
  induction n generalizing s with
  | zero =>
    by_contra some
    obtain ⟨o, h⟩ := Option.ne_none_iff_exists'.mp some
    exact absurd (State.places_of_takeable (s := s) h) (by omega)
  | succ n ih =>
    by_cases none : s.takeable = none
    · rw [State.takeAll_none none]
      exact none
    · have rises := s.takeAny_places.2.1 none
      exact ih s.takeAny (by omega)

/-- No order can be taken: a RESET PART is under way, no reply place is free, or every order is in progress (R169). -/
theorem State.takeable_eq_none_iff (s : State) : s.takeable = none ↔
    s.resetPhase ≠ .none ∨ (∀ o ∈ s.orders, o.inProgress = true) ∨ 8 ≤ s.replyQueue.length + s.inProgress := by
  have free : s.replyPlaceFree = true ↔ s.replyQueue.length + s.inProgress < 8 := decide_eq_true_iff
  unfold State.takeable
  by_cases open_ : s.resetPhase = .none ∧ s.replyPlaceFree = true
  · obtain ⟨phase, place⟩ := open_
    have room := free.mp place
    rw [if_pos ⟨phase, place⟩, firstWaiting, List.find?_eq_none]
    simp [phase, Nat.not_le.mpr room]
  · rw [if_neg open_]
    refine iff_of_true rfl ?_
    by_cases phase : s.resetPhase = .none
    · exact .inr (.inr (Nat.not_lt.mp fun room => open_ ⟨phase, free.mpr room⟩))
    · exact .inl phase

/-! ### Commands one after another -/

theorem afterCommands_cons {c : Instr} {s t : State} (e : exec c s = .next t) (cs : List Instr) :
    afterCommands (c :: cs) s = afterCommands cs t := by
  unfold afterCommands
  rw [List.foldl_cons, e]

theorem afterCommands_append (cs ds : List Instr) (s : State) :
    afterCommands (cs ++ ds) s = afterCommands ds (afterCommands cs s) := List.foldl_append

theorem State.takeAll_commands (n : Nat) (s : State) :
    ∃ cs : List Instr, (∀ c ∈ cs, c ∈ orderCommands) ∧ s.takeAll n = afterCommands cs s := by
  induction n generalizing s with
  | zero => exact ⟨[], by nofun, rfl⟩
  | succ n ih =>
    obtain ⟨c, member, e⟩ := s.takeAny_command
    obtain ⟨cs, members, e'⟩ := ih s.takeAny
    exact ⟨c :: cs, List.forall_mem_cons.mpr ⟨member, members⟩, e'.trans (afterCommands_cons e cs).symm⟩

/-- The orders that can be taken are taken by order commands, until none can be. -/
theorem State.takeAll_ordersTaken (s : State) : OrdersTaken s (s.takeAll Config.orderPlaces) :=
  ⟨s.takeAll_commands _, (State.takeable_eq_none_iff _).mp (s.takeAll_settled _ (Nat.le_add_left 8 _))⟩

end Sys2Proof.Machine
end

section
/-! What a house sample settles before it begins, as commands and as an effect on the house timing (R22 to R24; log 3). -/

namespace Sys2Proof.Machine

/-! ### The house timing beside the events -/

/-- `t` has the count and the reference state of `s`. -/
def State.SameTime (s t : State) : Prop := t.house.count = s.house.count ∧ t.house.reference = s.house.reference

theorem State.SameTime.trans {s t u : State} (h : s.SameTime t) (k : t.SameTime u) : s.SameTime u :=
  ⟨k.1.trans h.1, k.2.trans h.2⟩

theorem State.SameTime.of_house {s t : State} (h : t.house = s.house) : s.SameTime t :=
  ⟨congrArg House.count h, congrArg House.reference h⟩

theorem State.swapBanks_house (s : State) : s.swapBanks.house = s.house := by
  refine s.swapBanks_induct (P := fun t => t.house = s.house) rfl (fun p t h => ?_) (fun p t h => ?_) (fun _ h => h)
    (fun old p t h => ?_) fun mine t h => ?_
  · rw [State.meterUpdate_rest]
    exact h
  · rw [State.packetComplete_rest]
    exact h
  · rw [State.bringIn_rest]
    exact h
  · rcases t.completeDeferred_spec mine with e | ⟨_, _, _, _, _, e⟩ <;> rw [e] <;> exact h

theorem State.sameTime_boundary (pulse : Presence) (s : State) : s.SameTime (s.boundary pulse) := by
  unfold State.boundary State.handBoundary
  dsimp only
  split
  · exact ⟨rfl, rfl⟩
  · split
    · exact .trans (t := { s with house := { s.house with
        pulse := pulse, lastBoundary := s.house.count, boundaryMade := true } }) ⟨rfl, rfl⟩ (.of_house (State.swapBanks_house _))
    · exact ⟨rfl, rfl⟩

theorem State.sameTime_pulseAbsent (s : State) : s.SameTime s.pulseAbsent := by
  unfold State.pulseAbsent
  split
  · exact s.sameTime_boundary _
  · exact ⟨rfl, rfl⟩

theorem State.sameTime_synthesizedBoundary (s : State) : s.SameTime s.synthesizedBoundary := by
  unfold State.synthesizedBoundary
  split
  · exact s.sameTime_boundary _
  · exact ⟨rfl, rfl⟩

theorem State.evaluate_house (s : State) : s.evaluate.house = s.house := by
  unfold State.evaluate
  split
  · have voted : ({ s with
        triggers := s.stepTriggers.triggers, evaluationDue := false } : State).zeroEventCounts.applyVotes.house = s.house := by
      rw [State.applyVotes_rest]
      rfl
    unfold State.offerStepNotices
    refine List.foldlRecOn (motive := fun t : State => t.house = s.house) _ _ voted fun t ht i _ => ?_
    split
    · rw [State.offerNotice_rest]
      exact ht
    · exact ht
  · rfl

/-- The arbiter's choice takes a frame out of a queue, or is none: the house timing stands. -/
theorem State.egressChoice_house (s : State) : s.egressChoice.house = s.house := by
  unfold State.egressChoice
  split
  · split
    · next t e =>
      unfold State.chooseMedia at e
      split at e <;> cases e
      rfl
    · cases e : s.chooseOther with
      | none => rfl
      | some t =>
        obtain ⟨c, -, e⟩ := List.exists_of_findSome?_eq_some e
        obtain ⟨⟨f, u⟩, head, rfl⟩ := Option.map_eq_some_iff.mp e
        unfold State.takeHead at head
        split at head <;> split at head <;> cases head <;> rfl
  · rfl

/-! ### The part's own events (log 3) -/

/-- The events of one stream: the loop update, the gap timeout and the holdover limit. -/
def State.streamEvents (i : Fin 32) (s : State) : State := ((s.loopUpdate i).gapTimeout i).holdoverLimit i

/-- The event of one Latency Table entry. -/
def State.entryEvents (i : Fin 64) (s : State) : State := s.modifyLatency i (·.expire s.settings.staleTimeout)

/-- The events of one program: the meter update, the packet, the ends of the fades and of the quiet wait. -/
def State.programEvents (p : Fin 16) (s : State) : State :=
  ((((s.meterUpdate p).packetComplete p).fadeOutEnd p).modifyProgram p
    (·.fadeInEnd s.house.count (s.activeEntry p))).modifyProgram p (·.quietWaitExpiry s.house.count)

/-- The part once its own events have been made. -/
def State.eventsMade (s : State) : State :=
  (forEach 16 State.programEvents (forEach 64 State.entryEvents
    (forEach 32 State.streamEvents s))).pulseAbsent.synthesizedBoundary.evaluate

theorem State.settle_of_due {s : State} (due : s.resetPhase = .due) : s.settle = s.partReset := if_pos due

theorem State.settle_of_not_due {s : State} (undue : s.resetPhase ≠ .due) :
    s.settle = ((s.eventsMade.takeAll Config.orderPlaces).egressChoice).takeAll Config.orderPlaces := if_neg undue

theorem State.fadeOutEnd_put (p : Fin 16) (s : State) :
    ∃ g reports flags, s.fadeOutEnd p = ({ s with reportQueue := reports, flags := flags }).putProgram p g := by
  unfold State.fadeOutEnd
  split
  · obtain ⟨g, reports, flags, e, -⟩ := s.meterUpdate_put p
    refine ⟨g.fadeOutEnd, reports, flags, ?_⟩
    rw [e, State.modifyProgram_eq, State.putProgram_self, State.putProgram_put]
  · exact ⟨_, s.reportQueue, s.flags, (s.putProgram_same p).symm⟩

/-- Up to the ends of its fades the events of a program leave the house timing and the entries alone. -/
theorem State.fadeOutEnd_finish (p : Fin 16) (s : State) :
    ((s.finish p).fadeOutEnd p).house = s.house ∧ ((s.finish p).fadeOutEnd p).activeEntry p = s.activeEntry p := by
  obtain ⟨g, orders, replies, reports, flags, e, -⟩ := s.finish_put p
  obtain ⟨g', reports', flags', e'⟩ := (s.finish p).fadeOutEnd_put p
  rw [e', e]
  exact ⟨rfl, rfl⟩

theorem State.programEvents_house (p : Fin 16) (s : State) : (s.programEvents p).house = s.house := by
  rw [State.programEvents, State.modifyProgram_house, State.modifyProgram_house]
  exact (s.fadeOutEnd_finish p).1

theorem State.sameTime_eventsMade (s : State) : s.SameTime s.eventsMade := by
  have events : (forEach 16 State.programEvents (forEach 64 State.entryEvents
      (forEach 32 State.streamEvents s))).house = s.house := by
    rw [forEach_keeps State.house 16 State.programEvents _ State.programEvents_house,
      forEach_keeps State.house 64 State.entryEvents _ fun _ _ => rfl,
      forEach_keeps State.house 32 State.streamEvents _ fun _ _ => rfl]
  unfold State.eventsMade
  generalize forEach 16 State.programEvents _ = t at events
  exact .trans (.of_house events) (t.sameTime_pulseAbsent.trans
    ((State.sameTime_synthesizedBoundary _).trans (.of_house (State.evaluate_house _))))

/-- Unless a RESET PART is due, what is settled leaves the count and the reference state. -/
theorem State.sameTime_settle {s : State} (undue : s.resetPhase ≠ .due) : s.SameTime s.settle := by
  rw [State.settle_of_not_due undue]
  exact s.sameTime_eventsMade.trans (.of_house (((State.takeAll_house _ _).trans (State.egressChoice_house _)).trans
    (State.takeAll_house _ _)))

/-! ### The end of a house sample (R22 to R24) -/

/-- The programs take their house sample on `u`, which leaves the house timing alone. -/
theorem State.programsSampled_house (u : State) :
    (forEach 16 State.programSample (forEach 16 State.syncFallback u)).house = u.house :=
  (forEach_keeps State.house 16 _ _ fun p t => by rw [State.programSample_rest]).trans
    (forEach_keeps State.house 16 _ _ fun p t => by rw [State.syncFallback_rest])

theorem State.processSample_house (s : State) :
    s.processSample.house = { s.house with count := s.house.count + 1, boundaryMade := false } := by
  unfold State.processSample State.countSample
  rw [State.programsSampled_house]
  rfl

/-- A house sample counts from 0 where a RESET PART is due, which leaves the reference ABSENT (log 3). -/
theorem State.houseSample_house (s : State) :
    s.houseSample.house.count = (if s.resetPhase = .due then 0 else s.house.count) + 1 ∧
    s.houseSample.house.reference = (if s.resetPhase = .due then .absent else s.house.reference) ∧
    s.houseSample.house.boundaryMade = false := by
  rw [State.houseSample, State.processSample_house]
  by_cases due : s.resetPhase = .due
  · rw [if_pos due, if_pos due, State.settle_of_due due, State.partReset, if_pos due]
    exact ⟨rfl, rfl, rfl⟩
  · obtain ⟨count, reference⟩ := State.sameTime_settle due
    rw [if_neg due, if_neg due, ← count, ← reference]
    exact ⟨rfl, rfl, rfl⟩

/-- Settles O14: each end counts from the settled state, and the undue ends are refused by the reference state. -/
theorem houseSampleCounts : Obligations.HouseSampleCounts := by
  intro s
  dsimp only
  obtain ⟨count, reference, made⟩ := s.houseSample_house
  refine ⟨⟨_, rfl, count, rfl, made⟩, fun present => ⟨_, congrArg Host.Outcome.next (if_pos present), count, fun undue => ?_⟩,
    fun absent => ⟨_, congrArg Host.Outcome.next (if_pos absent), count, ?_⟩, fun absent => ?_, fun present => ?_, rfl⟩
  · rw [reference, if_neg undue, present]
  · rw [reference, absent, ite_self]
  · exact congrArg Host.Outcome.next (if_neg (by rw [absent]; nofun))
  · exact congrArg Host.Outcome.next (if_neg (by rw [present]; nofun))

/-! ### The events as commands -/

/-- Commands for each index in turn, of which those of one index make one act. -/
theorem afterCommands_flatMap {n : Nat} (commands : Nat → List Instr) (f : Fin n → State → State)
    (made : ∀ (i : Fin n) (t : State), afterCommands (commands i.val) t = f i t) (s : State) :
    afterCommands ((List.range n).flatMap commands) s = forEach n f s := by
  rw [← List.map_coe_finRange_eq_range, forEach]
  generalize List.finRange n = l
  induction l generalizing s with
  | nil => rfl
  | cons i l ih =>
    rw [List.map_cons, List.flatMap_cons, afterCommands_append, made, List.foldl_cons]
    exact ih (f i s)

/-- A command of an index, followed by others. -/
theorem afterCommands_cons_fin {n : Nat} {c : Instr} {s : State} (i : Fin n) (f : Fin n → State → State)
    (e : exec c s = .next (atIndex n i.val f s)) (cs : List Instr) :
    afterCommands (c :: cs) s = afterCommands cs (f i s) :=
  afterCommands_cons (e.trans (congrArg _ (atIndex_fin i f s))) cs

theorem afterCommands_streamEvents (i : Fin 32) (t : State) :
    afterCommands [.loopUpdate i.val, .gapTimeout i.val, .holdoverLimit i.val] t = t.streamEvents i := by
  rw [afterCommands_cons_fin i State.loopUpdate rfl, afterCommands_cons_fin i State.gapTimeout rfl,
    afterCommands_cons_fin i State.holdoverLimit rfl]
  rfl

theorem afterCommands_entryEvents (i : Fin 64) (t : State) : afterCommands [.entryStale i.val] t = t.entryEvents i :=
  afterCommands_cons_fin (c := .entryStale i.val) i State.entryEvents rfl []

theorem afterCommands_programEvents (p : Fin 16) (t : State) :
    afterCommands [.meterUpdate p.val, .packetComplete p.val, .fadeOutEnd p.val, .fadeInEnd p.val, .quietWaitExpiry p.val] t =
      t.programEvents p := by
  obtain ⟨house, entry⟩ := t.fadeOutEnd_finish p
  rw [afterCommands_cons_fin p State.meterUpdate rfl, afterCommands_cons_fin p State.packetComplete rfl,
    afterCommands_cons_fin p State.fadeOutEnd rfl,
    afterCommands_cons_fin p (fun p t => t.modifyProgram p (·.fadeInEnd t.house.count (t.activeEntry p))) rfl,
    afterCommands_cons_fin p (fun p t => t.modifyProgram p (·.quietWaitExpiry t.house.count)) rfl]
  show (((t.finish p).fadeOutEnd p).modifyProgram p (·.fadeInEnd ((t.finish p).fadeOutEnd p).house.count
    (((t.finish p).fadeOutEnd p).activeEntry p))).modifyProgram p
      (·.quietWaitExpiry ((t.finish p).fadeOutEnd p).house.count) = _
  rw [house, entry]
  rfl

theorem afterCommands_partEvents (t : State) : afterCommands [.pulseAbsent, .synthesizedBoundary, .alarmEvaluation] t =
    t.pulseAbsent.synthesizedBoundary.evaluate := rfl

/-- The commands of the part's own events make them in the order in which a house sample settles them. -/
theorem afterCommands_events (s : State) : afterCommands eventCommands s = s.eventsMade := by
  unfold eventCommands
  rw [afterCommands_append, afterCommands_append, afterCommands_append,
    afterCommands_flatMap _ State.streamEvents afterCommands_streamEvents, List.map_eq_flatMap,
    afterCommands_flatMap _ State.entryEvents afterCommands_entryEvents,
    afterCommands_flatMap _ State.programEvents afterCommands_programEvents, afterCommands_partEvents, State.eventsMade]

end Sys2Proof.Machine
end

section
/-! What a house sample makes of the streams, the slots and the Latency Table (R28 to R33, R119). -/

namespace Sys2Proof.Machine

/-! ### The conversion of one stream (R28 to R31, R33) -/

theorem ContextState.converting_iff (st : ContextState) :
    st.converting = true ↔ st = .track ∨ st = .locked ∨ st = .holdover := by
  cases st <;> simp [ContextState.converting]

theorem StreamEntry.taps_le (e : StreamEntry) : e.taps ≤ 64 := by
  unfold StreamEntry.taps
  split <;> decide

/-- A frame of the filter lies as far back from the write index as its distance says. -/
theorem back_of_frame {w p : BitVec 32} {n k : Nat} (_ : n ≤ 64) (_ : n / 2 < (w - p).toNat)
    (_ : (w - p).toNat ≤ 2016) (_ : k < n) :
    (w - (p - BitVec.ofNat 32 (n / 2) + 1 + BitVec.ofNat 32 k)).toNat = (w - p).toNat + n / 2 - 1 - k := by
  have total : (w - p) + BitVec.ofNat 32 (n / 2) =
      BitVec.ofNat 32 ((w - p).toNat + n / 2 - 1 - k) + 1 + BitVec.ofNat 32 k := by
    have sum : (w - p).toNat + n / 2 = (w - p).toNat + n / 2 - 1 - k + 1 + k := by omega
    have cast := congrArg (BitVec.ofNat 32) sum
    rw [BitVec.ofNat_add, BitVec.ofNat_add, BitVec.ofNat_add, BitVec.ofNat_toNat, BitVec.setWidth_eq] at cast
    exact cast
  have moved : w - (p - BitVec.ofNat 32 (n / 2) + 1 + BitVec.ofNat 32 k) =
      BitVec.ofNat 32 ((w - p).toNat + n / 2 - 1 - k) := by
    linear_combination total
  rw [moved, BitVec.toNat_ofNat, Nat.mod_eq_of_lt (by omega)]

/-- The frames of a lane by their write indices (R28; log 28). -/
theorem Context.laneFrames_eq {c : Context} (converts : c.state.converting = true) {n : Nat} (taps : n ≤ 64)
    (held : n / 2 < c.fill) (fill : c.fill ≤ 2016) (j : Nat) : c.laneFrames n j =
      (List.range n).map fun k => frameLane c (c.position - BitVec.ofNat 32 (n / 2) + 1 + BitVec.ofNat 32 k) j := by
  have counted : c.fill = (c.writeIndex - c.position).toNat := by
    rw [ContextState.converting_iff] at converts
    refine Context.fill_counted ?_ ?_ <;> rcases converts with st | st | st <;> rw [st] <;> decide
  unfold Context.laneFrames
  refine List.map_congr_left fun k member => ?_
  have back := back_of_frame taps (counted ▸ held) (counted ▸ fill) (List.mem_range.mp member)
  unfold frameLane
  dsimp only
  rw [back, ← counted]
  rfl

/-- The samples converted, with the phase and the weight read from pos (R28). -/
theorem Context.convert_eq {c : Context} (e : StreamEntry) (converts : c.state.converting = true)
    (held : e.taps / 2 < c.fill) (fill : c.fill ≤ 2016) : c.convert e = (List.range e.lanes).map fun j =>
      convertLane (romSet e.taps (c.pos.toNat / 67108864 % 64)) (romSet e.taps (c.pos.toNat / 67108864 % 64 + 1))
        (c.pos.toNat / 65536 % 1024) ((List.range e.taps).map fun k =>
          frameLane c ((c.pos >>> 32).setWidth 32 - BitVec.ofNat 32 (e.taps / 2) + 1 + BitVec.ofNat 32 k) j) := by
  have phase : c.fraction / 67108864 = c.pos.toNat / 67108864 % 64 := by
    unfold Context.fraction
    omega
  have weight : c.fraction / 65536 % 1024 = c.pos.toNat / 65536 % 1024 := by
    unfold Context.fraction
    omega
  unfold Context.convert
  dsimp only
  rw [phase, weight]
  refine List.map_congr_left fun j _ => ?_
  rw [Context.laneFrames_eq converts e.taps_le held fill, Context.position]

/-- The fade of a stalled house sample: at k = 480 it has reached 0 (R31). -/
theorem faded_eq (x : Int) {k : Nat} (last : k ≤ 480) :
    (if k < Config.rampSamples then toSample (roundHalfUp (mkRat (x * (Config.rampSamples - k : Nat)) Config.rampSamples))
      else 0) = BitVec.ofInt 24 ⌊(x * (480 - k) : ℚ) / 480 + 1 / 2⌋ := by
  have quotient : mkRat (x * (480 - k : Nat)) 480 = (x * (480 - k) : ℚ) / 480 := by
    rw [Rat.mkRat_eq_div]
    push_cast [last]
    rfl
  split
  · show toSample (roundHalfUp (mkRat (x * (480 - k : Nat)) 480)) = _
    rw [quotient]
    rfl
  · next full =>
    have all : k = 480 := Nat.le_antisymm last (Nat.not_lt.mp full)
    subst all
    have silent : ⌊(x * (480 - (480 : Nat)) : ℚ) / 480 + 1 / 2⌋ = 0 := by norm_num
    rw [silent]
    rfl

/-- The measurement window in a state that converts: HOLDOVER measures nothing (R33). -/
theorem Context.measure_eq {c : Context} (converts : c.state.converting = true) :
    c.measure = if c.state = .holdover then c
      else { c with windowSum := c.windowSum + c.fill, windowCount := c.windowCount + 1 } := by
  rw [ContextState.converting_iff] at converts
  unfold Context.measure
  rcases converts with st | st | st <;> simp [st, ContextState.looping]

/-- The advance of pos in a state that converts, with the fill it leaves (R10, R11, R29). -/
theorem Context.advance_eq {c : Context} (converts : c.state.converting = true) : c.advance = { c with
    pos := c.pos + BitVec.ofInt 64 c.step
    buffer := c.buffer.drop
      (c.buffer.length - ((c.writeIndex - ((c.pos + BitVec.ofInt 64 c.step) >>> 32).setWidth 32).toNat + 32))
    maxFill := max c.maxFill (c.writeIndex - ((c.pos + BitVec.ofInt 64 c.step) >>> 32).setWidth 32).toNat
    minFill := min c.minFill (c.writeIndex - ((c.pos + BitVec.ofInt 64 c.step) >>> 32).setWidth 32).toNat } := by
  rw [ContextState.converting_iff] at converts
  unfold Context.advance Context.noteFill Context.release Context.fill
  dsimp only
  rcases converts with st | st | st <;> rw [st] <;> rfl

theorem sampleOf_idle {e : StreamEntry} {c : Context} (idle : ¬ c.state.converting = true) : sampleOf e c = ([], c) := by
  rw [ContextState.converting_iff] at idle
  unfold sampleOf
  dsimp only
  rw [if_pos]
  exact ⟨fun st => idle (.inl st), fun st => idle (.inr (.inl st)), fun st => idle (.inr (.inr st))⟩

theorem ContextState.converting_not {st : ContextState} (converts : st.converting = true) :
    ¬ (st ≠ .track ∧ st ≠ .locked ∧ st ≠ .holdover) := by
  rintro ⟨track, locked, holdover⟩
  rcases (ContextState.converting_iff st).mp converts with e | e | e
  · exact track e
  · exact locked e
  · exact holdover e

/-- Where the filter's frames are held, the stream converts and advances. -/
theorem Stream.houseSample_held {e : StreamEntry} {c : Context} (converts : c.state.converting = true)
    (held : e.taps / 2 < c.fill) (fill : c.fill ≤ 2016) :
    Stream.houseSample ⟨e, c⟩ = ((sampleOf e c).1, ⟨e, (sampleOf e c).2⟩) := by
  have holds : c.hasFrames e = true := decide_eq_true held
  unfold Stream.houseSample sampleOf
  dsimp only
  rw [if_pos converts, if_pos holds,
    if_neg (ContextState.converting_not converts), if_pos held, Context.convert_eq e converts held fill]
  generalize (List.range e.lanes).map _ = out
  rw [Context.advance_eq converts, Context.measure_eq (by exact converts)]

/-- The concealed samples of a stalled house sample (R31). -/
theorem Context.concealed_eq {e : StreamEntry} {c : Context} (converts : c.state.converting = true)
    (lacking : ¬ e.taps / 2 < c.fill) : c.concealed e (min Config.rampSamples (c.stalled + 1)) = (sampleOf e c).1 := by
  unfold Context.concealed sampleOf
  dsimp only
  rw [if_neg (ContextState.converting_not converts), if_neg lacking]
  refine List.map_congr_left fun j _ => ?_
  cases e.concealment with
  | zero => rfl
  | holdFade => exact faded_eq _ (Nat.min_le_left _ _)

/-- Where they are not, it stalls and conceals. -/
theorem Stream.houseSample_stalled {e : StreamEntry} {c : Context} (converts : c.state.converting = true)
    (lacking : ¬ e.taps / 2 < c.fill) :
    Stream.houseSample ⟨e, c⟩ = ((sampleOf e c).1, ⟨e, (sampleOf e c).2⟩) := by
  have stalls : ¬ c.hasFrames e = true := of_decide_eq_false (decide_eq_false lacking) ∘ of_decide_eq_true
  rw [← Context.concealed_eq converts lacking]
  unfold Stream.houseSample sampleOf
  dsimp only
  rw [if_pos converts, if_neg stalls, if_neg (ContextState.converting_not converts), if_neg lacking,
    Context.measure_eq (by exact converts), Context.flagUnderrun, saturating_eq]
  rfl

/-- A stream's house sample is the one that the statements speak of. -/
theorem Stream.houseSample_eq {t : Stream} (fill : t.ctx.fill ≤ 2016) :
    t.houseSample = ((sampleOf t.entry t.ctx).1, ⟨t.entry, (sampleOf t.entry t.ctx).2⟩) := by
  by_cases converts : t.ctx.state.converting = true
  · by_cases held : t.entry.taps / 2 < t.ctx.fill
    · exact Stream.houseSample_held converts held fill
    · exact Stream.houseSample_stalled converts held
  · rw [sampleOf_idle converts]
    exact if_neg converts

/-- A stream gives no more samples than it has lanes. -/
theorem Stream.houseSample_length (t : Stream) : t.houseSample.1.length ≤ t.entry.lanes := by
  unfold Stream.houseSample
  dsimp only
  split
  · split
    · simp [Context.convert]
    · simp [Context.concealed]
  · exact Nat.zero_le _

/-! ### The lane slots (R32) -/

/-- One stream's samples placed in the slots, where its entry is valid. -/
def placeStream (v : Vector Sample 128) (t : Stream) : Vector Sample 128 :=
  if t.entry.valid then placeLanes v t.entry.first t.houseSample.1 else v

theorem placeStream_other {v : Vector Sample 128} {t : Stream} {k : Fin 128} (h : t.entry.covers k.val = false) :
    (placeStream v t)[k] = v[k] := by
  unfold placeStream
  split
  · next valid =>
    have length := t.houseSample_length
    have outside : ¬ (t.entry.first ≤ k.val ∧ k.val < t.entry.first + t.houseSample.1.length) := by
      rintro ⟨low, high⟩
      have covers := (t.entry.covers_iff k.val).mpr ⟨valid, low, by omega⟩
      rw [h] at covers
      cases covers
    simp [placeLanes, outside]
  · rfl

theorem placeStream_covered {v : Vector Sample 128} {t : Stream} {k : Fin 128} (h : t.entry.covers k.val = true)
    (empty : v[k] = 0) : (placeStream v t)[k] = t.houseSample.1.getD (k.val - t.entry.first) 0 := by
  obtain ⟨valid, low, -⟩ := (t.entry.covers_iff k.val).mp h
  have empty' : v[k.val] = 0 := empty
  unfold placeStream
  rw [if_pos valid]
  by_cases high : k.val < t.entry.first + t.houseSample.1.length
  · simp [placeLanes, low, high]
  · rw [List.getD_eq_default _ _ (by omega)]
    simp [placeLanes, high, empty']

theorem foldl_placeStream_other {l : List Stream} {v : Vector Sample 128} {k : Fin 128}
    (h : ∀ t ∈ l, t.entry.covers k.val = false) : (l.foldl placeStream v)[k] = v[k] := by
  induction l generalizing v with
  | nil => rfl
  | cons t l ih =>
    rw [List.foldl_cons, ih fun x hx => h x (List.mem_cons_of_mem t hx)]
    exact placeStream_other (h t List.mem_cons_self)

theorem State.convertAll_slots (s : State) :
    s.convertAll.slots = ((List.finRange 32).map fun i => s.streams[i]).foldl placeStream (.replicate 128 0) := by
  have streams : s.streams.toList = (List.finRange 32).map fun i => s.streams[i] := by
    apply List.ext_getElem <;> simp
  rw [← streams]
  rfl

/-- A slot covered by one stream carries what that stream gives it. -/
theorem State.convertAll_covered {s : State} {k : Fin 128} {i : Fin 32} (covers : s.streams[i].entry.covers k.val = true)
    (alone : ∀ j : Fin 32, j ≠ i → s.streams[j].entry.covers k.val = false) :
    s.convertAll.slots[k] = s.streams[i].houseSample.1.getD (k.val - s.streams[i].entry.first) 0 := by
  obtain ⟨early, late, split⟩ := List.append_of_mem (List.mem_finRange i)
  have nodup := List.nodup_finRange 32
  rw [split, List.nodup_append] at nodup
  obtain ⟨-, rest, apart⟩ := nodup
  have others (l : List (Fin 32)) (ne : ∀ j ∈ l, j ≠ i) : ∀ t ∈ l.map fun i => s.streams[i], t.entry.covers k.val = false := by
    intro t member
    obtain ⟨j, held, rfl⟩ := List.mem_map.mp member
    exact alone j (ne j held)
  rw [State.convertAll_slots, split, List.map_append, List.map_cons, List.foldl_append, List.foldl_cons,
    foldl_placeStream_other (others late fun j held e => (List.nodup_cons.mp rest).1 (e ▸ held)),
    placeStream_covered covers]
  rw [foldl_placeStream_other (others early fun j held => apart j held i List.mem_cons_self)]
  simp

/-- A slot that no stream covers carries 0. -/
theorem State.convertAll_uncovered {s : State} {k : Fin 128} (none : ∀ j : Fin 32, s.streams[j].entry.covers k.val = false) :
    s.convertAll.slots[k] = 0 := by
  rw [State.convertAll_slots, foldl_placeStream_other]
  · simp
  · intro t member
    obtain ⟨j, -, rfl⟩ := List.mem_map.mp member
    exact none j

/-- The conversion and the ageing fill the slots. -/
theorem State.slotsFilled (s : State) : SlotsFilled s s.convertAll.ageEntries := by
  have stream (i : Fin 32) : s.convertAll.ageEntries.streams[i] = s.streams[i].houseSample.2 := by
    simp [State.convertAll, State.ageEntries]
  refine ⟨rfl, fun i fill => ?_, fun k i fill covers alone => ?_, fun k none => ?_, fun i => ?_⟩
  · rw [stream, Stream.houseSample_eq fill]
  · refine (State.convertAll_covered covers alone).trans ?_
    rw [Stream.houseSample_eq fill]
  · exact State.convertAll_uncovered none
  · simp [State.convertAll, State.ageEntries, LatencyEntry.older]

end Sys2Proof.Machine
end

section
/-! The house sample of a part with events due, of one between its events, and of an idle part (R22 to R33, R49, R119, R143). -/

namespace Sys2Proof.Machine

/-! ### The work of a house sample -/

/-- The state that a house sample which does its work on `w` leaves, once the programs have taken theirs on `v`. -/
def State.countedOn (w v : State) (r : Presence) : State := { v with
  house := { w.house with count := w.house.count + 1, reference := r, boundaryMade := false }
  evaluationDue := decide (w.house.count + 1 ≠ 0) && decide ((w.house.count + 1).toNat % 4800 = 0) }

theorem State.processSample_eq (w : State) : w.processSample =
    w.countedOn (forEach 16 State.programSample (forEach 16 State.syncFallback w.convertAll.ageEntries)) w.house.reference := by
  unfold State.processSample State.countSample
  rw [State.programsSampled_house]
  rfl

/-- The three ends of a house sample that has done its work on `w`, which each set the reference of their own. -/
theorem exec_houseSample {s w v : State} (sampled : s.houseSample = w.countedOn v w.house.reference) :
    exec .wordClockEdge s = .next (w.countedOn v .present) ∧
    (s.house.reference = .present → exec .bridgedSample s = .next (w.countedOn v w.house.reference)) ∧
    (s.house.reference = .absent → exec .freeRunSampleEnd s = .next (w.countedOn v w.house.reference)) := by
  refine ⟨?_, fun present => ?_, fun absent => ?_⟩
  · show Host.Outcome.next { s.houseSample with house := { s.houseSample.house with reference := .present } } = _
    rw [sampled]
    rfl
  · rw [← sampled]
    exact congrArg Host.Outcome.next (if_pos present)
  · rw [← sampled]
    exact congrArg Host.Outcome.next (if_pos absent)

/-- Between events the reference is the state's own, so that each end names it. -/
theorem exec_quietSample {s v : State} (sampled : s.houseSample = s.countedOn v s.house.reference) :
    exec .wordClockEdge s = .next (s.countedOn v .present) ∧
    (s.house.reference = .present → exec .bridgedSample s = .next (s.countedOn v .present)) ∧
    (s.house.reference = .absent → exec .freeRunSampleEnd s = .next (s.countedOn v .absent)) := by
  obtain ⟨edge, bridged, free⟩ := exec_houseSample sampled
  refine ⟨edge, fun present => ?_, fun absent => ?_⟩
  · rw [bridged present, present]
  · rw [free absent, absent]

/-- A house sample does its work on what has been settled. -/
theorem State.houseSampleOn_settle (s : State) : HouseSampleOn s s.settle :=
  ⟨s.settle.convertAll.ageEntries, State.slotsFilled s.settle, exec_houseSample (State.processSample_eq s.settle)⟩

/-- The settling follows the model's order: the part's own events, the orders, the arbiter's choice, and the orders that
can be taken after it; or a due RESET PART alone. -/
theorem eventsSettledFirst : EventsSettledFirst := by
  refine ⟨fun s w due reset => ?_, fun s undue => ?_⟩
  · have settled : s.settle = w := (State.settle_of_due due).trans (Host.Outcome.next.inj reset)
    exact settled ▸ s.houseSampleOn_settle
  · rw [afterCommands_events]
    refine ⟨_, _, _, State.takeAll_ordersTaken s.eventsMade, rfl, State.takeAll_ordersTaken _, ?_⟩
    rw [← State.settle_of_not_due undue]
    exact s.houseSampleOn_settle

/-! ### A part between its events -/

section

variable {s : State} (h : s.Undisturbed)

include h

theorem State.Undisturbed.streamEvents (i : Fin 32) : s.streamEvents i = s := by
  have loops : s.loopUpdate i = s := by
    unfold State.loopUpdate
    rw [State.modifyContext_eq, Context.loopUpdate_undue, State.putContext_same]
    by_cases works : s.streams[i].ctx.state = .track ∨ s.streams[i].ctx.state = .locked
    · exact .inl (h.windows i works).1
    · exact .inr (not_or.mp works)
  have gap : s.gapTimeout i = s := by
    unfold State.gapTimeout
    rw [State.modifyContext_eq, Context.gapTimeout_undue, State.putContext_same]
    by_cases works : s.streams[i].ctx.state = .track ∨ s.streams[i].ctx.state = .locked
    · exact .inr (h.windows i works).2
    · exact .inl (not_or.mp works)
  have limit : s.holdoverLimit i = s := by
    unfold State.holdoverLimit
    rw [State.modifyContext_eq, Context.holdoverLimit_undue, State.putContext_same]
    by_cases holds : s.streams[i].ctx.state = .holdover
    · exact .inr (h.holdover i holds)
    · exact .inl holds
  rw [State.streamEvents, loops, gap, limit]

theorem State.Undisturbed.entryEvents (i : Fin 64) : s.entryEvents i = s := by
  have undue : s.latencies[i].expire s.settings.staleTimeout = s.latencies[i] := by
    refine if_neg ?_
    rintro ⟨fresh, old⟩
    exact Nat.not_le.mpr (h.entries i fresh) old
  show ({ s with latencies := s.latencies.set i (s.latencies[i].expire s.settings.staleTimeout) } : State) = s
  rw [undue]
  simp

theorem State.Undisturbed.fadeOutEnd (p : Fin 16) : s.fadeOutEnd p = s := by
  refine if_neg ?_
  rintro ⟨fade, ends⟩
  exact Nat.not_le.mpr (h.dips p (.inl fade)) ends

theorem State.Undisturbed.fadeInEnd (p : Fin 16) (now : BitVec 48) (e : ProgramEntry) :
    s.programs[p].fadeInEnd now e = s.programs[p] := by
  refine if_neg ?_
  rintro ⟨fade, ends⟩
  exact Nat.not_le.mpr (h.dips p (.inr fade)) ends

theorem State.Undisturbed.quietWaitExpiry (p : Fin 16) :
    s.programs[p].quietWaitExpiry s.house.count = s.programs[p] := by
  refine if_neg ?_
  rintro ⟨runs, waits, ends⟩
  exact Nat.not_le.mpr (h.waits p runs waits) ends

theorem State.Undisturbed.meterUpdate (p : Fin 16) : s.meterUpdate p = s := by
  by_cases processing : s.programs[p].state.processing = true
  · exact State.meterUpdate_of_not_due (h.subBlocks p processing)
  · unfold State.meterUpdate
    split
    · rfl
    · rw [if_neg processing]

theorem State.Undisturbed.programEvents (p : Fin 16) : s.programEvents p = s := by
  have fadeIn : s.modifyProgram p (·.fadeInEnd s.house.count (s.activeEntry p)) = s := by
    rw [State.modifyProgram_eq, h.fadeInEnd, State.putProgram_same]
  have wait : s.modifyProgram p (·.quietWaitExpiry s.house.count) = s := by
    rw [State.modifyProgram_eq, h.quietWaitExpiry, State.putProgram_same]
  rw [State.programEvents, h.meterUpdate, State.packetComplete_of_incomplete (h.packets p), h.fadeOutEnd, fadeIn, wait]

theorem State.Undisturbed.boundaries : s.pulseAbsent.synthesizedBoundary = s := by
  have early := h.boundary
  cases pulse : s.house.pulse with
  | absent =>
    rw [pulse] at early
    rw [State.pulseAbsent_undue (.inl pulse), State.synthesizedBoundary_undue (.inr early)]
  | present =>
    rw [pulse] at early
    rw [State.pulseAbsent_undue (.inr early), State.synthesizedBoundary_undue (.inl pulse)]

theorem State.Undisturbed.evaluate : s.evaluate = s := if_neg (by rw [h.evaluation]; nofun)

theorem State.Undisturbed.eventsMade : s.eventsMade = s := by
  rw [State.eventsMade, forEach_id 32 _ s h.streamEvents, forEach_id 64 _ s h.entryEvents,
    forEach_id 16 _ s h.programEvents, h.boundaries, h.evaluate]

theorem State.Undisturbed.takeable : s.takeable = none := by
  rw [State.takeable_eq_none_iff]
  exact h.orders.imp_left fun awaits none => by rw [awaits] at none; cases none

/-- With every queue empty the arbiter finds no frame. -/
theorem State.Undisturbed.egressChoice : s.egressChoice = s := by
  unfold State.egressChoice
  split
  · next free =>
    obtain ⟨idle, held, -⟩ := free
    obtain ⟨media, replies, reports, notices, pass⟩ := (h.egress.resolve_left (not_not_intro idle)).resolve_left
      (by rw [held]; nofun)
    have noMedia : s.chooseMedia = none := by
      unfold State.chooseMedia
      rw [List.find?_eq_none.mpr fun p _ => by rw [media p]; decide]
    have noHead (c : EgressClass) : s.takeHead c = none := by
      cases c <;> unfold State.takeHead <;> dsimp only
      · rw [replies]
      · rw [reports]
      · rw [notices]
      · rw [pass]
    have noOther : s.chooseOther = none := by
      unfold State.chooseOther
      rw [List.findSome?_eq_none_iff]
      intro c _
      rw [noHead c]
      rfl
    rw [noMedia, noOther]
    rfl
  · rfl

/-- Between its events a part has nothing to settle. -/
theorem State.Undisturbed.settle : s.settle = s := by
  rw [State.settle_of_not_due h.phase, h.eventsMade, State.takeAll_none h.takeable, h.egressChoice,
    State.takeAll_none h.takeable]

/-- Fallback follows its condition, which the conversion does not touch. -/
theorem State.Undisturbed.syncFallback : forEach 16 State.syncFallback s.convertAll.ageEntries = s.convertAll.ageEntries := by
  refine forEach_id 16 _ _ fun p => State.syncFallback_same p _ ?_
  show s.wantsFallback p = s.programs[p].fallbackInUse
  rw [Bool.eq_iff_iff, h.fallback p, State.wantsFallback, Bool.and_eq_true, decide_eq_true_eq, Option.isSome_iff_ne_none]

/-- Between its events a part converts, and the programs take their house sample. -/
theorem State.Undisturbed.houseSample : s.houseSample =
    s.countedOn (forEach 16 State.programSample s.convertAll.ageEntries) s.house.reference := by
  rw [State.houseSample, h.settle, State.processSample_eq, h.syncFallback]

end

/-! ### An idle part -/

/-- What is idle is between its events. -/
theorem State.NothingDue.undisturbed {s : State} (h : s.NothingDue) : s.Undisturbed where
  phase := by rw [h.phase]; nofun
  orders := .inr (.inl (by rw [h.orders]; nofun))
  evaluation := h.evaluation
  windows i works := by
    obtain ⟨track, locked, -⟩ := h.windows i
    exact absurd works (not_or.mpr ⟨track, locked⟩)
  holdover i holds := by
    obtain ⟨-, -, holdover⟩ := h.windows i
    exact absurd holds holdover
  entries i fresh := by
    obtain ⟨-, absent⟩ := h.entries i
    rw [absent] at fresh
    cases fresh
  subBlocks p _ := by
    obtain ⟨-, noneDue, -⟩ := h.programs p
    exact noneDue
  packets p := by
    obtain ⟨-, -, empty, -⟩ := h.programs p
    exact .inl empty
  dips p fades := by
    obtain ⟨-, -, -, -, rest, -⟩ := h.programs p
    rw [rest] at fades
    rcases fades with fade | fade <;> cases fade
  waits p runs := by
    rw [(h.programs p).1] at runs
    cases runs
  fallback p := by
    obtain ⟨-, -, -, -, -, unused, none⟩ := h.programs p
    rw [unused, none]
    exact ⟨nofun, fun held => absurd held.1 (Nat.lt_irrefl 0)⟩
  boundary := by
    rw [h.boundary.1]
    exact h.boundary.2
  egress := by
    refine .inr (.inr ⟨fun p => ?_, h.egress⟩)
    obtain ⟨-, -, -, noFrame, -⟩ := h.programs p
    exact noFrame

theorem placeStream_idle {v : Vector Sample 128} {t : Stream} (idle : ¬ t.ctx.state.converting = true) :
    placeStream v t = v := by
  have nothing : t.houseSample = ([], t) := if_neg idle
  unfold placeStream
  rw [nothing]
  split
  · ext1 k lt
    simp [placeLanes]
  · rfl

theorem State.NothingDue.idle {s : State} (h : s.NothingDue) (i : Fin 32) : ¬ s.streams[i].ctx.state.converting = true := by
  obtain ⟨track, locked, holdover⟩ := h.windows i
  rw [ContextState.converting_iff]
  exact fun st => st.elim track (·.elim locked holdover)

/-- In an idle part the conversion empties the slots and does nothing else. -/
theorem State.NothingDue.convertAll {s : State} (h : s.NothingDue) :
    s.convertAll.ageEntries = { s with slots := .replicate 128 0 } := by
  have streams : s.convertAll.streams = s.streams := by
    ext1 i lt
    have nothing : s.streams[i].houseSample = ([], s.streams[i]) := if_neg (h.idle ⟨i, lt⟩)
    simp [State.convertAll, nothing]
  have slots : s.convertAll.slots = .replicate 128 0 := by
    rw [State.convertAll_slots]
    refine foldl_same fun t member => ?_
    obtain ⟨i, -, rfl⟩ := List.mem_map.mp member
    exact placeStream_idle (h.idle i)
  have latencies : s.convertAll.ageEntries.latencies = s.latencies := by
    ext1 i lt
    have invalid : s.latencies[i].valid = false := (h.entries ⟨i, lt⟩).1
    simp [State.convertAll, State.ageEntries, LatencyEntry.older, invalid]
  show ({ s with
    streams := s.convertAll.streams, slots := s.convertAll.slots, latencies := s.convertAll.ageEntries.latencies } : State) = _
  rw [streams, slots, latencies]

theorem State.NothingDue.houseSample {s : State} (h : s.NothingDue) :
    s.houseSample = s.countedOn { s with slots := .replicate 128 0 } s.house.reference := by
  rw [h.undisturbed.houseSample, h.convertAll, forEach_id 16 State.programSample]
  refine fun p => if_neg ?_
  show ¬ s.programs[p].state.processing = true
  rw [(h.programs p).1]
  nofun

/-- Settles O15: what is due is settled first, and between events and in an idle part there is nothing to settle. -/
theorem quietHouseSample : Obligations.QuietHouseSample :=
  ⟨eventsSettledFirst, fun _ h => exec_quietSample h.houseSample,
    fun s h => ⟨_, State.slotsFilled s, exec_quietSample h.houseSample⟩⟩

end Sys2Proof.Machine
end

section
/-! The coefficient sets and what a lane converts to (R28). -/

namespace Sys2Proof.Machine

/-! ### A coefficient set as a list -/

/-- The coefficients that a set of rounded values is stored as, with `centre` taking the difference (R28). -/
def correctedSet (taps centre : Nat) (rounded : Nat → Int) : List Int := (List.range taps).map fun k =>
  if k = centre then rounded k + (8388608 - ((List.range taps).map rounded).sum) else rounded k

theorem romSet_eq (taps phase : Nat) :
    romSet taps phase = correctedSet taps (romCentre taps phase) (romRounded taps phase) := by
  unfold romSet correctedSet
  apply List.ext_getElem
  · simp
  · intro k _ _
    simp

/-- The difference is added at one place of the set, so that the set sums to 2²³. -/
theorem correctedSet_sum {taps centre : Nat} (rounded : Nat → Int) (lt : centre < taps) :
    (correctedSet taps centre rounded).sum = 8388608 := by
  have sums (f : Nat → Int) : ((List.range taps).map f).sum = ∑ k ∈ Finset.range taps, f k := rfl
  have split (k : Nat) : (if k = centre then rounded k + (8388608 - ((List.range taps).map rounded).sum) else rounded k) =
      rounded k + if k = centre then 8388608 - ((List.range taps).map rounded).sum else 0 := by
    split <;> simp
  rw [correctedSet, List.map_congr_left fun k _ => split k, sums, Finset.sum_add_distrib,
    Finset.sum_ite_eq' (Finset.range taps), if_pos (Finset.mem_range.mpr lt), ← sums]
  exact add_sub_cancel _ _

theorem romCentre_lt {taps : Nat} (pos : 2 ≤ taps) (phase : Nat) : romCentre taps phase < taps := by
  unfold romCentre
  split <;> omega

theorem romSet_length (taps phase : Nat) : (romSet taps phase).length = taps := by
  rw [romSet_eq, correctedSet, List.length_map, List.length_range]

theorem romSet_sum {taps : Nat} (pos : 2 ≤ taps) (phase : Nat) : (romSet taps phase).sum = 8388608 := by
  rw [romSet_eq, correctedSet_sum _ (romCentre_lt pos phase)]

/-! ### The conversion of a lane -/

theorem convertLane_eq (setA setB frames : List Int) (f : Nat) : convertLane setA setB f frames =
    BitVec.ofInt 24 (max (-8388608) (min 8388607
      ⌊(((1024 - (f : Int)) * weightedSum setA frames + f * weightedSum setB frames : Int) : ℚ) / 2 ^ 33 + 1 / 2⌋)) := by
  unfold convertLane interpolate saturate24 toSample
  generalize (1024 - (f : Int)) * weightedSum setA frames + f * weightedSum setB frames = total
  have floor := Rat.floor_intCast_div_natCast (total + 4294967296) 8589934592
  have halved : ((total + 4294967296 : Int) : ℚ) / (8589934592 : Nat) = (total : ℚ) / 2 ^ 33 + 1 / 2 := by
    push_cast
    ring
  rw [halved] at floor
  rw [Int.fdiv_eq_ediv_of_nonneg _ (by decide), clamp_eq _ _ _ (by decide), floor]
  rfl

/-- On frames of one value a set weighs them by its sum. -/
theorem weightedSum_replicate (set : List Int) (x : Int) :
    weightedSum set (List.replicate set.length x) = set.sum * x := by
  unfold weightedSum
  induction set with
  | nil => simp
  | cons c set ih => rw [List.length_cons, List.replicate_succ, List.zipWith_cons_cons, List.sum_cons, List.sum_cons, ih,
      add_mul]

/-- Two sets that sum to 2²³ give a constant lane its own value back. -/
theorem convertLane_constant {setA setB : List Int} {taps : Nat} (lengthA : setA.length = taps)
    (lengthB : setB.length = taps) (sumA : setA.sum = 8388608) (sumB : setB.sum = 8388608) (weight : Nat) (x : Sample) :
    convertLane setA setB weight (List.replicate taps x.toInt) = x := by
  have weighedA : weightedSum setA (List.replicate taps x.toInt) = 8388608 * x.toInt := by
    rw [← lengthA, weightedSum_replicate, sumA]
  have weighedB : weightedSum setB (List.replicate taps x.toInt) = 8388608 * x.toInt := by
    rw [← lengthB, weightedSum_replicate, sumB]
  have whole : ⌊(((1024 - (weight : Int)) * (8388608 * x.toInt) + weight * (8388608 * x.toInt) : Int) : ℚ) / 2 ^ 33 + 1 / 2⌋ =
      x.toInt := by
    have quotient : (((1024 - (weight : Int)) * (8388608 * x.toInt) + weight * (8388608 * x.toInt) : Int) : ℚ) / 2 ^ 33 =
        x.toInt := by
      push_cast
      ring
    rw [quotient, Int.floor_eq_iff]
    constructor <;> linarith
  have low : -8388608 ≤ x.toInt := BitVec.le_toInt x
  have high : x.toInt < 8388608 := BitVec.toInt_lt
  rw [convertLane_eq, weighedA, weighedB, whole, min_eq_right (by omega), max_eq_right low,
    BitVec.ofInt_toInt]

end Sys2Proof.Machine
end

section
/-! How close the ROM's fixed-point arithmetic comes to π, to the sine and to the cosine (R28; log 13). -/

namespace Sys2Proof.Machine

/-! ### Rounding on integers -/

theorem abs_fdiv_sub_le (n : Int) {d : Int} (pos : 0 < d) : |(n.fdiv d : ℝ) - n / d| ≤ 1 := by
  have dpos : (0 : ℝ) < d := Int.cast_pos.mpr pos
  have whole : (n : ℝ) = d * (n.fdiv d : ℝ) + (n.fmod d : ℝ) := by
    exact_mod_cast (Int.mul_fdiv_add_fmod n d).symm
  have low : (0 : ℝ) ≤ (n.fmod d : ℝ) := Int.cast_nonneg (Int.fmod_nonneg_of_pos n pos)
  have high : (n.fmod d : ℝ) < d := Int.cast_lt.mpr (Int.fmod_lt_of_pos n pos)
  have rest : (n.fdiv d : ℝ) - n / d = -((n.fmod d : ℝ) / d) := by
    field_simp
    linarith
  rw [rest, abs_neg, abs_of_nonneg (div_nonneg low dpos.le), div_le_one dpos]
  exact high.le

/-- The number 1 in fixed point. -/
noncomputable def fixedOne : ℝ := 2 ^ 160

theorem fixedOne_pos : 0 < fixedOne := by
  unfold fixedOne
  positivity

theorem cast_romBits : (((2 : Int) ^ romBits : Int) : ℝ) = fixedOne := by
  rw [Int.cast_pow]
  rfl

theorem abs_fixedMul_sub_le (x y : Int) : |(fixedMul x y : ℝ) - x * y / fixedOne| ≤ 1 := by
  have rounded := abs_fdiv_sub_le (x * y) (d := 2 ^ romBits) (by decide)
  rwa [cast_romBits, Int.cast_mul] at rounded

/-! ### The series -/

/-- Term `j` of the series of the cosine (`c = 0`) and of the sine (`c = 1`). -/
noncomputable def trigTerm (x : ℝ) (c j : Nat) : ℝ := (-1) ^ j * x ^ (2 * j + c) / (2 * j + c).factorial

theorem trigTerm_succ (x : ℝ) (c j : Nat) :
    trigTerm x c (j + 1) = -(trigTerm x c j * x ^ 2 / ((2 * j + (c + 1)) * (2 * j + (c + 1) + 1) : Nat)) := by
  have factorial : (2 * (j + 1) + c).factorial =
      (2 * j + (c + 1) + 1) * ((2 * j + (c + 1)) * (2 * j + c).factorial) := by
    rw [show 2 * (j + 1) + c = (2 * j + c + 1) + 1 by ring, Nat.factorial_succ, Nat.factorial_succ]
    ring
  have pos : ((2 * j + c).factorial : ℝ) ≠ 0 := Nat.cast_ne_zero.mpr (Nat.factorial_ne_zero _)
  unfold trigTerm
  rw [factorial, show 2 * (j + 1) + c = 2 * j + c + 2 by ring]
  push_cast
  have first : (2 * (j : ℝ) + (c + 1)) ≠ 0 := by positivity
  have second : (2 * (j : ℝ) + (c + 1) + 1) ≠ 0 := by positivity
  field_simp
  ring

/-- Term `j` as the ROM's arithmetic computes it. -/
def fixedTerm (square : Int) (a : Nat) (start : Int) : Nat → Int
  | 0 => start
  | j + 1 => Int.fdiv (fixedMul (-(fixedTerm square a start j)) square) (((2 * j + a) * (2 * j + a + 1) : Nat) : Int)

theorem trigSeries_eq_sum (square : Int) (a : Nat) (start : Int) (n j : Nat) :
    trigSeries square a n j (fixedTerm square a start j) = ∑ i ∈ Finset.range n, fixedTerm square a start (j + i) := by
  induction n generalizing j with
  | zero => rfl
  | succ n ih =>
    rw [trigSeries, Finset.sum_range_succ', add_comm (∑ i ∈ _, _)]
    refine congrArg₂ (· + ·) rfl ((ih (j + 1)).trans (Finset.sum_congr rfl fun i _ => ?_))
    rw [show j + 1 + i = j + (i + 1) by ring]

/-- A sequence that grows by a factor of at most 40 ÷ ((2j + 1)(2j + 2)) and a constant at each step stays bounded. -/
theorem bounded_of_step {f : Nat → ℝ} {b : ℝ} (start : 0 ≤ f 0) (b0 : 0 ≤ b)
    (step : ∀ j : Nat, f (j + 1) ≤ f j * (40 / ((2 * j + 1) * (2 * j + 2))) + b) (j : Nat) : f j ≤ 100 * f 0 + 7 * b := by
  have one := step 0
  have two := step 1
  have three := step 2
  norm_num at one two three
  match j with
  | 0 => linarith
  | 1 => linarith
  | 2 => linarith
  | j + 3 =>
    induction j with
    | zero =>
      show f 3 ≤ _
      linarith
    | succ j ih =>
      have ratio : 40 / ((2 * ((j + 3 : Nat) : ℝ) + 1) * (2 * ((j + 3 : Nat) : ℝ) + 2)) ≤ 5 / 7 := by
        rw [div_le_div_iff₀ (by positivity) (by norm_num)]
        push_cast
        nlinarith [Nat.cast_nonneg (α := ℝ) j]
      have grown := mul_le_mul_of_nonneg_right ih
        (show (0 : ℝ) ≤ 40 / ((2 * ((j + 3 : Nat) : ℝ) + 1) * (2 * ((j + 3 : Nat) : ℝ) + 2)) by positivity)
      have shrunk := mul_le_mul_of_nonneg_left ratio (show 0 ≤ 100 * f 0 + 7 * b by positivity)
      linarith [step (j + 3)]

/-- The growth factor of a term whose argument has at most the square 40. -/
theorem growth_le {square : ℝ} (turn : square ≤ 40) (c j : Nat) :
    square / ((2 * j + (c + 1)) * (2 * j + (c + 1) + 1) : Nat) ≤ 40 / ((2 * j + 1) * (2 * j + 2)) := by
  have more : ((2 * j + 1) * (2 * j + 2) : ℝ) ≤ ((2 * j + (c + 1)) * (2 * j + (c + 1) + 1) : Nat) := by
    have nat : (2 * j + 1) * (2 * j + 2) ≤ (2 * j + (c + 1)) * (2 * j + (c + 1) + 1) :=
      Nat.mul_le_mul (by omega) (by omega)
    exact_mod_cast nat
  exact div_le_div₀ (by norm_num) turn (by positivity) more

theorem abs_trigTerm_le {x : ℝ} (turn : x ^ 2 ≤ 40) {c : Nat} (hc : c ≤ 1) (j : Nat) : |trigTerm x c j| ≤ 700 := by
  have start : |trigTerm x c 0| ≤ 7 := by
    have small : |x| ≤ 7 := abs_le_of_sq_le_sq (by linarith) (by norm_num)
    interval_cases c <;> simp [trigTerm, small]
  have bound := bounded_of_step (f := fun j => |trigTerm x c j|) (b := 0) (abs_nonneg _) le_rfl (fun j => ?_) j
  · linarith
  · have grown := mul_le_mul_of_nonneg_left (growth_le turn c j) (abs_nonneg (trigTerm x c j))
    have positive : (0 : ℝ) ≤ x ^ 2 / ((2 * j + (c + 1)) * (2 * j + (c + 1) + 1) : Nat) := by positivity
    rw [trigTerm_succ, abs_neg, mul_div_assoc, abs_mul, abs_of_nonneg positive, add_zero]
    exact grown

/-! ### The error of the fixed-point series -/

/-- One step: the error grows with the term and takes the two roundings and that of the square. -/
theorem fixedTerm_step {t square d : Int} {τ s : ℝ} (d1 : 1 ≤ d) (rounded : |(square : ℝ) - fixedOne * s| ≤ 1)
    (bounded : |τ| ≤ 700) : |(Int.fdiv (fixedMul (-t) square) d : ℝ) - fixedOne * -(τ * s / d)| ≤
      |(t : ℝ) - fixedOne * τ| * (|(square : ℝ) / fixedOne| / d) + 702 := by
  have one := fixedOne_pos
  have dpos : (1 : ℝ) ≤ d := by exact_mod_cast d1
  have d0 : (d : ℝ) ≠ 0 := by linarith
  have quotient := abs_fdiv_sub_le (fixedMul (-t) square) (lt_of_lt_of_le one_pos d1 : 0 < d)
  have product : |((fixedMul (-t) square : ℝ) - -t * square / fixedOne) / d| ≤ 1 := by
    have scaled := abs_fixedMul_sub_le (-t) square
    rw [Int.cast_neg] at scaled
    rw [abs_div, abs_of_pos (by linarith : (0 : ℝ) < d), div_le_one (by linarith)]
    exact scaled.trans dpos
  have squared : |τ * ((square : ℝ) - fixedOne * s) / d| ≤ 700 := by
    rw [abs_div, abs_mul, abs_of_pos (by linarith : (0 : ℝ) < d), div_le_iff₀ (by linarith)]
    nlinarith [mul_le_mul bounded rounded (abs_nonneg _) (by norm_num)]
  have grown : |((t : ℝ) - fixedOne * τ) * ((square : ℝ) / fixedOne) / d| =
      |(t : ℝ) - fixedOne * τ| * (|(square : ℝ) / fixedOne| / d) := by
    rw [abs_div, abs_mul, abs_of_pos (by linarith : (0 : ℝ) < d), mul_div_assoc]
  have parts : (Int.fdiv (fixedMul (-t) square) d : ℝ) - fixedOne * -(τ * s / d) =
      ((Int.fdiv (fixedMul (-t) square) d : ℝ) - (fixedMul (-t) square : ℝ) / d) +
      ((fixedMul (-t) square : ℝ) - -t * square / fixedOne) / d -
      ((t : ℝ) - fixedOne * τ) * ((square : ℝ) / fixedOne) / d - τ * ((square : ℝ) - fixedOne * s) / d := by
    field_simp
    ring
  rw [parts, ← grown]
  have outer := abs_sub (((Int.fdiv (fixedMul (-t) square) d : ℝ) - (fixedMul (-t) square : ℝ) / d) +
      ((fixedMul (-t) square : ℝ) - -t * square / fixedOne) / d -
      ((t : ℝ) - fixedOne * τ) * ((square : ℝ) / fixedOne) / d) (τ * ((square : ℝ) - fixedOne * s) / d)
  have middle := abs_sub (((Int.fdiv (fixedMul (-t) square) d : ℝ) - (fixedMul (-t) square : ℝ) / d) +
      ((fixedMul (-t) square : ℝ) - -t * square / fixedOne) / d)
      (((t : ℝ) - fixedOne * τ) * ((square : ℝ) / fixedOne) / d)
  have inner := abs_add_le ((Int.fdiv (fixedMul (-t) square) d : ℝ) - (fixedMul (-t) square : ℝ) / d)
      (((fixedMul (-t) square : ℝ) - -t * square / fixedOne) / d)
  linarith

/-- Every computed term lies within 5000 units of the exact one, for an angle of at most a full turn. -/
theorem abs_fixedTerm_sub_le {start X : Int} {c : Nat} (hc : c ≤ 1) (turn : ((X : ℝ) / fixedOne) ^ 2 ≤ 39.9)
    (exactly : (start : ℝ) = fixedOne * trigTerm (X / fixedOne) c 0) (j : Nat) :
    |(fixedTerm (fixedMul X X) (c + 1) start j : ℝ) - fixedOne * trigTerm (X / fixedOne) c j| ≤ 5000 := by
  have one := fixedOne_pos
  have rounded : |(fixedMul X X : ℝ) - fixedOne * (X / fixedOne) ^ 2| ≤ 1 := by
    have scaled := abs_fixedMul_sub_le X X
    rwa [show (X : ℝ) * X / fixedOne = fixedOne * (X / fixedOne) ^ 2 by field_simp] at scaled
  have small : |(fixedMul X X : ℝ) / fixedOne| ≤ 40 := by
    have big : (100 : ℝ) ≤ fixedOne := by
      unfold fixedOne
      norm_num
    rw [abs_div, abs_of_pos one, div_le_iff₀ one]
    have bound := abs_sub_abs_le_abs_sub (fixedMul X X : ℝ) (fixedOne * (X / fixedOne) ^ 2)
    rw [abs_of_nonneg (mul_nonneg one.le (sq_nonneg _))] at bound
    nlinarith [mul_le_mul_of_nonneg_left turn one.le]
  have bound := bounded_of_step (b := 702)
    (f := fun j => |(fixedTerm (fixedMul X X) (c + 1) start j : ℝ) - fixedOne * trigTerm (X / fixedOne) c j|)
    (abs_nonneg _) (by norm_num) (fun j => ?_) j
  · have none : (fixedTerm (fixedMul X X) (c + 1) start 0 : ℝ) - fixedOne * trigTerm (X / fixedOne) c 0 = 0 :=
      sub_eq_zero.mpr exactly
    simp only [none, abs_zero] at bound
    linarith
  · have terms := fixedTerm_step (t := fixedTerm (fixedMul X X) (c + 1) start j)
      (d := ((2 * j + (c + 1)) * (2 * j + (c + 1) + 1) : Nat)) (by exact_mod_cast Nat.mul_pos (by omega) (by omega)) rounded
      (abs_trigTerm_le (turn.trans (by norm_num)) hc j)
    have grown := mul_le_mul_of_nonneg_left (growth_le small c j)
      (abs_nonneg ((fixedTerm (fixedMul X X) (c + 1) start j : ℝ) - fixedOne * trigTerm (X / fixedOne) c j))
    rw [Int.cast_natCast] at terms
    rw [trigTerm_succ]
    exact terms.trans (by linarith)

/-- Fifty computed terms lie within 250000 units of the exact ones. -/
theorem abs_trigSeries_sub_le {start X : Int} {c : Nat} (hc : c ≤ 1) (turn : ((X : ℝ) / fixedOne) ^ 2 ≤ 39.9)
    (exactly : (start : ℝ) = fixedOne * trigTerm (X / fixedOne) c 0) :
    |(trigSeries (fixedMul X X) (c + 1) 50 0 start : ℝ) -
      fixedOne * ∑ j ∈ Finset.range 50, trigTerm (X / fixedOne) c j| ≤ 250000 := by
  have series := trigSeries_eq_sum (fixedMul X X) (c + 1) start 50 0
  rw [fixedTerm] at series
  rw [series, Int.cast_sum, Finset.mul_sum, ← Finset.sum_sub_distrib]
  refine (Finset.abs_sum_le_sum_abs _ _).trans ?_
  refine (Finset.sum_le_card_nsmul _ _ 5000 fun j _ => ?_).trans ?_
  · rw [zero_add]
    exact abs_fixedTerm_sub_le hc turn exactly j
  · norm_num

/-! ### The series and the functions -/

/-- The even terms of the exponential series are those of the cosine, the odd ones those of the sine. -/
theorem exp_series_eq (x : ℝ) (n : Nat) : ∑ m ∈ Finset.range (2 * n), ((x : ℂ) * Complex.I) ^ m / m.factorial =
    (∑ j ∈ Finset.range n, trigTerm x 0 j : ℝ) + (∑ j ∈ Finset.range n, trigTerm x 1 j : ℝ) * Complex.I := by
  induction n with
  | zero => simp
  | succ n ih =>
    have even : ((x : ℂ) * Complex.I) ^ (2 * n) = ((-1) ^ n * x ^ (2 * n) : ℝ) := by
      rw [mul_pow, pow_mul Complex.I, Complex.I_sq]
      push_cast
      ring
    have odd : ((x : ℂ) * Complex.I) ^ (2 * n + 1) = ((-1) ^ n * x ^ (2 * n + 1) : ℝ) * Complex.I := by
      rw [pow_succ, even]
      push_cast
      ring
    rw [Nat.mul_succ, Finset.sum_range_succ, Finset.sum_range_succ, ih, Finset.sum_range_succ, Finset.sum_range_succ,
      even, odd]
    unfold trigTerm
    push_cast
    simp only [Nat.add_zero]
    ring

/-- What the series leaves out is below one unit. -/
theorem tail_le {x : ℝ} (small : |x| ≤ 7) :
    ‖Complex.exp (x * Complex.I) - ∑ m ∈ Finset.range 100, ((x : ℂ) * Complex.I) ^ m / m.factorial‖ ≤ 1 / fixedOne := by
  have norm : ‖(x : ℂ) * Complex.I‖ = |x| := by simp
  refine (Complex.exp_bound' ?_).trans ?_
  · rw [norm]
    norm_num
    linarith
  · rw [norm]
    have power := pow_le_pow_left₀ (abs_nonneg x) small 100
    have exactly : (7 : ℝ) ^ 100 / (Nat.factorial 100) * 2 ≤ 1 / fixedOne := by
      unfold fixedOne
      rw [div_mul_eq_mul_div, div_le_div_iff₀ (by positivity) (by positivity)]
      norm_num [Nat.factorial]
    refine le_trans ?_ exactly
    gcongr

/-- The two parts of what the exponential series leaves out. -/
theorem exp_sub_series_eq (x : ℝ) :
    Complex.exp (x * Complex.I) - ∑ m ∈ Finset.range 100, ((x : ℂ) * Complex.I) ^ m / m.factorial =
      ⟨Real.cos x - ∑ j ∈ Finset.range 50, trigTerm x 0 j, Real.sin x - ∑ j ∈ Finset.range 50, trigTerm x 1 j⟩ := by
  rw [exp_series_eq x 50, Complex.exp_mul_I, ← Complex.ofReal_cos, ← Complex.ofReal_sin, Complex.mk_eq_add_mul_I]
  push_cast
  ring

theorem abs_cos_sub_series_le {x : ℝ} (small : |x| ≤ 7) :
    |Real.cos x - ∑ j ∈ Finset.range 50, trigTerm x 0 j| ≤ 1 / fixedOne := by
  have tail := (Complex.abs_re_le_norm _).trans (tail_le small)
  rwa [exp_sub_series_eq] at tail

theorem abs_sin_sub_series_le {x : ℝ} (small : |x| ≤ 7) :
    |Real.sin x - ∑ j ∈ Finset.range 50, trigTerm x 1 j| ≤ 1 / fixedOne := by
  have tail := (Complex.abs_im_le_norm _).trans (tail_le small)
  rwa [exp_sub_series_eq] at tail

theorem abs_le_seven {x : ℝ} (turn : x ^ 2 ≤ 39.9) : |x| ≤ 7 := abs_le_of_sq_le_sq (by linarith) (by norm_num)

/-- A computed series as near to its function as its terms and its tail are. -/
theorem abs_series_sub_le {series sum value : ℝ} (terms : |series - fixedOne * sum| ≤ 250000)
    (tail : |value - sum| ≤ 1 / fixedOne) : |series / fixedOne - value| ≤ 250001 / fixedOne := by
  have one := fixedOne_pos
  have scaled : |series / fixedOne - sum| ≤ 250000 / fixedOne := by
    rw [show series / fixedOne - sum = (series - fixedOne * sum) / fixedOne by field_simp, abs_div, abs_of_pos one]
    gcongr
  calc |series / fixedOne - value| ≤ |series / fixedOne - sum| + |sum - value| := abs_sub_le _ _ _
    _ ≤ 250000 / fixedOne + 1 / fixedOne := add_le_add scaled (abs_sub_comm sum value ▸ tail)
    _ = 250001 / fixedOne := by ring

/-- The computed sine of an angle within a full turn. -/
theorem abs_fixedSin_sub_le {X : Int} (turn : ((X : ℝ) / fixedOne) ^ 2 ≤ 39.9) :
    |(trigSeries (fixedMul X X) 2 50 0 X : ℝ) / fixedOne - Real.sin (X / fixedOne)| ≤ 250001 / fixedOne := by
  have exactly : (X : ℝ) = fixedOne * trigTerm (X / fixedOne) 1 0 := by
    have one := fixedOne_pos
    simp [trigTerm]
    field_simp
  exact abs_series_sub_le (abs_trigSeries_sub_le (c := 1) le_rfl turn exactly) (abs_sin_sub_series_le (abs_le_seven turn))

/-- The computed cosine of an angle within a full turn. -/
theorem abs_fixedCos_sub_le {X : Int} (turn : ((X : ℝ) / fixedOne) ^ 2 ≤ 39.9) :
    |(trigSeries (fixedMul X X) 1 50 0 (2 ^ romBits) : ℝ) / fixedOne - Real.cos (X / fixedOne)| ≤ 250001 / fixedOne := by
  have exactly : (((2 : Int) ^ romBits : Int) : ℝ) = fixedOne * trigTerm (X / fixedOne) 0 0 := by
    rw [cast_romBits]
    simp [trigTerm]
  exact abs_series_sub_le (abs_trigSeries_sub_le (c := 0) zero_le_one turn exactly)
    (abs_cos_sub_series_le (abs_le_seven turn))

end Sys2Proof.Machine
end

section
/-! The ROM's π, its angles and its raw coefficients against those of R28 (log 13). -/

namespace Sys2Proof.Machine

/-! ### π -/

/-- The series gives the sine of the stored π as a few units. -/
theorem fixedSin_pi : (trigSeries (fixedMul piFixed piFixed) 2 50 0 piFixed).natAbs ≤ 100 := by
  decide +kernel

theorem piFixed_bounds : 3.14 ≤ (piFixed : ℝ) / fixedOne ∧ (piFixed : ℝ) / fixedOne ≤ 3.1416 := by
  unfold fixedOne piFixed
  constructor <;> norm_num

/-- The sine of a small angle is not smaller than the angle by more than a factor of 2, so that the sine of the stored π
says how near to π it lies. -/
theorem abs_piFixed_sub_le : |(piFixed : ℝ) / fixedOne - Real.pi| ≤ 600000 / fixedOne := by
  have one := fixedOne_pos
  obtain ⟨low, high⟩ := piFixed_bounds
  have turn : ((piFixed : ℝ) / fixedOne) ^ 2 ≤ 39.9 := by nlinarith
  have near := abs_fixedSin_sub_le turn
  have few : |(trigSeries (fixedMul piFixed piFixed) 2 50 0 piFixed : ℝ) / fixedOne| ≤ 100 / fixedOne := by
    have cast : |(trigSeries (fixedMul piFixed piFixed) 2 50 0 piFixed : ℝ)| ≤ 100 := by
      rw [← Int.cast_abs, Int.abs_eq_natAbs, Int.cast_natCast]
      exact_mod_cast fixedSin_pi
    rw [abs_div, abs_of_pos one]
    gcongr
  have sine : |Real.sin ((piFixed : ℝ) / fixedOne)| ≤ 250101 / fixedOne := by
    have sum := abs_sub_abs_le_abs_sub (Real.sin ((piFixed : ℝ) / fixedOne))
      ((trigSeries (fixedMul piFixed piFixed) 2 50 0 piFixed : ℝ) / fixedOne)
    rw [abs_sub_comm] at sum
    have total : (250001 : ℝ) / fixedOne + 100 / fixedOne = 250101 / fixedOne := by ring
    linarith
  have less := Real.pi_gt_d2
  have more := Real.pi_lt_d2
  have within : |Real.pi - (piFixed : ℝ) / fixedOne| ≤ Real.pi / 2 := by
    rw [abs_le]
    constructor <;> linarith
  have jordan := Real.mul_abs_le_abs_sin within
  rw [Real.sin_pi_sub] at jordan
  have half : 1 / 2 * |Real.pi - (piFixed : ℝ) / fixedOne| ≤ 2 / Real.pi * |Real.pi - (piFixed : ℝ) / fixedOne| := by
    refine mul_le_mul_of_nonneg_right ?_ (abs_nonneg _)
    rw [div_le_div_iff₀ (by norm_num) (by linarith)]
    linarith
  have twice : 2 * (250101 / fixedOne) ≤ 600000 / fixedOne := by
    rw [← mul_div_assoc]
    gcongr
    norm_num
  rw [abs_sub_comm]
  linarith

/-! ### The angles -/

/-- The angle that the ROM computes with, against π × m ÷ b for the remainder m of a full turn. -/
theorem angleFixed_near (a : Int) {b : Nat} (pos : 0 < b) :
    |(angleFixed a b : ℝ) / fixedOne - Real.pi * (a % (2 * (b : Int)) : Int) / b| ≤ 1200001 / fixedOne ∧
    ((angleFixed a b : ℝ) / fixedOne) ^ 2 ≤ 39.9 := by
  have one := fixedOne_pos
  have bpos : (0 : ℝ) < b := Nat.cast_pos.mpr pos
  obtain ⟨low, high⟩ := piFixed_bounds
  have below : (0 : ℝ) ≤ (a % (2 * (b : Int)) : Int) := Int.cast_nonneg (Int.emod_nonneg _ (by omega))
  have above : ((a % (2 * (b : Int)) : Int) : ℝ) < 2 * b := by
    exact_mod_cast Int.emod_lt_of_pos a (by omega : 0 < 2 * (b : Int))
  unfold angleFixed
  generalize a % (2 * (b : Int)) = m at *
  have share : (m : ℝ) / b ≤ 2 := by
    rw [div_le_iff₀ bpos]
    exact above.le
  have share0 : 0 ≤ (m : ℝ) / b := div_nonneg below bpos.le
  have rounded : |((Int.fdiv (piFixed * m) b : Int) : ℝ) / fixedOne - piFixed / fixedOne * (m / b)| ≤ 1 / fixedOne := by
    have unit := abs_fdiv_sub_le (piFixed * m) (Int.natCast_pos.mpr pos)
    rw [Int.cast_mul, Int.cast_natCast] at unit
    rw [show ((Int.fdiv (piFixed * m) b : Int) : ℝ) / fixedOne - piFixed / fixedOne * (m / b) =
      (((Int.fdiv (piFixed * m) b : Int) : ℝ) - piFixed * m / b) / fixedOne by ring, abs_div, abs_of_pos one]
    gcongr
  have moved : |(piFixed : ℝ) / fixedOne * (m / b) - Real.pi * (m / b)| ≤ 1200000 / fixedOne := by
    rw [← sub_mul, abs_mul, abs_of_nonneg share0]
    calc |(piFixed : ℝ) / fixedOne - Real.pi| * (m / b) ≤ 600000 / fixedOne * 2 :=
          mul_le_mul abs_piFixed_sub_le share share0 (by positivity)
      _ = 1200000 / fixedOne := by ring
  constructor
  · rw [mul_div_assoc]
    calc |((Int.fdiv (piFixed * m) b : Int) : ℝ) / fixedOne - Real.pi * (m / b)| ≤ 1 / fixedOne + 1200000 / fixedOne :=
          (abs_sub_le _ _ _).trans (add_le_add rounded moved)
      _ = 1200001 / fixedOne := by ring
  · have unit : 1 / fixedOne ≤ 0.001 := by
      unfold fixedOne
      norm_num
    have turn : (piFixed : ℝ) / fixedOne * (m / b) ≤ 3.1416 * 2 := mul_le_mul high share share0 (by norm_num)
    have turn0 : 0 ≤ (piFixed : ℝ) / fixedOne * (m / b) := mul_nonneg (by linarith) share0
    obtain ⟨least, most⟩ := abs_le.mp (rounded.trans unit)
    exact (sq_le_sq' (b := 6.2842) (by linarith) (by linarith)).trans (by norm_num)

/-- A full turn more or less is the same angle. -/
theorem turned_angle (a : Int) {b : Nat} (pos : 0 < b) : Real.pi * a / b =
    Real.pi * (a % (2 * (b : Int)) : Int) / b + (a / (2 * (b : Int)) : Int) * (2 * Real.pi) := by
  have bpos : (b : ℝ) ≠ 0 := Nat.cast_ne_zero.mpr (by omega)
  have whole : (a : ℝ) = 2 * b * (a / (2 * (b : Int)) : Int) + (a % (2 * (b : Int)) : Int) := by
    exact_mod_cast (Int.mul_ediv_add_emod a (2 * b)).symm
  field_simp
  linear_combination whole

theorem abs_sinPi_sub_le (a : Int) {b : Nat} (pos : 0 < b) :
    |(sinPi a b : ℝ) / fixedOne - Real.sin (Real.pi * a / b)| ≤ 1500000 / fixedOne := by
  have one := fixedOne_pos
  obtain ⟨near, turn⟩ := angleFixed_near a pos
  rw [turned_angle a pos, Real.sin_add_int_mul_two_pi]
  calc |(sinPi a b : ℝ) / fixedOne - Real.sin (Real.pi * (a % (2 * (b : Int)) : Int) / b)|
    _ ≤ 250001 / fixedOne + 1200001 / fixedOne := (abs_sub_le _ _ _).trans
        (add_le_add (abs_fixedSin_sub_le turn) ((Real.abs_sin_sub_sin_le _ _).trans near))
    _ ≤ 1500000 / fixedOne := by
      rw [← add_div]
      gcongr
      norm_num

theorem abs_cosPi_sub_le (a : Int) {b : Nat} (pos : 0 < b) :
    |(cosPi a b : ℝ) / fixedOne - Real.cos (Real.pi * a / b)| ≤ 1500000 / fixedOne := by
  have one := fixedOne_pos
  obtain ⟨near, turn⟩ := angleFixed_near a pos
  rw [turned_angle a pos, Real.cos_add_int_mul_two_pi]
  calc |(cosPi a b : ℝ) / fixedOne - Real.cos (Real.pi * (a % (2 * (b : Int)) : Int) / b)|
    _ ≤ 250001 / fixedOne + 1200001 / fixedOne := (abs_sub_le _ _ _).trans
        (add_le_add (abs_fixedCos_sub_le turn) ((Real.abs_cos_sub_cos_le _ _).trans near))
    _ ≤ 1500000 / fixedOne := by
      rw [← add_div]
      gcongr
      norm_num

end Sys2Proof.Machine
end

section
/-! The coefficient ROM by its formula, and the conversion of a lane (R28; log 13). -/

namespace Sys2Proof.Machine

/-! ### The raw coefficients -/

/-- The quotient of R28 at the distance `t`. -/
noncomputable def rawQuotient (t : ℝ) : ℝ := if t = 0 then 0.9 else Real.sin (0.9 * Real.pi * t) / (Real.pi * t)

/-- The window of R28 at the distance `t`, of `half` frames on each side. -/
noncomputable def rawShape (half : Nat) (t : ℝ) : ℝ :=
  0.42 + 0.5 * Real.cos (Real.pi * t / half) + 0.08 * Real.cos (2 * (Real.pi * t / half))

/-- The quotient as the ROM computes it, at the distance n ÷ 64. -/
def fixedQuotient (n : Int) : Rat :=
  if n = 0 then 9 / 10 else (sinPi (9 * n) 640 * 64 : Int) / ((piFixed * n : Int) : Rat)

theorem abs_rawQuotient_le (t : ℝ) : |rawQuotient t| ≤ 1 := by
  unfold rawQuotient
  split
  · norm_num
  · next apart =>
    have nonzero : 0 < |Real.pi * t| := abs_pos.mpr (mul_ne_zero Real.pi_ne_zero apart)
    have sine : |Real.sin (0.9 * Real.pi * t)| ≤ 0.9 * |Real.pi * t| := by
      refine Real.abs_sin_le_abs.trans_eq ?_
      rw [mul_assoc, abs_mul]
      norm_num
    rw [abs_div, div_le_one nonzero]
    linarith

/-- A quotient of a near numerator by a near multiple of the distance is a near quotient. -/
theorem abs_div_sub_le {s s' p t η : ℝ} (sine : |s - s'| ≤ η) (unit : |s'| ≤ 1) (circle : |p - Real.pi| ≤ η)
    (low : 3 ≤ p) (far : 1 / 64 ≤ |t|) : |s / (p * t) - s' / (Real.pi * t)| ≤ 50 * η := by
  have pi3 := Real.pi_gt_three
  have pi4 := Real.pi_lt_four
  have apart : t ≠ 0 := abs_pos.mp (lt_of_lt_of_le (by norm_num) far)
  have p0 : p ≠ 0 := by linarith
  have cross : s / (p * t) - s' / (Real.pi * t) = ((s - s') * Real.pi - s' * (p - Real.pi)) / (p * Real.pi * t) := by
    have pi0 := Real.pi_ne_zero
    field_simp
    ring
  have above : |(s - s') * Real.pi - s' * (p - Real.pi)| ≤ 5 * η := by
    have first : |(s - s') * Real.pi| ≤ η * 4 := by
      rw [abs_mul, abs_of_pos Real.pi_pos]
      exact mul_le_mul sine pi4.le Real.pi_pos.le ((abs_nonneg _).trans sine)
    have second : |s' * (p - Real.pi)| ≤ 1 * η := by
      rw [abs_mul]
      exact mul_le_mul unit circle (abs_nonneg _) zero_le_one
    linarith [abs_sub ((s - s') * Real.pi) (s' * (p - Real.pi))]
  have below : 9 / 64 ≤ |p * Real.pi * t| := by
    have product : 9 ≤ p * Real.pi := by nlinarith
    rw [abs_mul, abs_of_pos (by linarith : 0 < p * Real.pi)]
    nlinarith
  rw [cross, abs_div, div_le_iff₀ (by linarith)]
  nlinarith [abs_nonneg (s - s')]

theorem abs_fixedQuotient_sub_le (n : Int) :
    |(fixedQuotient n : ℝ) - rawQuotient (n / 64)| ≤ 50 * (1500000 / fixedOne) := by
  have one := fixedOne_pos
  unfold fixedQuotient rawQuotient
  by_cases zero : n = 0
  · subst zero
    have bound : 0 ≤ 1500000 / fixedOne := by positivity
    norm_num
    exact bound
  · have apart : (n : ℝ) / 64 ≠ 0 := div_ne_zero (Int.cast_ne_zero.mpr zero) (by norm_num)
    have units : (1 : ℝ) ≤ |(n : ℝ)| := by exact_mod_cast Int.one_le_abs zero
    have far : 1 / 64 ≤ |(n : ℝ) / 64| := by
      rw [abs_div, abs_of_pos (by norm_num : (0 : ℝ) < 64)]
      gcongr
    have angle : Real.pi * ((9 * n : Int) : ℝ) / (640 : Nat) = 0.9 * Real.pi * (n / 64) := by
      push_cast
      ring
    have computed : (((sinPi (9 * n) 640 * 64 : Int) / ((piFixed * n : Int) : Rat) : Rat) : ℝ) =
        (sinPi (9 * n) 640 : ℝ) / fixedOne / ((piFixed : ℝ) / fixedOne * (n / 64)) := by
      push_cast
      field_simp
    have circle : |(piFixed : ℝ) / fixedOne - Real.pi| ≤ 1500000 / fixedOne := by
      refine abs_piFixed_sub_le.trans ?_
      gcongr
      norm_num
    rw [if_neg zero, if_neg apart, computed]
    exact abs_div_sub_le (angle ▸ abs_sinPi_sub_le (9 * n) (b := 640) (by norm_num)) (Real.abs_sin_le_one _) circle
      (by linarith [piFixed_bounds.1]) far

/-- The window as the ROM computes it, at the distance n ÷ 64. -/
def fixedShape (half : Nat) (n : Int) : Rat :=
  42 / 100 + 1 / 2 * ((cosPi n (64 * half) : Int) / (((2 : Int) ^ romBits : Int) : Rat)) +
    8 / 100 * ((cosPi (2 * n) (64 * half) : Int) / (((2 : Int) ^ romBits : Int) : Rat))

theorem romRaw_eq (taps : Nat) (n : Int) :
    romRaw taps n = (2 ^ 23 : Rat) * fixedQuotient n * fixedShape (taps / 2 + 1) n := rfl

theorem abs_fixedShape_sub_le {half : Nat} (pos : 0 < half) (n : Int) :
    |(fixedShape half n : ℝ) - rawShape half (n / 64)| ≤ 1500000 / fixedOne := by
  have one := fixedOne_pos
  have near := abs_cosPi_sub_le n (b := 64 * half) (by omega)
  have twice := abs_cosPi_sub_le (2 * n) (b := 64 * half) (by omega)
  have angle : Real.pi * (n : ℝ) / (64 * half : Nat) = Real.pi * (n / 64) / half := by
    push_cast
    ring
  have angle2 : Real.pi * ((2 * n : Int) : ℝ) / (64 * half : Nat) = 2 * (Real.pi * (n / 64) / half) := by
    push_cast
    ring
  have computed : (fixedShape half n : ℝ) =
      0.42 + 0.5 * ((cosPi n (64 * half) : ℝ) / fixedOne) + 0.08 * ((cosPi (2 * n) (64 * half) : ℝ) / fixedOne) := by
    rw [← cast_romBits, fixedShape]
    push_cast
    norm_num
  have bound : 0 ≤ 1500000 / fixedOne := by positivity
  rw [angle] at near
  rw [angle2] at twice
  rw [computed, rawShape]
  rw [abs_le] at near twice ⊢
  constructor <;> linarith

theorem abs_rawShape_le (half : Nat) (t : ℝ) : |rawShape half t| ≤ 1 := by
  obtain ⟨low, high⟩ := abs_le.mp (Real.abs_cos_le_one (Real.pi * t / half))
  obtain ⟨low2, high2⟩ := abs_le.mp (Real.abs_cos_le_one (2 * (Real.pi * t / half)))
  rw [rawShape, abs_le]
  constructor <;> linarith

theorem abs_mul_sub_mul_le {q q' h h' η : ℝ} (near : |q - q'| ≤ 50 * η) (unit : |q'| ≤ 1) (shape : |h - h'| ≤ η)
    (shape1 : |h'| ≤ 1) (small : η ≤ 1) : |q * h - q' * h'| ≤ 101 * η := by
  have bounded : |h| ≤ 2 := by linarith [abs_sub_abs_le_abs_sub h h']
  have first : |(q - q') * h| ≤ 50 * η * 2 := by
    rw [abs_mul]
    exact mul_le_mul near bounded (abs_nonneg _) ((abs_nonneg _).trans near)
  have second : |q' * (h - h')| ≤ 1 * η := by
    rw [abs_mul]
    exact mul_le_mul unit shape (abs_nonneg _) zero_le_one
  calc |q * h - q' * h'| = |(q - q') * h + q' * (h - h')| := by ring_nf
    _ ≤ 50 * η * 2 + 1 * η := (abs_add_le _ _).trans (add_le_add first second)
    _ = 101 * η := by ring

/-- The ROM's raw coefficients follow those of R28 to a distance of 10⁻³⁰ (log 13). -/
theorem abs_romRaw_sub_le (taps : Nat) (n : Int) :
    |(romRaw taps n : ℝ) - 2 ^ 23 * rawQuotient (n / 64) * rawShape (taps / 2 + 1) (n / 64)| ≤ 1 / 10 ^ 30 := by
  have small : 1500000 / fixedOne ≤ 1 / 10 ^ 40 := by
    unfold fixedOne
    norm_num
  have product := abs_mul_sub_mul_le (abs_fixedQuotient_sub_le n) (abs_rawQuotient_le (n / 64))
    (abs_fixedShape_sub_le (Nat.succ_pos (taps / 2)) n) (abs_rawShape_le (taps / 2 + 1) (n / 64))
    (small.trans (by norm_num))
  have scaled := mul_le_mul_of_nonneg_left product (by norm_num : (0 : ℝ) ≤ 2 ^ 23)
  have total : (2 : ℝ) ^ 23 * (101 * (1500000 / fixedOne)) ≤ 1 / 10 ^ 30 := by linarith
  have split : (romRaw taps n : ℝ) - 2 ^ 23 * rawQuotient (n / 64) * rawShape (taps / 2 + 1) (n / 64) =
      2 ^ 23 * (fixedQuotient n * fixedShape (taps / 2 + 1) n - rawQuotient (n / 64) * rawShape (taps / 2 + 1) (n / 64)) := by
    rw [romRaw_eq]
    push_cast
    ring
  rw [split, abs_mul, abs_of_nonneg (by norm_num : (0 : ℝ) ≤ 2 ^ 23)]
  exact scaled.trans total

/-! ### The rounding and the set -/

theorem abs_roundHalfAway_sub_le (q : Rat) : |(roundHalfAway q : ℚ) - q| ≤ 1 / 2 := by
  unfold roundHalfAway
  rw [abs_le]
  split
  · have low : ((-q + 1 / 2).floor : ℚ) ≤ -q + 1 / 2 := Int.floor_le _
    have high : -q + 1 / 2 < ((-q + 1 / 2).floor : ℚ) + 1 := Int.lt_floor_add_one _
    push_cast
    constructor <;> linarith
  · have low : ((q + 1 / 2).floor : ℚ) ≤ q + 1 / 2 := Int.floor_le _
    have high : q + 1 / 2 < ((q + 1 / 2).floor : ℚ) + 1 := Int.lt_floor_add_one _
    constructor <;> linarith

/-- A rounded coefficient is the integer nearest to the raw value of R28 at its distance. -/
theorem abs_romRounded_sub_le (taps phase k : Nat) {t : ℝ} (distance : t = (k : ℝ) - (taps / 2 : Nat) + 1 - (phase : ℝ) / 64) :
    |(romRounded taps phase k : ℝ) - 2 ^ 23 * rawQuotient t * rawShape (taps / 2 + 1) t| ≤ 1 / 2 + 1 / 10 ^ 30 := by
  have at64 : (((64 * ((k : Int) - (taps / 2 : Nat) + 1) - (phase : Int) : Int) : ℝ)) / 64 = t := by
    rw [distance]
    generalize taps / 2 = half
    push_cast
    ring
  have raw := abs_romRaw_sub_le taps (64 * ((k : Int) - (taps / 2 : Nat) + 1) - (phase : Int))
  have rounded : |(romRounded taps phase k : ℝ) - (romRaw taps (64 * ((k : Int) - (taps / 2 : Nat) + 1) - (phase : Int)) : ℝ)|
      ≤ 1 / 2 := by
    have cast := Rat.cast_le (K := ℝ).mpr (abs_roundHalfAway_sub_le
      (romRaw taps (64 * ((k : Int) - (taps / 2 : Nat) + 1) - (phase : Int))))
    push_cast at cast
    unfold romRounded
    push_cast
    exact cast
  rw [at64] at raw
  exact (abs_sub_le _ _ _).trans (add_le_add rounded raw)

theorem romFilled : RomFilled := by
  intro taps _ phase _
  refine ⟨romRounded taps phase, fun k _ => ?_, romSet_eq taps phase⟩
  intro t angle quotient raw
  have near := abs_romRounded_sub_le taps phase k (t := t) rfl
  rw [rawShape, Nat.cast_succ] at near
  exact near

/-- Settles O11: the ROM follows its formula, every set sums to 2²³, and two such sets give a constant lane back. -/
theorem constantLaneConvertsToItself : Obligations.ConstantLaneConvertsToItself := by
  have two {taps : Nat} (held : taps ∈ [16, 32, 64]) : 2 ≤ taps := by
    simp only [List.mem_cons, List.not_mem_nil, or_false] at held
    omega
  refine ⟨romFilled, convertLane_eq, fun taps held phase _ => ⟨romSet_length taps phase, romSet_sum (two held) phase⟩,
    fun taps held phase _ weight _ x => ?_⟩
  exact convertLane_constant (romSet_length taps phase) (romSet_length taps (phase + 1)) (romSet_sum (two held) phase)
    (romSet_sum (two held) (phase + 1)) weight x

end Sys2Proof.Machine
end

section
/-! A program is FREE exactly under an entry that is not valid, and its fallback follows its votes and that entry (R47, R54). -/

namespace Sys2Proof.Machine

/-! ### What the two rules say of one program -/

/-- A program stands as its active entry `e` and its votes give it: FREE or not (R47), and fallback in use or not (R54). -/
structure Program.Follows (e : ProgramEntry) (g : Program) : Prop where
  free : g.state = .free ↔ e.valid = false
  fallback : g.fallbackInUse = true ↔ 0 < g.votes.fallback ∧ e.fallback ≠ none

theorem State.followsEntries_iff (s : State) : s.FollowsEntries ↔ ∀ p : Fin 16, s.programs[p].Follows (s.activeEntry p) :=
  ⟨fun h p => ⟨h.free p, h.fallback p⟩, fun h => ⟨fun p => (h p).free, fun p => (h p).fallback⟩⟩

/-- `g'` is FREE where `g` is, with the same votes and the same fallback in use. -/
structure Program.StandsAs (g g' : Program) : Prop where
  free : g'.state = .free ↔ g.state = .free
  votes : g'.votes = g.votes
  fallback : g'.fallbackInUse = g.fallbackInUse

theorem Program.StandsAs.refl (g : Program) : g.StandsAs g := ⟨.rfl, rfl, rfl⟩

theorem Program.StandsAs.trans {a b c : Program} (h : a.StandsAs b) (k : b.StandsAs c) : a.StandsAs c :=
  ⟨k.free.trans h.free, k.votes.trans h.votes, k.fallback.trans h.fallback⟩

theorem Program.StandsAs.follows {g g' : Program} {e : ProgramEntry} (h : g.StandsAs g') (follows : g.Follows e) :
    g'.Follows e :=
  ⟨h.free.trans follows.free, by rw [h.fallback, h.votes]; exact follows.fallback⟩

theorem Program.Moved.standsAs {g g' : Program} (h : g.Moved g') : g.StandsAs g' := by
  obtain ⟨state, -, fallback, -, -, votes, -⟩ := h.keeps
  exact ⟨by rw [state], votes, fallback⟩

/-! ### Which acts leave every program standing as it did -/

/-- `t` has the banks of `s`, and every program of `t` stands as it does in `s`. -/
structure State.StandsAs (s t : State) : Prop where
  bankA : t.bankA = s.bankA
  bankB : t.bankB = s.bankB
  active : t.activeBank = s.activeBank
  programs : ∀ p : Fin 16, s.programs[p].StandsAs t.programs[p]

/-- An act that touches neither the programs nor the banks. -/
theorem State.standsAs_elsewhere {s t : State} (bankA : t.bankA = s.bankA) (bankB : t.bankB = s.bankB)
    (active : t.activeBank = s.activeBank) (programs : t.programs = s.programs) : s.StandsAs t :=
  ⟨bankA, bankB, active, fun p => by rw [programs]; exact .refl _⟩

theorem State.StandsAs.refl (s : State) : s.StandsAs s := State.standsAs_elsewhere rfl rfl rfl rfl

theorem State.StandsAs.trans {s t u : State} (h : s.StandsAs t) (k : t.StandsAs u) : s.StandsAs u :=
  ⟨k.bankA.trans h.bankA, k.bankB.trans h.bankB, k.active.trans h.active, fun p => (h.programs p).trans (k.programs p)⟩

/-- The active entry of a program is read from the banks alone. -/
theorem State.activeEntry_congr {s t : State} (bankA : t.bankA = s.bankA) (bankB : t.bankB = s.bankB)
    (active : t.activeBank = s.activeBank) (p : Fin 16) : t.activeEntry p = s.activeEntry p := by
  unfold State.activeEntry State.bank
  rw [bankA, bankB, active]

theorem State.FollowsEntries.of_stands {s t : State} (h : s.FollowsEntries) (same : s.StandsAs t) : t.FollowsEntries := by
  rw [State.followsEntries_iff] at h ⊢
  intro p
  rw [State.activeEntry_congr same.bankA same.bankB same.active]
  exact (same.programs p).follows (h p)

theorem State.standsAs_forEach (n : Nat) (f : Fin n → State → State) (s : State)
    (h : ∀ (i : Fin n) (t : State), t.StandsAs (f i t)) : s.StandsAs (forEach n f s) :=
  forEach_induct (P := s.StandsAs) n f s (.refl s) fun i t k => k.trans (h i t)

/-- An act that replaces one program, and otherwise touches neither the programs nor the banks. -/
theorem State.standsAs_replaced {s t : State} (p : Fin 16) {g : Program} (bankA : t.bankA = s.bankA)
    (bankB : t.bankB = s.bankB) (active : t.activeBank = s.activeBank)
    (programs : t.programs = (s.putProgram p g).programs) (h : s.programs[p].StandsAs g) : s.StandsAs t := by
  refine ⟨bankA, bankB, active, fun q => ?_⟩
  rw [programs, State.putProgram_get]
  split
  · next same => rw [same]; exact h
  · exact .refl _

theorem State.standsAs_putProgram (s : State) (p : Fin 16) {g : Program} (h : s.programs[p].StandsAs g) :
    s.StandsAs (s.putProgram p g) :=
  State.standsAs_replaced p rfl rfl rfl rfl h

theorem State.standsAs_modifyProgram (s : State) (p : Fin 16) {f : Program → Program} (h : ∀ g : Program, g.StandsAs (f g)) :
    s.StandsAs (s.modifyProgram p f) :=
  s.standsAs_putProgram p (h _)

theorem State.standsAs_moved (s : State) (p : Fin 16) {f : Program → Program} (h : ∀ g : Program, g.Moved (f g)) :
    s.StandsAs (s.modifyProgram p f) :=
  s.standsAs_modifyProgram p fun g => (h g).standsAs

theorem State.standsAs_recompute (p : Fin 16) (s : State) : s.StandsAs (s.recompute p) := by
  obtain ⟨g, c, put, moved⟩ := s.recompute_spec p
  rw [put]
  exact s.standsAs_putProgram p (.trans (b := { s.programs[p] with
    lip := s.alignment p s.programs[p].lip, changed := s.programs[p].changed || c }) ⟨.rfl, rfl, rfl⟩ moved.standsAs)

theorem State.standsAs_recomputeNaming (i : Fin 64) (s : State) : s.StandsAs (s.recomputeNaming i) := by
  refine State.standsAs_forEach 16 _ s fun p t => ?_
  split
  · exact t.standsAs_recompute p
  · exact .refl t

theorem State.standsAs_releaseBlocks (p : Fin 16) (s : State) : s.StandsAs (s.releaseBlocks p) :=
  State.standsAs_replaced p rfl rfl rfl rfl ⟨.rfl, rfl, rfl⟩

theorem State.standsAs_latencyReport (reporter : BitVec 32) (micros : Nat) (s : State) :
    s.StandsAs (s.latencyReport reporter micros) := by
  have entry (i : Fin 64) (f : LatencyEntry → LatencyEntry) : s.StandsAs (s.modifyLatency i f) :=
    State.standsAs_elsewhere rfl rfl rfl rfl
  have flag : s.StandsAs s.flagUnknownReporter := State.standsAs_elsewhere rfl rfl rfl rfl
  unfold State.latencyReport
  split
  · dsimp only
    split
    · exact entry _ _
    · exact (entry _ _).trans (State.standsAs_recomputeNaming _ _)
  · split
    · split
      · exact (entry _ _).trans (State.standsAs_recomputeNaming _ _)
      · exact flag
    · exact flag

theorem State.standsAs_passIf (switch : Bool) (frame : List Byte) (s : State) : s.StandsAs (s.passIf switch frame) := by
  unfold State.passIf
  split
  · rw [State.offerPass_rest]
    exact State.standsAs_elsewhere rfl rfl rfl rfl
  · exact .refl s

theorem State.standsAs_receive (frame : List Byte) (s : State) : s.StandsAs (s.receive frame) := by
  unfold State.receive
  split
  · refine .trans ?_ (State.standsAs_passIf _ _ _)
    rw [State.offerOrder_rest]
    exact State.standsAs_elsewhere rfl rfl rfl rfl
  · exact State.standsAs_elsewhere rfl rfl rfl rfl
  · rw [State.offerPass_rest]
    exact State.standsAs_elsewhere rfl rfl rfl rfl
  · exact (State.standsAs_latencyReport _ _ s).trans (State.standsAs_passIf _ _ _)
  · exact State.standsAs_elsewhere rfl rfl rfl rfl
  · exact State.standsAs_passIf _ _ s
  · exact State.standsAs_passIf _ _ s

theorem State.standsAs_meterUpdate (p : Fin 16) (s : State) : s.StandsAs (s.meterUpdate p) := by
  unfold State.meterUpdate
  split
  · exact .refl s
  · next processedIn _ =>
    split
    · refine .trans (.trans (t := s.modifyProgram p (·.update (s.activeEntry p) processedIn)) ?_ ?_)
        (State.standsAs_moved _ p Program.quietMove_moved)
      · refine s.standsAs_modifyProgram p fun g => ?_
        rw [Program.update_rest]
        exact ⟨.rfl, rfl, rfl⟩
      · obtain ⟨l, c, reports, flags, put⟩ :=
          State.reportLatency_put p (s.modifyProgram p (·.update (s.activeEntry p) processedIn))
        rw [put]
        exact State.standsAs_replaced p rfl rfl rfl rfl ⟨.rfl, rfl, rfl⟩
    · exact .refl s

theorem State.standsAs_completeDeferred (mine : Order → Bool) (s : State) : s.StandsAs (s.completeDeferred mine) := by
  rcases s.completeDeferred_spec mine with e | ⟨_, _, _, _, _, e⟩ <;> rw [e]
  · exact .refl s
  · exact State.standsAs_elsewhere rfl rfl rfl rfl

/-- A program that ends STOPPING was not FREE and does not become FREE (R51). -/
theorem State.standsAs_packetComplete (p : Fin 16) (s : State) : s.StandsAs (s.packetComplete p) := by
  unfold State.packetComplete
  split
  · have built (frame : List Byte) (g : Program) : g.StandsAs
        ((g.queueMedia frame).withEgress fun x => { x with progress := [], sequence := x.sequence + 1 }) := by
      unfold Program.queueMedia
      split <;> exact ⟨.rfl, rfl, rfl⟩
    have ended (t : State) (taken : t.programs[p].state ≠ .free) : t.StandsAs (t.modifyProgram p (·.endStopping)) :=
      t.standsAs_putProgram p ⟨iff_of_false nofun taken, rfl, rfl⟩
    dsimp only
    split
    · next stopping =>
      refine .trans (.trans (s.standsAs_modifyProgram p (built _)) (ended _ ?_)) (State.standsAs_completeDeferred _ _)
      rw [State.modifyProgram_self, Ne, (built _ _).free, stopping.1]
      nofun
    · exact s.standsAs_modifyProgram p (built _)
  · exact .refl s

theorem State.standsAs_egressChoice (s : State) : s.StandsAs s.egressChoice := by
  unfold State.egressChoice
  split
  · split
    · next t e =>
      unfold State.chooseMedia at e
      split at e <;> cases e
      exact State.standsAs_replaced _ rfl rfl rfl rfl ⟨.rfl, rfl, rfl⟩
    · cases e : s.chooseOther with
      | none => exact .refl s
      | some t =>
        obtain ⟨c, -, e⟩ := List.exists_of_findSome?_eq_some e
        obtain ⟨⟨f, u⟩, head, rfl⟩ := Option.map_eq_some_iff.mp e
        unfold State.takeHead at head
        split at head <;> split at head <;> cases head <;> exact State.standsAs_elsewhere rfl rfl rfl rfl
  · exact .refl s

theorem State.standsAs_frameEnd (s : State) : s.StandsAs s.frameEnd := by
  unfold State.frameEnd
  split
  · split
    · exact State.standsAs_elsewhere rfl rfl rfl rfl
    · exact .refl s
  · exact .refl s

theorem Program.fillingToRunning_standsAs (g : Program) : g.StandsAs g.fillingToRunning := by
  unfold Program.fillingToRunning
  split
  · next filling => exact ⟨iff_of_false nofun (by rw [filling.1]; nofun), rfl, rfl⟩
  · exact .refl g

theorem Program.markSubBlock_standsAs (g : Program) : g.StandsAs g.markSubBlock := by
  unfold Program.markSubBlock
  split
  · exact ⟨.rfl, rfl, rfl⟩
  · exact .refl g

theorem Program.withMeter_standsAs (g : Program) (f : Meter → Meter) : g.StandsAs (g.withMeter f) := ⟨.rfl, rfl, rfl⟩

theorem Program.outputStage_standsAs (g : Program) (e : ProgramEntry) (count : BitVec 48) (ys : List Sample) :
    g.StandsAs (g.outputStage e count ys) := ⟨.rfl, rfl, rfl⟩

theorem Program.advanceIndices_standsAs (g : Program) : g.StandsAs g.advanceIndices := ⟨.rfl, rfl, rfl⟩

/-- A house sample takes a program from FILLING to RUNNING at most (R50). -/
theorem State.standsAs_programSample (p : Fin 16) (s : State) : s.StandsAs (s.programSample p) := by
  have advanced (g : Program) (e : ProgramEntry) (ys : List Sample) : g.StandsAs
      (g.outputStage e s.house.count ys).advanceIndices.takeUpGain.markSubBlock :=
    ((g.outputStage_standsAs e _ ys).trans (Program.advanceIndices_standsAs _)).trans
      ((Program.takeUpGain_moved _).standsAs.trans (Program.markSubBlock_standsAs _))
  have fed (g : Program) (xs : List Sample) : g.StandsAs (if g.state.fed then g.withMeter (·.feed xs) else g) := by
    split
    · exact g.withMeter_standsAs _
    · exact .refl g
  unfold State.programSample
  split
  · exact State.standsAs_replaced p rfl rfl rfl rfl
      ((s.programs[p].fillingToRunning_standsAs.trans (fed _ _)).trans (advanced _ _ _))
  · exact .refl s

theorem State.standsAs_stopProgram (p : Fin 16) (s : State) : s.StandsAs (s.stopProgram p).2 := by
  have stopped (taken : s.programs[p].state ≠ .free) : s.StandsAs (s.modifyProgram p fun g =>
      ((g.enter .stopping).withCorr fun c => { c with stop := 0 }).endMoveAtStop) :=
    s.standsAs_putProgram p (.trans (b := (s.programs[p].enter .stopping).withCorr fun c => { c with stop := 0 })
      ⟨iff_of_false nofun taken, rfl, rfl⟩ (Program.endMoveAtStop_moved _).standsAs)
  unfold State.stopProgram
  split
  · next state => exact stopped (by rw [state]; nofun)
  · next state => exact stopped (by rw [state]; nofun)
  all_goals exact .refl s

theorem State.standsAs_allocateDelay (p : Fin 16) (request : Nat) (s : State) :
    s.StandsAs (s.allocateDelay p request).2.2 := by
  unfold State.allocateDelay
  split
  · exact .refl s
  · split
    · exact .refl s
    · dsimp only
      split
      · exact .refl s
      · unfold State.allocate
        refine .trans (s.standsAs_releaseBlocks p) (.trans ?_ (State.standsAs_recompute p _))
        exact State.standsAs_replaced p rfl rfl rfl rfl ⟨.rfl, rfl, rfl⟩

theorem State.standsAs_releaseDelay (p : Fin 16) (s : State) : s.StandsAs (s.releaseDelay p).2 := by
  unfold State.releaseDelay
  split
  · exact .refl s
  · exact (s.standsAs_releaseBlocks p).trans (State.standsAs_recompute p _)

theorem State.standsAs_afterReading (table : Table) (i : Nat) (s : State) : s.StandsAs (s.afterReading table i) := by
  refine .trans (t := s.readEffect table i) ?_ (State.standsAs_elsewhere rfl rfl rfl rfl)
  unfold State.readEffect
  cases table with
  | programStatus => exact s.standsAs_modifyProgram _ fun _ => ⟨.rfl, rfl, rfl⟩
  | _ => exact State.standsAs_elsewhere rfl rfl rfl rfl

theorem State.standsAs_storeStream (i : Fin 32) (e : StreamEntry) (s : State) : s.StandsAs (s.storeStream i e) :=
  .trans (t := s.modifyStream i fun t => ⟨e, t.ctx.restart e.valid⟩) (State.standsAs_elsewhere rfl rfl rfl rfl)
    (State.standsAs_forEach 16 State.recompute _ State.standsAs_recompute)

theorem State.standsAs_writeLatency (i : Fin 64) (w : LatencyWrite) (s : State) : s.StandsAs (s.writeLatency i w) := by
  have stored : s.StandsAs (s.modifyLatency i (·.written w)) := State.standsAs_elsewhere rfl rfl rfl rfl
  unfold State.writeLatency
  dsimp only
  split
  · exact stored
  · exact stored.trans (State.standsAs_recomputeNaming i _)

theorem State.standsAs_offerNotice (n : Notice) (s : State) : s.StandsAs (s.offerNotice n) := by
  rw [State.offerNotice_rest]
  exact State.standsAs_elsewhere rfl rfl rfl rfl

/-! ### The fallback switch (R54, R56, R148) -/

theorem State.wantsFallback_iff (s : State) (p : Fin 16) :
    s.wantsFallback p = true ↔ 0 < s.programs[p].votes.fallback ∧ (s.activeEntry p).fallback ≠ none := by
  rw [State.wantsFallback, Bool.and_eq_true, decide_eq_true_eq, Option.isSome_iff_ne_none]

/-- The fallback test leaves fallback in use as the votes and the entry want it, and the state and the votes as they were. -/
theorem State.syncFallback_stands (p : Fin 16) (s : State) :
    (s.syncFallback p).programs[p].state = s.programs[p].state ∧
    (s.syncFallback p).programs[p].votes = s.programs[p].votes ∧
    (s.syncFallback p).programs[p].fallbackInUse = s.wantsFallback p := by
  unfold State.syncFallback
  dsimp only
  split
  · next same => exact ⟨rfl, rfl, same.symm⟩
  · obtain ⟨state, -, fallback, -, votes, -⟩ := State.recompute_keeps p (s.modifyProgram p fun g =>
      { g with
        fallbackInUse := s.wantsFallback p
        changed := true
        meter := g.meter.zeroChanged (effectiveSlots (s.activeEntry p) g.fallbackInUse)
          (effectiveSlots (s.activeEntry p) (s.wantsFallback p)) })
    rw [State.modifyProgram_self] at state fallback votes
    exact ⟨state, votes, fallback⟩

theorem State.FollowsEntries.syncFallback_same {s : State} (h : s.FollowsEntries) (p : Fin 16) : s.syncFallback p = s :=
  State.syncFallback_same p s (Bool.eq_iff_iff.mpr ((s.wantsFallback_iff p).trans (h.fallback p).symm))

/-- New vote counts have every program's fallback follow them; no program becomes FREE or leaves FREE (R56, R148). -/
theorem State.applyVotes_activeEntry (s : State) (p : Fin 16) : s.applyVotes.activeEntry p = s.activeEntry p :=
  State.activeEntry_congr (by rw [State.applyVotes_rest]) (by rw [State.applyVotes_rest]) (by rw [State.applyVotes_rest]) p

theorem State.FollowsEntries.applyVotes {s : State} (free : ∀ p : Fin 16, s.programs[p].state = .free ↔
    (s.activeEntry p).valid = false) : s.applyVotes.FollowsEntries := by
  rw [State.followsEntries_iff]
  intro p
  obtain ⟨state, votes, fallback⟩ := State.syncFallback_stands p (s.modifyProgram p fun g => { g with votes := s.votesOf p })
  rw [State.applyVotes_activeEntry, State.applyVotes_programs]
  refine ⟨?_, ?_⟩
  · rw [state, State.modifyProgram_self]
    exact free p
  · rw [fallback, votes, State.wantsFallback_iff]
    exact .rfl

theorem State.FollowsEntries.evaluate (s : State) (h : s.FollowsEntries) : s.evaluate.FollowsEntries := by
  unfold State.evaluate
  split
  · have zeroed : s.StandsAs
        ({ s with triggers := s.stepTriggers.triggers, evaluationDue := false } : State).zeroEventCounts :=
      ⟨rfl, rfl, rfl, fun p => by simpa [State.zeroEventCounts] using ⟨.rfl, rfl, rfl⟩⟩
    have voted := State.FollowsEntries.applyVotes (h.of_stands zeroed).free
    unfold State.offerStepNotices
    refine List.foldlRecOn _ _ voted fun t ht i _ => ?_
    split
    · exact ht.of_stands (t.standsAs_offerNotice _)
    · exact ht
  · exact h

theorem State.FollowsEntries.writeTrigger (i : Fin 48) (e : TriggerEntry) (s : State) (h : s.FollowsEntries) :
    (s.writeTrigger i e).FollowsEntries := by
  unfold State.writeTrigger
  refine State.FollowsEntries.applyVotes fun p => ?_
  dsimp only
  split
  · exact (h.of_stands (s.standsAs_offerNotice _)).free p
  · exact h.free p

theorem State.FollowsEntries.startProgram (p : Fin 16) (s : State) (h : s.FollowsEntries) :
    (s.startProgram p).2.FollowsEntries := by
  unfold State.startProgram
  dsimp only
  split
  · next stopped =>
    split
    · exact h
    · dsimp only
      rw [h.syncFallback_same p]
      exact h.of_stands (s.standsAs_putProgram p ⟨iff_of_false nofun (by rw [stopped]; nofun), rfl, rfl⟩)
  all_goals exact h

/-! ### A new entry in force (R46, R52, R57) -/

/-- A new entry leaves its program FREE exactly where it is not valid, and fallback as its list and the votes give it. -/
theorem broughtIn_follows (old new : ProgramEntry) (g : Program) : (broughtIn old new g).Follows new := by
  refine ⟨?_, ?_⟩
  · show (if new.valid = false then ProgramState.free else if g.state = .free ∨ cutBy old new g = true then .stopped
      else g.state) = .free ↔ _
    split
    · next invalid => exact iff_of_true rfl invalid
    · next valid =>
      refine iff_of_false ?_ valid
      split
      · nofun
      · next taken => exact fun free => taken (.inl free)
  · show (decide (0 < g.votes.fallback) && new.fallback.isSome) = true ↔ _
    rw [Bool.and_eq_true, decide_eq_true_eq, Option.isSome_iff_ne_none]
    exact .rfl

theorem State.programAfter_follows (s : State) (old : ProgramEntry) (p : Fin 16) :
    (s.programAfter old p).Follows (s.activeEntry p) := by
  have stands := (State.standsAs_recompute p
    (s.putProgram p (broughtIn old (s.activeEntry p) s.programs[p]))).programs p
  rw [State.putProgram_self] at stands
  exact stands.follows (broughtIn_follows old _ _)

theorem State.bringIn_activeEntry (s : State) (old : ProgramEntry) (p q : Fin 16) :
    (s.bringIn old p).activeEntry q = s.activeEntry q :=
  State.activeEntry_congr (by rw [State.bringIn_rest]) (by rw [State.bringIn_rest]) (by rw [State.bringIn_rest]) q

/-- A program that takes in its entry follows it, whatever it did before; the others stay. -/
theorem State.bringIn_followsEntries (old : ProgramEntry) (p : Fin 16) (s : State)
    (others : ∀ q : Fin 16, q ≠ p → s.programs[q].Follows (s.activeEntry q)) : (s.bringIn old p).FollowsEntries := by
  rw [State.followsEntries_iff]
  intro q
  rw [State.bringIn_activeEntry, State.bringIn_put, State.putProgram_get]
  split
  · next same => subst same; exact s.programAfter_follows old q
  · next other => exact others q other

theorem State.bringIn_all_followsEntries (old : Fin 16 → ProgramEntry) (s : State) :
    (forEach 16 (fun p u => u.bringIn (old p) p) s).FollowsEntries := by
  rw [State.followsEntries_iff]
  intro p
  have entry : (forEach 16 (fun p u => u.bringIn (old p) p) s).activeEntry p = s.activeEntry p :=
    State.activeEntry_congr (by rw [State.bringIn_all]) (by rw [State.bringIn_all]) (by rw [State.bringIn_all]) p
  have program : (forEach 16 (fun p u => u.bringIn (old p) p) s).programs[p] = s.programAfter (old p) p := by
    rw [State.bringIn_all]
    exact ofFn_get _ p
  rw [entry, program]
  exact s.programAfter_follows (old p) p

theorem State.setBankEntry_activeEntry (s : State) (which : Bank) (p q : Fin 16) (e : ProgramEntry)
    (elsewhere : which ≠ s.activeBank ∨ q ≠ p) : (s.setBankEntry which p e).activeEntry q = s.activeEntry q := by
  have ne : q ≠ p → p.val ≠ q.val := fun h same => h (Fin.ext same.symm)
  unfold State.activeEntry State.setBankEntry State.bank
  cases which <;> cases active : s.activeBank <;> simp_all

/-- A write into the active bank changes one program's entry, and that program takes it in (R46). -/
theorem State.FollowsEntries.writeProgram (which : Bank) (p : Fin 16) (e : ProgramEntry) (s : State) (h : s.FollowsEntries) :
    (s.writeProgram which p e).2.FollowsEntries := by
  have stored (q : Fin 16) (elsewhere : which ≠ s.activeBank ∨ q ≠ p) :
      (s.setBankEntry which p e).programs[q].Follows ((s.setBankEntry which p e).activeEntry q) := by
    rw [s.setBankEntry_activeEntry which p q e elsewhere, State.setBankEntry_programs]
    exact (s.followsEntries_iff.mp h) q
  unfold State.writeProgram
  split
  · split
    · exact h
    · exact State.bringIn_followsEntries _ p _ fun q other => stored q (.inr other)
  · next inactive => exact (State.followsEntries_iff _).mpr fun q => stored q (.inl inactive)

theorem State.FollowsEntries.writeEntry (which : Bank) (i : Nat) (n : NewEntry) (s : State) (h : s.FollowsEntries) :
    (s.writeEntry which i n).2.FollowsEntries := by
  cases n with
  | settings c => exact h.of_stands (State.standsAs_elsewhere rfl rfl rfl rfl)
  | stream e =>
    simp only [State.writeEntry, State.writeStream]
    split
    · exact h
    · exact h.of_stands (State.standsAs_storeStream _ e s)
  | program e => exact h.writeProgram which _ e
  | egress e =>
    simp only [State.writeEntry, State.writeEgress]
    split
    · exact h
    · exact h.of_stands (.trans (t := { s with egressTable := s.egressTable.set (Fin.ofNat 16 i) e })
        (State.standsAs_elsewhere rfl rfl rfl rfl) (State.standsAs_recompute _ _))
  | latency w =>
    simp only [State.writeEntry, State.tryLatency]
    split
    · exact h
    · exact h.of_stands (s.standsAs_writeLatency _ w)
  | trigger e =>
    simp only [State.writeEntry, State.tryTrigger]
    split
    · exact h
    · dsimp only
      exact State.FollowsEntries.writeTrigger _ e s h

/-- At a swap every program takes in its entry of the other bank, so nothing is asked of the state before. -/
theorem State.swapBanks_followsEntries (s : State) : s.swapBanks.FollowsEntries := by
  unfold State.swapBanks
  dsimp only
  generalize forEach 16 State.finishDue s = t
  have brought := State.bringIn_all_followsEntries t.activeEntry
    { t with activeBank := t.activeBank.other, swapPending := false }
  refine forEach_induct (P := State.FollowsEntries) 16 _ _ (brought.of_stands (State.standsAs_completeDeferred _ _))
    fun p u hu => ?_
  split
  · exact hu.of_stands (u.standsAs_completeDeferred _)
  · exact hu

/-! ### Every step -/

theorem State.resetKeeping_followsEntries (settings : Settings) (straps : Byte) (s : State) :
    (s.resetKeeping settings straps).FollowsEntries :=
  State.reset_followsEntries.of_stands (State.standsAs_elsewhere rfl rfl rfl rfl)

/-- Every act keeps FREE and fallback in use as the active entries and the votes give them. -/
theorem State.FollowsEntries.kept : Kept State.FollowsEntries where
  pending _ _ h := h.of_stands (State.standsAs_elsewhere rfl rfl rfl rfl)
  house _ _ h := h.of_stands (State.standsAs_elsewhere rfl rfl rfl rfl)
  evaluationDue _ _ h := h.of_stands (State.standsAs_elsewhere rfl rfl rfl rfl)
  ready _ _ h := h.of_stands (State.standsAs_elsewhere rfl rfl rfl rfl)
  receive frame s h := h.of_stands (s.standsAs_receive frame)
  loopUpdate _ _ h := h.of_stands (State.standsAs_elsewhere rfl rfl rfl rfl)
  gapTimeout _ _ h := h.of_stands (State.standsAs_elsewhere rfl rfl rfl rfl)
  holdoverLimit _ _ h := h.of_stands (State.standsAs_elsewhere rfl rfl rfl rfl)
  expire _ _ _ h := h.of_stands (State.standsAs_elsewhere rfl rfl rfl rfl)
  meterUpdate p s h := h.of_stands (s.standsAs_meterUpdate p)
  packetComplete p s h := h.of_stands (s.standsAs_packetComplete p)
  fadeOutEnd p s h := h.of_stands (s.standsAs_moved p Program.fadeOutEnd_moved)
  fadeInEnd now e p s h := h.of_stands (s.standsAs_moved p fun g => g.fadeInEnd_moved now e)
  quietWaitExpiry now p s h := h.of_stands (s.standsAs_moved p fun g => g.quietWaitExpiry_moved now)
  evaluate := State.FollowsEntries.evaluate
  egressChoice s h := h.of_stands s.standsAs_egressChoice
  frameEnd s h := h.of_stands s.standsAs_frameEnd
  swapBanks s _ := s.swapBanks_followsEntries
  convertAll _ h := h.of_stands (State.standsAs_elsewhere rfl rfl rfl rfl)
  ageEntries _ h := h.of_stands (State.standsAs_elsewhere rfl rfl rfl rfl)
  syncFallback p s h := by rw [h.syncFallback_same p]; exact h
  programSample p s h := h.of_stands (s.standsAs_programSample p)
  withoutTaken _ h := h.of_stands (State.standsAs_elsewhere rfl rfl rfl rfl)
  answer _ _ _ _ _ _ h _ := h.of_stands (State.standsAs_elsewhere rfl rfl rfl rfl)
  deferOrder _ h _ := h.of_stands (State.standsAs_elsewhere rfl rfl rfl rfl)
  record _ _ _ _ h := h.of_stands (State.standsAs_elsewhere rfl rfl rfl rfl)
  afterReading table i s h := h.of_stands (s.standsAs_afterReading table i)
  writeEntry which i n s _ h := h.writeEntry which i n
  startProgram p s h := h.startProgram p
  stopProgram p s h := h.of_stands (s.standsAs_stopProgram p)
  allocateDelay p request s h := h.of_stands (s.standsAs_allocateDelay p request)
  releaseDelay p s h := h.of_stands (s.standsAs_releaseDelay p)
  resetStream i s h := h.of_stands (State.standsAs_storeStream i _ s)
  resetIntegration p s h := h.of_stands (s.standsAs_modifyProgram p fun _ => ⟨.rfl, rfl, rfl⟩)
  acknowledge which s h := by cases which <;> exact h.of_stands (State.standsAs_elsewhere rfl rfl rfl rfl)
  sendLatency p s h := h.of_stands (s.standsAs_modifyProgram p fun _ => ⟨.rfl, rfl, rfl⟩)
  reset settings straps s _ := s.resetKeeping_followsEntries settings straps

/-- Settles O58: each act of a step keeps what R47 and R54 say of every program. -/
theorem stepKeepsFollowsEntries : Obligations.StepKeepsFollowsEntries :=
  State.FollowsEntries.kept.step

end Sys2Proof.Machine
end

section
/-! The orders that make one change at once or none, SWAP PROGRAM BANK, and the orders of unknown kind (R55, R77, R134, R150,
R171, R173, R177). -/

namespace Sys2Proof.Machine

/-! ### Orders answered at once -/

section
variable {s : State} {before after : List Order} {o : Order} {kind : Nat}

/-- An order answered at once, where its act leaves `t` of the part and reads no order queue. -/
theorem State.OrderReady.answered_of_act (h : s.OrderReady before o after kind) (known : kind < 16)
    {act : Order → State → Status × List Byte × State} {status : Status} {data : List Byte} {t : State}
    (acts : act o (s.withOrders (before ++ after)) = (status, data, t.withOrders (before ++ after))) :
    s.take kind (State.immediate act) = t.answered before o after o.table status data none := by
  rw [h.takeImmediate known, acts]
  exact State.withOrders_reply _ _ _ _ _

theorem Order.program_of_index {p : Fin 16} (index : o.index = p.val) : o.program = some p := by
  have lt : o.index < 16 := index ▸ p.isLt
  obtain rfl : ⟨o.index, lt⟩ = p := Fin.ext index
  exact dif_pos lt

theorem Order.program_outside (outside : 16 ≤ o.index) : o.program = none := dif_neg (by omega)

theorem onProgram_of_index {p : Fin 16} (index : o.index = p.val) (act : Fin 16 → State → Status × List Byte × State)
    (s : State) : onProgram act o s = act p s := by
  unfold onProgram
  rw [Order.program_of_index index]

theorem onProgram_outside (outside : 16 ≤ o.index) (act : Fin 16 → State → Status × List Byte × State) (s : State) :
    onProgram act o s = (.range, [], s) := by
  unfold onProgram
  rw [Order.program_outside outside]

/-- An order that names a program and is answered at once has its program's act answered. -/
theorem State.OrderReady.answered_of_program (h : s.OrderReady before o after kind) (known : kind < 16) {p : Fin 16}
    (index : o.index = p.val) {act : Fin 16 → State → Status × List Byte × State} {status : Status} {data : List Byte}
    {t : State} (acts : act p (s.withOrders (before ++ after)) = (status, data, t.withOrders (before ++ after))) :
    s.take kind (State.immediate (onProgram act)) = t.answered before o after o.table status data none :=
  h.answered_of_act known ((onProgram_of_index index act _).trans acts)

/-- An order to a program that the part does not have is RANGE (R171). -/
theorem State.OrderReady.answered_outside (h : s.OrderReady before o after kind) (known : kind < 16)
    (outside : 16 ≤ o.index) (act : Fin 16 → State → Status × List Byte × State) :
    s.take kind (State.immediate (onProgram act)) = s.answered before o after o.table .range [] none :=
  h.answered_of_act known (onProgram_outside outside act _)

/-! ### Orders of unknown kind (R171; log 16) -/

/-- An order of unknown kind is refused before any order command looks at its own order. -/
theorem State.OrderReady.take_unknown (h : s.OrderReady before o after kind) (unknown : 16 ≤ kind) (own : Nat)
    (handle : Order → State → State) :
    s.take own handle = (s.answered before o after o.table .illegal [] none).take own handle := by
  unfold State.take
  rw [h.takeUnknown_unknown unknown]

end

/-- The order command of each kind, in any state (Table 11-4). -/
theorem exec_orderCommand_at {kind : Nat} (known : kind < 16) (s : State) :
    exec (orderCommands[kind]'known) s = .next (s.take kind (orderHandler kind)) := by
  match kind, known with
  | 0, _ | 1, _ | 2, _ | 3, _ | 4, _ | 5, _ | 6, _ | 7, _ | 8, _ | 9, _ | 10, _ | 11, _ | 12, _ | 13, _ | 14, _
  | 15, _ => rfl
  | _ + 16, known => omega

theorem State.take_of_none {s : State} (none : s.takeable = none) (kind : Nat) (handle : Order → State → State) :
    s.take kind handle = s := by
  unfold State.take
  dsimp only
  rw [State.takeUnknown_none none, none]

/-- With every other order in progress none is left to take once one has been answered. -/
theorem State.OrderReady.answered_takeable {s : State} {before after : List Order} {o : Order} {kind : Nat}
    (h : s.OrderReady before o after kind) (rest : ∀ x ∈ after, x.inProgress = true) (table : Byte) (status : Status)
    (data : List Byte) (cursor : Option Cursor) : (s.answered before o after table status data cursor).takeable = none := by
  rw [State.takeable_eq_none_iff]
  refine .inr (.inl fun x held => ?_)
  exact (List.mem_append.mp held).elim (h.older x) (rest x)

/-! ### ACKNOWLEDGE (R150) -/

/-- The latched flag goes, and shows as a change where it was set. -/
theorem TriggerStatus.acknowledge_eq (x : TriggerStatus) :
    x.acknowledge = { x with latched := false, changed := x.changed || x.latched } := by
  unfold TriggerStatus.acknowledge
  cases latched : x.latched
  · rw [if_neg nofun, Bool.or_false, ← latched]
  · rw [if_pos rfl, Bool.or_true]

/-- Settles O42: each order by the one change that it makes, and the orders of unknown kind before any of them. -/
theorem simpleOrders : Obligations.SimpleOrders := by
  intro s before after o
  refine ⟨fun kind unknown ready c member => ?_, fun ready => ?_, fun ready => ⟨fun p index => ?_, fun outside => ?_⟩,
    fun ready => ⟨fun p index => ?_, fun outside => ?_⟩, fun ready => ⟨fun i index => ?_, fun every => ?_, fun beyond other => ?_⟩,
    fun ready => ⟨fun free => ?_, fun pending => ?_⟩⟩
  · obtain ⟨own, known, rfl⟩ := List.getElem_of_mem (l := orderCommands) member
    rw [exec_orderCommand_at known, exec_orderCommand_at known, ready.take_unknown unknown]
    exact ⟨rfl, fun rest => congrArg _ (State.take_of_none (ready.answered_takeable rest _ _ _ _) own _)⟩
  · exact congrArg Host.Outcome.next ((ready.take (by decide) State.nop).trans (ready.reply _ _ _ _))
  · exact congrArg Host.Outcome.next (ready.answered_of_program (by decide) index rfl)
  · exact congrArg Host.Outcome.next (ready.answered_outside (by decide) outside _)
  · exact congrArg Host.Outcome.next (ready.answered_of_program (by decide) index rfl)
  · exact congrArg Host.Outcome.next (ready.answered_outside (by decide) outside _)
  · refine congrArg Host.Outcome.next (ready.answered_of_act (by decide) ?_)
    have lt : o.index < 48 := index ▸ i.isLt
    obtain rfl : ⟨o.index, lt⟩ = i := Fin.ext index
    unfold acknowledgeAct
    rw [if_neg (by omega), dif_pos lt]
    simp only [State.acknowledge, TriggerStatus.acknowledge_eq]
    rfl
  · refine congrArg Host.Outcome.next (ready.answered_of_act (by decide) ?_)
    unfold acknowledgeAct
    rw [if_pos every]
    simp only [State.acknowledge, TriggerStatus.acknowledge_eq]
    rfl
  · refine congrArg Host.Outcome.next (ready.answered_of_act (by decide) ?_)
    unfold acknowledgeAct
    rw [if_neg other, dif_neg (by omega)]
  · refine congrArg Host.Outcome.next ((ready.take (by decide) State.swapOrder).trans ?_)
    unfold State.swapOrder
    rw [if_neg (by rw [free]; nofun), ready.deferred]
  · refine congrArg Host.Outcome.next ((ready.take (by decide) State.swapOrder).trans ?_)
    unfold State.swapOrder
    rw [if_pos pending]
    exact ready.reply _ _ _ _

end Sys2Proof.Machine
end

section
/-! START PROGRAM and STOP PROGRAM: what they set, and when they are refused (R48, R51, R132, R171, R177). -/

namespace Sys2Proof.Machine

/-! ### START PROGRAM (R48) -/

theorem muteInForce_iff (e : ProgramEntry) (v : Votes) :
    muteInForce e v = true ↔ 0 < v.mute ∨ (0 < v.fallback ∧ e.fallback = none) := by
  rw [muteInForce, Bool.or_eq_true, Bool.and_eq_true, decide_eq_true_eq, decide_eq_true_eq, Option.isNone_iff_eq_none]

/-- Everything an accepted START sets, item by item (R48, R62, R92, R109, R126, R133, R158). -/
theorem Program.started_eq {g : Program} (e : ProgramEntry) (stopped : g.state = .stopped) : g.started e = { g with
    state := .filling, changed := true, content := 0, readIndex := -(g.lip.target : Int)
    meter := { Meter.reset with peaks := g.meter.peaks }
    corr := { g.corr with
      ring := [], window := none, windowGate := none, gain := e.preset, schedule := [], outputGain := e.preset
      ramp := ⟨linearGain e.preset, linearGain e.preset, linearGain e.preset, 480⟩
      mute := if 0 < g.votes.mute ∨ (0 < g.votes.fallback ∧ e.fallback = none) then 0 else 480
      dip := .rest, dipCount := 0, stop := 0 }
    lip := { g.lip with move := .none, pendingMove := false, actual := g.lip.target, lastReported := none }
    delay := { g.delay with
      writePlace := 0, readPlace := ((0 - (g.lip.target : Int)) % ((g.delay.blocks * 1024 : Nat) : Int)).toNat }
    egress := { g.egress with sequence := 0, progress := [] } } := by
  have changed : (g.changed || decide (g.state ≠ .filling)) = true := by rw [stopped]; exact Bool.or_true _
  have mute : (if muteInForce e g.votes = true then 0 else Config.rampSamples) =
      if 0 < g.votes.mute ∨ (0 < g.votes.fallback ∧ e.fallback = none) then 0 else 480 := by
    simp only [muteInForce_iff]
    rfl
  rw [← changed, ← mute]
  rfl

section
variable {s : State} {p : Fin 16}

/-- START is accepted in STOPPED with rings, where fallback follows its condition (R48, R54). -/
theorem State.startProgram_accepted (stopped : s.programs[p].state = .stopped) (rings : s.programs[p].delay.blocks ≠ 0)
    (synced : s.wantsFallback p = s.programs[p].fallbackInUse) :
    s.startProgram p = (.done, s.putProgram p (s.programs[p].started (s.activeEntry p))) := by
  unfold State.startProgram
  dsimp only
  rw [stopped, State.syncFallback_same p s synced]
  exact if_neg rings

/-- In every state but STOPPED and STOPPING, and without rings, START is refused with STATE (R48). -/
theorem State.startProgram_state (refused : s.programs[p].state = .free ∨ s.programs[p].state = .filling ∨
    s.programs[p].state = .running ∨ (s.programs[p].state = .stopped ∧ s.programs[p].delay.blocks = 0)) :
    s.startProgram p = (.state, s) := by
  unfold State.startProgram
  dsimp only
  rcases refused with state | state | state | ⟨state, none⟩ <;> rw [state]
  exact if_pos none

theorem State.startProgram_busy (stopping : s.programs[p].state = .stopping) : s.startProgram p = (.busy, s) := by
  unfold State.startProgram
  dsimp only
  rw [stopping]

theorem startAct_eq {status : Status} {t : State} (started : s.startProgram p = (status, t)) :
    startAct p s = (status, [], t) := by
  rw [startAct, started]

end

/-- Settles O18: the order's act on the part without the order, by the state of the program. -/
theorem startProgramResult : Obligations.StartProgramResult := by
  intro s before after o ready
  refine ⟨fun p index => ?_, fun outside => congrArg Host.Outcome.next (ready.answered_outside (by decide) outside _)⟩
  refine ⟨fun stopped rings follows => ?_, fun refused => ?_, fun stopping => ?_⟩
  · have synced : s.wantsFallback p = s.programs[p].fallbackInUse :=
      Bool.eq_iff_iff.mpr ((s.wantsFallback_iff p).trans follows.symm)
    have started := State.startProgram_accepted (s := s.withOrders (before ++ after)) stopped rings synced
    have answered := ready.answered_of_program (by decide) index (t := s.putProgram p (s.programs[p].started (s.activeEntry p)))
      (startAct_eq started)
    rw [Program.started_eq _ stopped] at answered
    exact congrArg Host.Outcome.next answered
  · exact congrArg Host.Outcome.next (ready.answered_of_program (by decide) index
      (startAct_eq (State.startProgram_state (s := s.withOrders (before ++ after)) refused)))
  · exact congrArg Host.Outcome.next (ready.answered_of_program (by decide) index
      (startAct_eq (State.startProgram_busy (s := s.withOrders (before ++ after)) stopping)))

/-! ### STOP PROGRAM (R51, R132, R177) -/

/-- Everything an accepted STOP sets in the program, item by item. -/
theorem Program.stopping_eq {g : Program} (processing : g.state = .filling ∨ g.state = .running) :
    ((g.enter .stopping).withCorr fun c => { c with stop := 0 }).endMoveAtStop = { g with
      state := .stopping, changed := true, readIndex := (g.content.toNat : Int) - g.lip.target
      corr := ({ g.corr with stop := 0 }).takeUp ((g.content.toNat : Int) - g.lip.target)
      lip := { g.lip with
        actual := g.lip.target, pendingMove := false
        move := if g.lip.move = .waiting then .none else g.lip.move }
      delay := { g.delay with readPlace := g.delay.placeBehind g.lip.target } } := by
  have changed : (g.changed || decide (g.state ≠ .stopping)) = true := by
    rcases processing with state | state <;> rw [state] <;> exact Bool.or_true _
  rw [← changed]
  rfl

section
variable {s : State} {p : Fin 16}

theorem State.stopProgram_accepted (processing : s.programs[p].state = .filling ∨ s.programs[p].state = .running) :
    s.stopProgram p = (none, s.putProgram p
      ((s.programs[p].enter .stopping).withCorr fun c => { c with stop := 0 }).endMoveAtStop) := by
  unfold State.stopProgram
  rcases processing with state | state <;> rw [state] <;> rfl

theorem State.stopProgram_state (refused : s.programs[p].state = .free ∨ s.programs[p].state = .stopped) :
    s.stopProgram p = (some .state, s) := by
  unfold State.stopProgram
  rcases refused with state | state <;> rw [state]

theorem State.stopProgram_busy (stopping : s.programs[p].state = .stopping) : s.stopProgram p = (some .busy, s) := by
  unfold State.stopProgram
  rw [stopping]

variable {before after : List Order} {o : Order}

/-- A STOP that is accepted stays in the queue, in progress. -/
theorem State.OrderReady.stopOrder_accepted (h : s.OrderReady before o after 8) (index : o.index = p.val) {g : Program}
    (accepted : s.stopProgram p = (none, s.putProgram p g)) : s.stopOrder o = { s.putProgram p g with
      orders := before ++ { o with inProgress := true } :: after, cursor := none } := by
  have deferred : (s.putProgram p g).OrderReady before o after 8 := ⟨h.queue, h.older, h.waiting, h.ofKind, h.place, h.phase⟩
  unfold State.stopOrder
  rw [Order.program_of_index index]
  dsimp only
  rw [accepted]
  exact deferred.deferred

theorem State.OrderReady.stopOrder_refused (h : s.OrderReady before o after 8) (index : o.index = p.val) {status : Status}
    (refused : s.stopProgram p = (some status, s)) :
    s.stopOrder o = s.answered before o after o.table status [] none := by
  unfold State.stopOrder
  rw [Order.program_of_index index]
  dsimp only
  rw [refused]
  exact h.reply _ _ _ _

end

/-- Settles O19: the deferred order, and its refusals by the state of the program. -/
theorem stopProgramResult : Obligations.StopProgramResult := by
  intro s before after o ready
  have taken : exec .stopProgram s = .next (s.stopOrder o) := congrArg Host.Outcome.next (ready.take (by decide) State.stopOrder)
  rw [taken]
  refine ⟨fun p index => ⟨fun processing => ?_, fun refused => ?_, fun stopping => ?_⟩, fun outside => ?_⟩
  · have accepted := State.stopProgram_accepted processing
    rw [Program.stopping_eq processing] at accepted
    exact congrArg Host.Outcome.next (ready.stopOrder_accepted index accepted)
  · exact congrArg Host.Outcome.next (ready.stopOrder_refused index (State.stopProgram_state refused))
  · exact congrArg Host.Outcome.next (ready.stopOrder_refused index (State.stopProgram_busy stopping))
  · unfold State.stopOrder
    rw [Order.program_outside outside]
    exact congrArg Host.Outcome.next (ready.reply _ _ _ _)

end Sys2Proof.Machine
end

section
/-! The packet that ends STOPPING, and the STOP that it answers (R51, R88, R132, R158, R160, R177). -/

namespace Sys2Proof.Machine

/-! ### The packet that joins the queue (R158, R160) -/

/-- A packet that completes is queued as a frame, in place of the oldest one where the queue is full, and leaves no sample
behind. -/
theorem Program.packed_eq (frame : List Byte) (g : Program) :
    let x := g.egress
    let full : Bool := decide (2 ≤ x.queue.length)
    ((g.queueMedia frame).withEgress fun x => { x with progress := [], sequence := x.sequence + 1 }) = { g with
      changed := g.changed || full
      egress := { x with
        sequence := x.sequence + 1, progress := []
        queue := (if full then x.queue.drop 1 else x.queue) ++ [frame]
        drop := x.drop || full } } := by
  dsimp only
  unfold Program.queueMedia
  by_cases room : g.egress.queue.length < Config.packetPlaces
  · have free : decide (2 ≤ g.egress.queue.length) = false := decide_eq_false (Nat.not_le.mpr room)
    rw [if_pos room, free, Bool.or_false, Bool.or_false, if_neg nofun]
    rfl
  · have full : decide (2 ≤ g.egress.queue.length) = true := decide_eq_true (Nat.not_lt.mp room)
    rw [if_neg room, full, Bool.or_true, Bool.or_true, if_pos rfl]
    rfl

/-! ### The STOP answered (R177, R179) -/

section
variable {s : State} {p : Fin 16}

theorem stopOf_iff (p : Fin 16) (o : Order) :
    stopOf p o = true ↔ o.inProgress = true ∧ o.kind = 8#8 ∧ o.index = p.val := by
  rw [stopOf, Bool.and_eq_true, decide_eq_true_eq]

/-- The first STOP in progress of the program is answered DONE and leaves the queue. -/
theorem State.completeStop_eq {before after : List Order} {o : Order} (phase : s.resetPhase = .none)
    (queue : s.orders = before ++ o :: after) (stop : stopOf p o = true) (first : ∀ x ∈ before, ¬ stopOf p x = true) :
    s.completeStop p = { s with
      orders := before ++ after
      replyQueue := s.replyQueue ++ [⟨replyFrame s.settings o o.table .done (before.length + after.length) [], false⟩] } := by
  have found : s.orders.find? (stopOf p) = some o := by
    rw [queue, List.find?_append, List.find?_eq_none.mpr first, Option.none_or]
    exact List.find?_cons_of_pos stop
  have erased : s.orders.eraseP (stopOf p) = before ++ after := by
    rw [queue, List.eraseP_append_right _ first, List.eraseP_cons_of_pos stop]
  rw [(State.completeStop_find phase p).1 o found, erased]
  simp only [State.answer, List.length_append]

/-- Once a RESET PART has been taken, and with no STOP of the program in progress, nothing is answered (R179). -/
theorem State.completeStop_none (none : s.resetPhase ≠ .none ∨ ∀ x ∈ s.orders, ¬ stopOf p x = true) :
    s.completeStop p = s := by
  by_cases phase : s.resetPhase = .none
  · exact (State.completeStop_find phase p).2 (List.find?_eq_none.mpr (none.resolve_left (absurd phase)))
  · exact if_neg phase

/-! ### The end of STOPPING (R51) -/

/-- A packet that holds the last sample of the stop ramp: it is queued, the program becomes STOPPED, and then its STOP is
answered. -/
theorem State.packetComplete_stopping (stopping : s.programs[p].state = .stopping) (ramp : 480 ≤ s.programs[p].corr.stop)
    (gathered : s.programs[p].egress.progress ≠ [])
    (ends : s.programs[p].content.toNat % s.egressTable[p].packetSize = 0) :
    s.packetComplete p = (s.putProgram p (((s.programs[p].queueMedia (mediaFrame s.settings s.egressTable[p]
      (s.activeEntry p).members.length s.programs[p].egress)).withEgress
        fun x => { x with progress := [], sequence := x.sequence + 1 }).endStopping)).completeStop p := by
  unfold State.packetComplete
  rw [if_pos ((State.packetEnds_iff p s).mpr ⟨gathered, ends⟩)]
  dsimp only
  rw [if_pos ⟨stopping, ramp⟩, State.modifyProgram_eq, State.modifyProgram_eq, State.putProgram_self, State.putProgram_put]

/-- A program that ends STOPPING: its changed flag is set, its move is over and its ramps are at rest (R47, R88, R132). -/
theorem Program.endStopping_eq {g : Program} (stopping : g.state = .stopping) : g.endStopping = { g with
    state := .stopped, changed := true
    corr := { g.corr with
      schedule := [], ramp := { g.corr.ramp with present := g.corr.ramp.finish, count := 480 }
      dip := .rest, dipCount := 0, stop := 0 }
    lip := { g.lip with move := .none, pendingMove := false, actual := g.lip.target } } := by
  have changed : (g.changed || decide (g.state ≠ .stopped)) = true := by rw [stopping]; exact Bool.or_true _
  rw [← changed]
  rfl

end

/-- Settles O37: the packet and the end of STOPPING, and then the STOP that is answered or none. -/
theorem stoppingEnds : Obligations.StoppingEnds := by
  intro s p
  dsimp only
  intro stopping ramp gathered ends
  have completed : exec (.packetComplete p.val) s = .next (s.packetComplete p) :=
    congrArg Host.Outcome.next (atIndex_fin p State.packetComplete s)
  rw [State.packetComplete_stopping stopping ramp gathered ends, Program.packed_eq,
    Program.endStopping_eq (by exact stopping)] at completed
  refine ⟨fun before after o phase queue mine first => ?_, fun none => ?_⟩
  · rw [completed]
    exact congrArg Host.Outcome.next (State.completeStop_eq (s := s.putProgram p _) phase queue ((stopOf_iff p o).mpr mine)
      fun x early stop => first x early ((stopOf_iff p x).mp stop))
  · rw [completed]
    exact congrArg Host.Outcome.next (State.completeStop_none (s := s.putProgram p _)
      (none.imp_right fun absent x held stop => absent x held ((stopOf_iff p x).mp stop)))

end Sys2Proof.Machine
end

section
/-! One house sample of a program: the meter, the rings, the output stage and the indices (R49, R50, R60, R63, R65, R90, R93,
R99, R109, R110, R158). -/

namespace Sys2Proof.Machine

/-! ### What the meter takes (R63, R65, R79) -/

/-- A stage of the model, with its coefficients given one by one. -/
theorem stageOf_eq (c : Config.Coefficients) (s : StageState) (x : F64) :
    stageOf c.b0 c.b1 c.b2 c.a1 c.a2 s x = (stageOutput c s x, stageNext s x (stageOutput c s x)) := rfl

theorem stageOf_shelf (s : StageState) (x : F64) :
    stageOf 1.53512485958697 (-2.69169618940638) 1.19839281085285 (-1.69065929318241) 0.73248077421585 s x =
      (stageOutput Config.shelf s x, stageNext s x (stageOutput Config.shelf s x)) := by
  rw [← stageOf_eq]
  congr 1 <;> norm_num [Config.shelf]

theorem stageOf_highPass (s : StageState) (x : F64) :
    stageOf 1 (-2) 1 (-1.99004745483398) 0.99007225036621 s x =
      (stageOutput Config.highPass s x, stageNext s x (stageOutput Config.highPass s x)) := by
  rw [← stageOf_eq]
  congr 1 <;> norm_num [Config.highPass]

section
variable (m : Meter) (xs : List Sample) (k : Fin 8)

theorem Meter.feed_some {x : Sample} (member : xs[k.val]? = some x) :
    (m.feed xs).filters[k] = (kWeight m.filters[k] x).2 ∧
    (m.feed xs).sums[k] = fadd m.sums[k] (fmul (kWeight m.filters[k] x).1 (kWeight m.filters[k] x).1) ∧
    (m.feed xs).peaks[k] = max m.peaks[k] (magnitude x) := by
  refine ⟨(ofFn_get _ k).trans ?_, (ofFn_get _ k).trans ?_, (ofFn_get _ k).trans ?_⟩ <;> rw [member]

theorem Meter.feed_none (beyond : xs[k.val]? = none) :
    (m.feed xs).filters[k] = m.filters[k] ∧ (m.feed xs).sums[k] = m.sums[k] ∧ (m.feed xs).peaks[k] = m.peaks[k] := by
  refine ⟨(ofFn_get _ k).trans ?_, (ofFn_get _ k).trans ?_, (ofFn_get _ k).trans ?_⟩ <;> rw [beyond]

end

theorem meterFed : MeterFed := by
  refine fun m xs => ⟨rfl, fun k => ⟨fun x member => ?_, m.feed_none xs k⟩⟩
  dsimp only
  rw [stageOf_shelf, stageOf_highPass]
  exact m.feed_some xs k member

/-! ### The output stage (R93, R99) -/

/-- Each product is saturated to 24 bits, and each one beyond them is a clip event. -/
theorem Correction.output_eq (c : Correction) (ys : List Sample) : c.output ys =
    (ys.map fun y => BitVec.ofInt 24 (max (-8388608) (min 8388607 (c.product y))), { c with
      clips := min 65535 (c.clips +
        (ys.filter fun y => decide (c.product y < -8388608 ∨ 8388607 < c.product y)).length) }) := by
  have saturated (v : Int) : saturate24 v = max (-8388608) (min 8388607 v) := clamp_eq v _ _ (by decide)
  have clips (v : Int) : decide (saturate24 v ≠ v) = decide (v < -8388608 ∨ 8388607 < v) := by
    rw [saturated]
    exact decide_eq_decide.mpr (by omega)
  have samples : (ys.map c.product).map (fun v => toSample (saturate24 v)) =
      ys.map fun y => BitVec.ofInt 24 (max (-8388608) (min 8388607 (c.product y))) := by
    simp only [List.map_map, saturated]
    rfl
  have clipped : ((ys.map c.product).filter fun v => decide (saturate24 v ≠ v)).length =
      (ys.filter fun y => decide (c.product y < -8388608 ∨ 8388607 < c.product y)).length := by
    simp only [clips, List.filter_map, List.length_map]
    rfl
  unfold Correction.output
  dsimp only
  rw [samples, clipped]
  rfl

/-! ### The program's state, its meter and its indices (R49, R50, R65) -/

section
variable (g : Program)

theorem Program.fillingToRunning_eq : g.fillingToRunning = { g with
    state := if g.state = .filling ∧ 0 ≤ g.readIndex then .running else g.state
    changed := g.changed ||
      decide ((if g.state = .filling ∧ 0 ≤ g.readIndex then .running else g.state) ≠ g.state) } := by
  unfold Program.fillingToRunning
  by_cases reached : g.state = .filling ∧ 0 ≤ g.readIndex
  · have changed : decide (ProgramState.running ≠ g.state) = decide (g.state ≠ .running) := decide_eq_decide.mpr ne_comm
    rw [if_pos reached, if_pos reached, changed]
    rfl
  · rw [if_neg reached, if_neg reached, decide_eq_false (not_not_intro rfl), Bool.or_false]

/-- A program that processes house samples is fed by them except in STOPPING (R60). -/
theorem Program.fillingToRunning_fed (processing : g.state.processing = true) :
    g.fillingToRunning.state.fed = decide (g.state ≠ .stopping) := by
  rw [Program.fillingToRunning_eq]
  cases state : g.state <;> rw [state] at processing
  case filling => dsimp only; split <;> rfl
  all_goals first | rfl | cases processing

theorem Program.markSubBlock_eq : g.markSubBlock = { g with meter := { g.meter with
    due := if (g.state.fed && decide (g.content ≠ 0 ∧ g.content.toNat % 4800 = 0)) = true then some g.state
      else g.meter.due } } := by
  have ended : (g.state.fed && decide (g.content ≠ 0 ∧ g.content.toNat % 4800 = 0)) = true ↔
      g.state.fed = true ∧ g.content ≠ 0 ∧ g.content.toNat % Config.subBlock = 0 := by
    rw [Bool.and_eq_true, decide_eq_true_eq]
    rfl
  unfold Program.markSubBlock
  simp only [ended]
  split <;> rfl

/-- Below 2⁴⁸ the read index rises by 1 (log 26). -/
theorem Program.advanceIndices_eq (below : g.readIndex + 1 < 281474976710656) : g.advanceIndices = { g with
    content := g.content + 1, readIndex := g.readIndex + 1
    delay := { g.delay with
      writePlace := (g.delay.writePlace + 1) % (g.delay.blocks * 1024)
      readPlace := (g.delay.readPlace + 1) % (g.delay.blocks * 1024) } } := by
  unfold Program.advanceIndices
  rw [if_neg (by omega)]
  rfl

end

/-- A program carried one house sample forward on the samples `xs` of its slots and `ys` of its read place. -/
theorem Program.sampled_eq (e : ProgramEntry) (count : BitVec 48) (xs ys : List Sample) {g : Program}
    (processing : g.state.processing = true) (below : g.readIndex + 1 < 281474976710656) :
    let muted : Bool := decide (0 < g.votes.mute ∨ (0 < g.votes.fallback ∧ e.fallback = none))
    let c := g.corr.advanceFactors muted (decide (g.state = .stopping))
    let clipped := ys.filter fun y => decide (c.product y < -8388608 ∨ 8388607 < c.product y)
    let state := if g.state = .filling ∧ 0 ≤ g.readIndex then .running else g.state
    let fed : Bool := decide (g.state ≠ .stopping)
    let ended : Bool := fed && decide (g.content + 1 ≠ 0 ∧ (g.content + 1).toNat % 4800 = 0)
    let h := g.fillingToRunning
    ((if h.state.fed = true then h.withMeter (·.feed xs) else h).outputStage e
      count ys).advanceIndices.takeUpGain.markSubBlock = { g with
        state := state
        changed := g.changed || decide (state ≠ g.state)
        content := g.content + 1
        readIndex := g.readIndex + 1
        meter := { (if fed = true then g.meter.feed xs else g.meter) with due := if ended = true then some state else g.meter.due }
        corr := ({ c with clips := min 65535 (c.clips + clipped.length) }).takeUp (g.readIndex + 1)
        delay := { g.delay with
          writePlace := (g.delay.writePlace + 1) % (g.delay.blocks * 1024)
          readPlace := (g.delay.readPlace + 1) % (g.delay.blocks * 1024) }
        egress := { g.egress with
          progress := g.egress.progress ++
            [ys.map fun y => BitVec.ofInt 24 (max (-8388608) (min 8388607 (c.product y)))]
          stamp := if g.egress.progress = [] then count.setWidth 32 else g.egress.stamp } } := by
  intro muted c clipped state fed ended h
  have isFed : h.state.fed = fed := g.fillingToRunning_fed processing
  have running : h = { g with state := state, changed := g.changed || decide (state ≠ g.state) } := g.fillingToRunning_eq
  have stopping : decide (state = .stopping) = decide (g.state = .stopping) := by
    refine decide_eq_decide.mpr ?_
    show (if g.state = .filling ∧ 0 ≤ g.readIndex then ProgramState.running else g.state) = .stopping ↔ _
    split
    · next filling => exact iff_of_false nofun (by rw [filling.1]; nofun)
    · exact .rfl
  have inForce : muteInForce e g.votes = muted := Bool.eq_iff_iff.mpr ((muteInForce_iff e g.votes).trans decide_eq_true_iff.symm)
  have taken : (if h.state.fed = true then h.withMeter (·.feed xs) else h) = { h with
      meter := if fed = true then g.meter.feed xs else g.meter } := by
    rw [isFed, running]
    split <;> rfl
  have staged : ({ h with meter := if fed = true then g.meter.feed xs else g.meter } : Program).outputStage e count ys =
      { h with
        meter := if fed = true then g.meter.feed xs else g.meter
        corr := { c with clips := min 65535 (c.clips + clipped.length) }
        egress := { g.egress with
          progress := g.egress.progress ++
            [ys.map fun y => BitVec.ofInt 24 (max (-8388608) (min 8388607 (c.product y)))]
          stamp := if g.egress.progress = [] then count.setWidth 32 else g.egress.stamp } } := by
    unfold Program.outputStage
    rw [running]
    dsimp only
    rw [inForce, stopping, Correction.output_eq]
    rfl
  have dueEmpty : (if fed = true then g.meter.feed xs else g.meter).due = g.meter.due := by split <;> rfl
  have stateFed : state.fed = fed := by rw [← isFed, running]
  rw [taken, staged, running, Program.advanceIndices_eq _ (by exact below), Program.markSubBlock_eq]
  unfold Program.takeUpGain Program.withCorr
  dsimp only
  rw [stateFed, dueEmpty]

/-- Settles O20: the meter, the house sample of one program, and that of a part between its events. -/
theorem programSampleAdvances : Obligations.ProgramSampleAdvances := by
  refine ⟨meterFed, fun s p => ⟨fun processing below => ?_, fun still => if_neg (by rw [still]; nofun)⟩, fun s quiet => ?_⟩
  · have slots : s.programs[p].fillingToRunning.fallbackInUse = s.programs[p].fallbackInUse := by
      rw [Program.fillingToRunning_eq]
    have rings : s.programs[p].fillingToRunning.delay = s.programs[p].delay := by rw [Program.fillingToRunning_eq]
    have place : s.programs[p].fillingToRunning.readIndex = s.programs[p].readIndex := by rw [Program.fillingToRunning_eq]
    unfold State.programSample ringSamples
    rw [if_pos processing]
    dsimp only
    rw [slots, rings, place, Program.sampled_eq _ _ _ _ processing below]
    rfl
  · exact ⟨s.convertAll.ageEntries, rfl, (exec_quietSample quiet.houseSample).1⟩

end Sys2Proof.Machine
end

section
/-! The conditions of Table 8-2 (R139 to R141). -/

namespace Sys2Proof.Machine

/-! ### What a condition is read from -/

section
variable (s : State) (e : TriggerEntry)

theorem contextCode_eq (st : ContextState) : contextCode st = contextNumber st := by cases st <;> rfl

/-- A kind of a stream is read from the stream that the object names (R139). -/
theorem State.condition_stream {i : Fin 32} (object : e.object = i.val) (kind : e.condition ∈
    [Condition.streamLost, .streamHoldover, .streamUnlocked, .ratioLimit, .ratioDeviation, .underrun, .format]) :
    s.condition e = streamCondition s.streams[i].ctx e.condition e.parameter := by
  have named : i = Fin.ofNat 32 e.object := by rw [object]; exact (Fin.ofNat_val_eq_self i).symm
  subst named
  unfold State.condition
  simp only [List.mem_cons, List.not_mem_nil, or_false] at kind
  rcases kind with kind | kind | kind | kind | kind | kind | kind <;> rw [kind]

/-- A kind of a program is read from the program that the object names (R140). -/
theorem State.condition_program {p : Fin 16} (object : e.object = p.val) (kind : e.condition ∈
    [Condition.silence, .overload, .clip, .gainAtLimit, .delayClamp, .audioLate, .lipsyncError, .chainStale]) :
    s.condition e = s.programCondition p e.condition e.parameter := by
  have named : p = Fin.ofNat 16 e.object := by rw [object]; exact (Fin.ofNat_val_eq_self p).symm
  subst named
  unfold State.condition
  simp only [List.mem_cons, List.not_mem_nil, or_false] at kind
  rcases kind with kind | kind | kind | kind | kind | kind | kind | kind <;> rw [kind]

/-- A condition of a stream holds outside EMPTY only. -/
theorem streamCondition_iff (c : Context) (parameter : Int) :
    let read (kind : Condition) := streamCondition c kind parameter
    let code : Int := contextNumber c.state
    (((read .streamLost).1 = true ↔ c.state = .lost) ∧ (read .streamLost).2 = code) ∧
    (((read .streamHoldover).1 = true ↔ c.state = .holdover) ∧ (read .streamHoldover).2 = code) ∧
    (((read .streamUnlocked).1 = true ↔ c.state = .track ∨ c.state = .holdover) ∧ (read .streamUnlocked).2 = code) ∧
    (((read .ratioLimit).1 = true ↔ c.state ≠ .empty ∧ (c.correction = 16777 ∨ c.correction = -16777)) ∧
      (read .ratioLimit).2 = c.correction) ∧
    (((read .ratioDeviation).1 = true ↔ c.state ≠ .empty ∧ parameter ≤ |c.correction|) ∧
      (read .ratioDeviation).2 = c.correction) ∧
    (((read .underrun).1 = true ↔ c.state ≠ .empty ∧ 1 ≤ c.underrunCount) ∧ (read .underrun).2 = c.underrunCount) ∧
    (((read .format).1 = true ↔ c.state ≠ .empty ∧ 1 ≤ c.formatCount) ∧ (read .format).2 = c.formatCount) := by
  have magnitude : |c.correction| = Config.loopBound ↔ c.correction = 16777 ∨ c.correction = -16777 :=
    abs_eq (by decide)
  simp only [streamCondition, contextCode_eq, Bool.and_eq_true, Bool.or_eq_true, decide_eq_true_eq, magnitude,
    Int.natCast_natAbs, and_true]
  refine ⟨?_, ?_, ?_, and_comm, and_comm, and_comm, and_comm⟩
  · exact and_iff_left_of_imp fun lost => by rw [lost]; nofun
  · exact and_iff_left_of_imp fun holdover => by rw [holdover]; nofun
  · exact and_iff_left_of_imp fun unlocked => by rcases unlocked with state | state <;> rw [state] <;> nofun

end

/-! ### The conditions of a program (R140) -/

theorem ProgramState.fed_iff (st : ProgramState) : st.fed = true ↔ st = .filling ∨ st = .running := by
  cases st <;> simp [ProgramState.fed]

theorem any_iff_exists {o : Option Int} {test : Int → Bool} : o.any test = true ↔ ∃ v, o = some v ∧ test v = true := by
  cases o <;> simp

theorem State.staleCount_eq (s : State) (p : Fin 16) : s.staleCount p =
    (s.activeEntry p).chain.countP fun i => !s.latencies[i].ignore &&
      (!s.latencies[i].valid || decide (s.latencies[i].state = .stale) || decide (s.latencies[i].state = .absent)) :=
  List.countP_eq_length_filter.symm

/-- A condition of a program holds in FILLING and RUNNING only. -/
theorem State.programCondition_iff (s : State) (p : Fin 16) (parameter : Int) :
    let g := s.programs[p]
    let x := s.activeEntry p
    let read (kind : Condition) := s.programCondition p kind parameter
    let fed : Prop := g.state = .filling ∨ g.state = .running
    let error : Int := |g.lip.unclamped - g.lip.actual|
    let stale := x.chain.countP fun i => !s.latencies[i].ignore &&
      (!s.latencies[i].valid || decide (s.latencies[i].state = .stale) || decide (s.latencies[i].state = .absent))
    (((read .silence).1 = true ↔ fed ∧ ∃ v, g.meter.momentary = some v ∧ v < parameter) ∧
      (read .silence).2 = g.meter.momentary.getD (-12000)) ∧
    (((read .overload).1 = true ↔ fed ∧ ∃ v, g.meter.shortTerm = some v ∧ parameter < v) ∧
      (read .overload).2 = g.meter.shortTerm.getD (-12000)) ∧
    (((read .clip).1 = true ↔ fed ∧ parameter ≤ g.corr.clips ∧ 1 ≤ g.corr.clips) ∧ (read .clip).2 = g.corr.clips) ∧
    (((read .gainAtLimit).1 = true ↔ fed ∧ x.mode = .track ∧ (g.corr.gain = -x.maxCut ∨ g.corr.gain = x.maxBoost)) ∧
      (read .gainAtLimit).2 = g.corr.gain) ∧
    (((read .delayClamp).1 = true ↔ fed ∧ g.lip.delayClamp = true) ∧ (read .delayClamp).2 = g.lip.unclamped) ∧
    (((read .audioLate).1 = true ↔ fed ∧ g.lip.audioLate = true) ∧ (read .audioLate).2 = g.lip.unclamped) ∧
    (((read .lipsyncError).1 = true ↔ fed ∧ parameter < error) ∧ (read .lipsyncError).2 = error) ∧
    (((read .chainStale).1 = true ↔ fed ∧ 1 ≤ stale) ∧ (read .chainStale).2 = stale) := by
  have clip (n : Nat) : max parameter 1 ≤ (n : Int) ↔ parameter ≤ n ∧ 1 ≤ n := by omega
  dsimp only
  rw [← State.staleCount_eq]
  simp only [State.programCondition, atLimit, any_iff_exists, ← ProgramState.fed_iff, Bool.and_eq_true, Bool.or_eq_true,
    decide_eq_true_eq, clip, Int.natCast_natAbs]
  exact ⟨⟨and_comm, rfl⟩, ⟨and_comm, rfl⟩, ⟨and_comm, trivial⟩, ⟨and_comm, trivial⟩, ⟨and_comm, trivial⟩, ⟨and_comm, trivial⟩,
    ⟨and_comm, trivial⟩, ⟨and_comm, trivial⟩⟩

theorem conditionTable (s : State) (e : TriggerEntry) : ConditionTable s e := by
  refine ⟨fun i object => ?_, fun p object => ?_, fun kind => ?_, fun kind => ?_⟩
  · have read := s.condition_stream e object
    obtain ⟨lost, holdover, unlocked, limit, deviation, underrun, format⟩ := streamCondition_iff s.streams[i].ctx e.parameter
    refine ⟨fun kind => ?_, fun kind => ?_, fun kind => ?_, fun kind => ?_, fun kind => ?_, fun kind => ?_, fun kind => ?_⟩ <;>
      rw [read (by rw [kind]; decide), kind] <;> assumption
  · have read := s.condition_program e object
    obtain ⟨silence, overload, clip, limit, clamp, late, error, stale⟩ := s.programCondition_iff p e.parameter
    refine ⟨fun kind => ?_, fun kind => ?_, fun kind => ?_, fun kind => ?_, fun kind => ?_, fun kind => ?_, fun kind => ?_,
      fun kind => ?_⟩ <;> rw [read (by rw [kind]; decide), kind] <;> assumption
  · unfold State.condition
    rw [kind]
    exact ⟨decide_eq_true_iff, rfl⟩
  · unfold State.condition
    rw [kind]
    exact ⟨decide_eq_true_iff, rfl⟩

end Sys2Proof.Machine
end

section
/-! An evaluation: the trigger steps, the votes and the notices (R142 to R148, R151, R152). -/

namespace Sys2Proof.Machine

/-! ### Votes and fallback (R54, R56, R148) -/

theorem TriggerState.holds_eq (x : TriggerState) : x.holds = (decide (x = .active) || decide (x = .clearing)) := by
  cases x <;> rfl

/-- The votes of a program are counted over the triggers as they stand. -/
theorem State.countVotes_eq (s : State) (p : Fin 16) (response : Responses → Bool) :
    s.countVotes p response = (List.finRange 48).countP (s.activeFor p response) := by
  have listed : s.triggers.toList = (List.finRange 48).map fun i => s.triggers[i] := by
    apply List.ext_getElem <;> simp
  rw [State.countVotes, listed, List.countP_map]
  congr 1
  funext i
  simp only [Function.comp, Trigger.votesFor, TriggerState.holds_eq, State.activeFor]

theorem State.activeFor_congr {s t : State} (triggers : t.triggers = s.triggers) (p : Fin 16) (response : Responses → Bool) :
    t.activeFor p response = s.activeFor p response := by
  funext i
  unfold State.activeFor
  rw [triggers]

theorem State.recompute_clips (p : Fin 16) (s : State) :
    (s.recompute p).programs[p].corr.clips = s.programs[p].corr.clips := by
  obtain ⟨g, c, put, moved⟩ := s.recompute_spec p
  obtain ⟨-, -, -, -, -, -, -, -, -, -, -, -, -, -, -, -, -, -, -, -, -, -, -, -, -, clips⟩ := moved.keeps
  rw [put, State.putProgram_self]
  exact clips

/-- A program takes its new vote counts by the rule of `voted`, which reads no event count. -/
theorem State.applyVotes_voted {s t : State} (p : Fin 16) (streams : ∀ i : Fin 32, t.streams[i].entry = s.streams[i].entry)
    (latencies : t.latencies = s.latencies) (egress : t.egressTable = s.egressTable)
    (entry : t.activeEntry p = s.activeEntry p) (count : t.house.count = s.house.count) :
    t.applyVotes.programs[p] = voted s p t.programs[p] (t.votesOf p) := by
  rw [State.applyVotes_programs]
  unfold State.syncFallback voted State.wantsFallback
  dsimp only
  have entry' : (t.modifyProgram p fun g => { g with votes := t.votesOf p }).activeEntry p = s.activeEntry p := entry
  rw [State.modifyProgram_self, entry']
  split
  · exact State.modifyProgram_self _ _ _
  · refine State.recompute_congr p _ _ streams latencies egress entry count ?_
    rw [State.modifyProgram_self, State.modifyProgram_self, State.putProgram_self]
    rfl

theorem State.syncFallback_clips (p : Fin 16) (s : State) :
    (s.syncFallback p).programs[p].corr.clips = s.programs[p].corr.clips := by
  unfold State.syncFallback
  dsimp only
  split
  · rfl
  · rw [State.recompute_clips, State.modifyProgram_self]

/-! ### A row of notices (R152) -/

/-- Notices offered one after another: the queue takes the first of them while it holds fewer than 32, and the rest count
as lost. -/
theorem State.offerNotice_all (l : List Notice) (s : State) :
    let room := 32 - s.notices.length
    l.foldl (fun t n => t.offerNotice n) s = { s with
      notices := s.notices ++ l.take room
      lostCount := if l.length ≤ room then s.lostCount else min 65535 (s.lostCount + (l.length - room))
      flags := { s.flags with noticesLost := s.flags.noticesLost || decide (room < l.length) } } := by
  induction l generalizing s with
  | nil => simp
  | cons n l ih =>
    dsimp only
    rw [List.foldl_cons, ih, State.offerNotice]
    split
    · next free =>
      have free : s.notices.length < 32 := free
      have more : 32 - s.notices.length = 31 - s.notices.length + 1 := by omega
      have less : 32 - (s.notices.length + 1) = 31 - s.notices.length := by omega
      simp [less, more]
    · next full =>
      have full : ¬ s.notices.length < 32 := full
      have none : 32 - s.notices.length = 0 := by omega
      simp only [State.flagNoticesLost, none, saturating_eq, Config.sat16, List.take_zero, List.length_cons,
        if_neg (Nat.not_succ_le_zero l.length)]
      congr 1
      · split <;> omega
      · simp

/-- What an evaluation offers is read from the triggers and the count, so the offers do not disturb one another. -/
theorem State.offerStepNotices_eq (before : Vector Trigger 48) (s : State) : s.offerStepNotices before =
    ((List.finRange 48).filterMap fun i => s.stepNotice before[i] s.triggers[i] i).foldl (fun t n => t.offerNotice n) s := by
  unfold State.offerStepNotices
  rw [List.foldl_filterMap]
  refine (List.foldl_rel (r := fun t u : State => t = u ∧ t.triggers = s.triggers ∧ t.house = s.house) ⟨rfl, rfl, rfl⟩
    fun i _ t u h => ?_).1
  obtain ⟨same, triggers, house⟩ := h
  subst same
  have notice : t.stepNotice before[i] t.triggers[i] i = s.stepNotice before[i] s.triggers[i] i := by
    unfold State.stepNotice State.triggerNotice
    rw [triggers, house]
  rw [notice]
  cases s.stepNotice before[i] s.triggers[i] i with
  | none => exact ⟨rfl, triggers, house⟩
  | some n =>
    refine ⟨rfl, ?_⟩
    dsimp only
    rw [State.offerNotice_rest]
    exact ⟨triggers, house⟩

/-! ### The three passes over the triggers (R144 to R146) -/

theorem Trigger.step_entry (read : Bool × Int) (t : Trigger) : (t.step read).entry = t.entry := by
  unfold Trigger.step
  split <;> rfl

theorem Trigger.step_off (read : Bool × Int) {t : Trigger} (off : t.status.state = .off) : t.step read = t :=
  if_pos off

theorem Trigger.step_measured (read : Bool × Int) {t : Trigger} (on : t.status.state ≠ .off) :
    (t.step read).status.lastMeasured = read.2 := by
  unfold Trigger.step
  rw [if_neg on]

/-- The part after the level-1 pass of an evaluation. -/
def State.levelOnePass (s : State) : State :=
  { s with triggers := s.triggers.map fun t => if t.entry.level2 then t else t.step (s.condition t.entry) }

theorem State.levelOnePass_get (s : State) (i : Fin 48) : s.levelOnePass.triggers[i] =
    if s.triggers[i].entry.level2 then s.triggers[i] else s.triggers[i].step (s.condition s.triggers[i].entry) := by
  simp [State.levelOnePass]

theorem State.levelOnePass_entry (s : State) (i : Fin 48) : s.levelOnePass.triggers[i].entry = s.triggers[i].entry := by
  rw [State.levelOnePass_get]
  split
  · rfl
  · exact Trigger.step_entry _ _

theorem State.arm_entry (s : State) (t : Trigger) : (s.arm t).entry = t.entry := by
  unfold State.arm
  split <;> rfl

theorem State.arm_state (s : State) (t : Trigger) : (s.arm t).status.state = t.status.state := by
  unfold State.arm
  split <;> rfl

theorem State.arm_measured (s : State) (t : Trigger) : (s.arm t).status.lastMeasured = t.status.lastMeasured := by
  unfold State.arm
  split <;> rfl

section
variable (s : State) (i : Fin 48)

theorem State.stepTriggers_get : s.stepTriggers.triggers[i] =
    if s.triggers[i].entry.level2 then (s.levelOnePass.arm s.triggers[i]).step (s.condition s.triggers[i].entry)
    else s.levelOnePass.arm (s.triggers[i].step (s.condition s.triggers[i].entry)) := by
  have passed : s.stepTriggers.triggers[i] =
      if (s.levelOnePass.arm s.levelOnePass.triggers[i]).entry.level2 then
        (s.levelOnePass.arm s.levelOnePass.triggers[i]).step
          (s.condition (s.levelOnePass.arm s.levelOnePass.triggers[i]).entry)
      else s.levelOnePass.arm s.levelOnePass.triggers[i] := by
    show (Vector.map (fun t : Trigger => if t.entry.level2 then t.step (s.condition t.entry) else t)
      (Vector.map s.levelOnePass.arm s.levelOnePass.triggers))[i] = _
    simp only [Fin.getElem_fin, Vector.getElem_map]
  rw [passed, State.arm_entry, State.levelOnePass_entry, State.levelOnePass_get]
  split <;> rfl

theorem State.stepTriggers_entry : s.stepTriggers.triggers[i].entry = s.triggers[i].entry := by
  rw [State.stepTriggers_get]
  split
  · rw [Trigger.step_entry, State.arm_entry]
  · rw [State.arm_entry, Trigger.step_entry]

theorem State.stepTriggers_off (off : s.triggers[i].status.state = .off) :
    s.stepTriggers.triggers[i].status.state = .off := by
  rw [State.stepTriggers_get]
  split
  · rw [Trigger.step_off _ (by rw [State.arm_state, off]), State.arm_state, off]
  · rw [State.arm_state, Trigger.step_off _ off, off]

theorem State.stepTriggers_measured (on : s.triggers[i].status.state ≠ .off) :
    s.stepTriggers.triggers[i].status.lastMeasured = (s.condition s.triggers[i].entry).2 := by
  rw [State.stepTriggers_get]
  split
  · exact Trigger.step_measured _ (by rw [State.arm_state]; exact on)
  · rw [State.arm_measured, Trigger.step_measured _ on]

/-- A level-1 trigger takes its step and is not armed (R146). -/
theorem State.stepTriggers_level1 (level : s.triggers[i].entry.level2 = false) :
    let stepped := s.triggers[i].step (s.condition s.triggers[i].entry)
    s.stepTriggers.triggers[i] = { stepped with status := { stepped.status with armed := false } } := by
  rw [State.stepTriggers_get, if_neg (by rw [level]; nofun)]
  exact if_neg (by rw [Trigger.step_entry, level]; nofun)

/-- A level-2 trigger takes its step once it is found armed or not after the level-1 pass (R146). -/
theorem State.stepTriggers_level2 (level : s.triggers[i].entry.level2 = true) :
    let x := s.triggers[i]
    let held := x.entry.arming.any fun a => s.levelOnePass.triggers[a].status.state.holds
    let armed := (x.entry.arming.any fun a => !s.triggers[a].entry.level2) &&
      (held || decide (0 < x.status.windowRemaining))
    s.stepTriggers.triggers[i] = ({ x with status := { x.status with
      armed := armed
      windowRemaining := if held then x.entry.armWindow else x.status.windowRemaining - 1
      changed := x.status.changed || decide (x.status.armed ≠ armed) } } : Trigger).step (s.condition x.entry) := by
  have held : s.levelOnePass.armingHolds s.triggers[i].entry =
      s.triggers[i].entry.arming.any fun a => s.levelOnePass.triggers[a].status.state.holds := by
    unfold State.armingHolds
    cases s.triggers[i].entry.arming <;> rfl
  have first : s.levelOnePass.armingIsLevel1 s.triggers[i].entry =
      s.triggers[i].entry.arming.any fun a => !s.triggers[a].entry.level2 := by
    unfold State.armingIsLevel1
    cases s.triggers[i].entry.arming with
    | none => rfl
    | some a => exact congrArg (fun e : TriggerEntry => !e.level2) (s.levelOnePass_entry a)
  rw [State.stepTriggers_get, if_pos level, State.arm, if_pos level, held, first]

end

/-! ### The notices of an evaluation (R147, R151) -/

/-- A step makes a notice where its trigger takes or gives up its votes. -/
theorem State.stepNotice_eq (s : State) (before after : Trigger) (i : Fin 48) : s.stepNotice before after i =
    if after.entry.responses.notice = true ∧ before.status.state.holds ≠ after.status.state.holds then
      some (s.triggerNotice (if after.status.state.holds then .fired else .cleared) i after.entry after.status.lastMeasured)
    else none := by
  unfold State.stepNotice goesActive leaves
  cases after.entry.responses.notice <;> cases before.status.state.holds <;> cases after.status.state.holds <;> rfl

/-! ### The evaluation as a whole (R142 to R144) -/

/-- The part once its triggers have taken their steps and its event counts are 0, before the votes and the notices. -/
def State.judged (s : State) : State :=
  ({ s with triggers := s.stepTriggers.triggers, evaluationDue := false } : State).zeroEventCounts

/-- The notices that the steps of an evaluation make. -/
def State.stepNotices (s : State) : List Notice :=
  (List.finRange 48).filterMap fun i => s.stepNotice s.triggers[i] s.stepTriggers.triggers[i] i

theorem State.evaluate_due {s : State} (due : s.evaluationDue = true) :
    let room := 32 - s.notices.length
    s.evaluate = { s.judged with
      programs := s.judged.applyVotes.programs
      notices := s.notices ++ s.stepNotices.take room
      lostCount := if s.stepNotices.length ≤ room then s.lostCount
        else min 65535 (s.lostCount + (s.stepNotices.length - room))
      flags := { s.flags with noticesLost := s.flags.noticesLost || decide (room < s.stepNotices.length) } } := by
  show (if s.evaluationDue then s.judged.applyVotes.offerStepNotices s.triggers else s) = _
  rw [if_pos due, State.offerStepNotices_eq, State.offerNotice_all, State.applyVotes_rest]
  rfl

theorem State.judged_program (s : State) (p : Fin 16) :
    s.judged.programs[p] = { s.programs[p] with corr := { s.programs[p].corr with clips := 0 } } := by
  simp [State.judged, State.zeroEventCounts, Program.withCorr]

theorem State.judged_stream (s : State) (i : Fin 32) : s.judged.streams[i] =
    ⟨s.streams[i].entry, { s.streams[i].ctx with formatCount := 0, underrunCount := 0 }⟩ := by
  simp [State.judged, State.zeroEventCounts]

/-- What an evaluation makes of a program. -/
theorem State.judged_voted (s : State) (p : Fin 16) {g : Program} (after : g = s.judged.applyVotes.programs[p]) :
    let count (response : Responses → Bool) := (List.finRange 48).countP (s.judged.activeFor p response)
    let votes : Votes := ⟨count (·.mute), count (·.freezeGain), count (·.holdIntegration), count (·.fallback)⟩
    g.votes = votes ∧ g.corr.clips = 0 ∧ g.state = s.programs[p].state ∧
    (g.fallbackInUse = true ↔ 0 < votes.fallback ∧ (s.activeEntry p).fallback ≠ none) ∧
    g = voted s p { s.programs[p] with corr := { s.programs[p].corr with clips := 0 } } votes := by
  intro count votes
  have counted : s.judged.votesOf p = votes := by simp only [State.votesOf, State.countVotes_eq, votes, count]
  have program : g = voted s p { s.programs[p] with corr := { s.programs[p].corr with clips := 0 } } votes := by
    rw [← counted, ← State.judged_program, after]
    exact State.applyVotes_voted p (fun i => by rw [State.judged_stream]) rfl rfl rfl rfl
  let h := s.judged.modifyProgram p fun g => { g with votes := s.judged.votesOf p }
  have synced : g = (h.syncFallback p).programs[p] := after.trans <| State.applyVotes_programs _ _
  have stored : h.programs[p] = { s.judged.programs[p] with votes := votes } := by
    rw [← counted]
    exact State.modifyProgram_self _ _ _
  obtain ⟨state, kept, fallback⟩ := State.syncFallback_stands p h
  have clips := State.syncFallback_clips p h
  rw [← synced, stored, State.judged_program] at clips
  rw [← synced, stored, State.judged_program] at state
  rw [← synced, stored] at kept
  refine ⟨kept, clips, state, ?_, program⟩
  rw [synced, fallback, State.wantsFallback_iff, stored]
  exact .rfl

/-- The notice of a trigger carries its entry, the value measured at this evaluation and its stamp. -/
theorem State.stepNotices_get (s : State) (i : Fin 48) :
    let e := s.triggers[i].entry
    let after := s.stepTriggers.triggers[i].status.state.holds
    s.stepNotice s.triggers[i] s.stepTriggers.triggers[i] i =
      if e.responses.notice = true ∧ s.triggers[i].status.state.holds ≠ after then
        some ⟨if after then .fired else .cleared, some i, if e.level2 then 2 else 1, e.condition, e.object, e.target,
          (s.condition e).2, e.responses, s.house.count.setWidth 32⟩
      else none := by
  intro e after
  rw [State.stepNotice_eq, State.stepTriggers_entry]
  split
  · next noted =>
    have on : s.triggers[i].status.state ≠ .off := fun off => noted.2 (by rw [off, s.stepTriggers_off i off])
    rw [State.triggerNotice, s.stepTriggers_measured i on]
    rfl
  · rfl

/-- Settles O34: the passes over the triggers, the votes and the notices of an evaluation, each by its own rule. -/
theorem alarmEvaluationResult : Obligations.AlarmEvaluationResult := by
  intro s stepped holds
  have holds_eq (x : TriggerState) : holds x = x.holds := x.holds_eq.symm
  refine ⟨fun due => ⟨s.evaluate, rfl, ?_⟩, fun idle => ?_, conditionTable s⟩
  · have after := State.evaluate_due due
    have triggers : s.evaluate.triggers = s.stepTriggers.triggers := by rw [after]; rfl
    have programs : s.evaluate.programs = s.judged.applyVotes.programs := by rw [after]
    have streams : s.evaluate.streams = s.judged.streams := by rw [after]
    have made : s.stepNotices = (List.finRange 48).filterMap _ := List.filterMap_congr fun i _ => s.stepNotices_get i
    refine ⟨?_, fun i level => ?_, fun i level => ?_, fun p => ?_, ?_, fun i => ?_⟩
    · rw [after]
      dsimp only [State.judged, State.zeroEventCounts]
    · rw [triggers]
      exact s.stepTriggers_level1 i level
    · rw [triggers]
      refine (s.stepTriggers_level2 i level).trans ?_
      simp only [holds_eq, State.levelOnePass_get, stepped]
    · simp only [State.activeFor_congr (s := s.judged) triggers]
      exact s.judged_voted p (by rw [programs])
    · rw [triggers]
      simp only [holds_eq]
      rw [after, made]
      exact ⟨rfl, rfl, rfl⟩
    · rw [streams]
      exact s.judged_stream i
  · exact congrArg _ (if_neg (by rw [idle]; nofun) : s.evaluate = s)

end Sys2Proof.Machine
end

section
/-! Each kind of field is read back from its bytes, wherever it stands (chapter 11, R184). -/

namespace Sys2Proof.Machine

/-! ### Bytes in front of a field are passed over -/

section
variable (front rest : List Byte) (off : Nat) (skip : front.length ≤ off)
include skip

@[simp] theorem wordAt_append_right (w len : Nat) :
    wordAt w (front ++ rest) off len = wordAt w rest (off - front.length) len := by
  rw [wordAt, fieldAt_append_right _ _ _ _ skip, wordAt]

@[simp] theorem signedAt_append_right : signedAt (front ++ rest) off = signedAt rest (off - front.length) := by
  rw [signedAt, wordAt_append_right _ _ _ skip, signedAt]

@[simp] theorem flagAt_append_right : flagAt (front ++ rest) off = flagAt rest (off - front.length) := by
  unfold flagAt
  rw [fieldAt_append_right _ _ _ _ skip]

@[simp] theorem rangeAt_append_right (len lo hi : Nat) :
    rangeAt (front ++ rest) off len lo hi = rangeAt rest (off - front.length) len lo hi := by
  unfold rangeAt
  rw [fieldAt_append_right _ _ _ _ skip]

@[simp] theorem signedRangeAt_append_right (lo hi : Int) :
    signedRangeAt (front ++ rest) off lo hi = signedRangeAt rest (off - front.length) lo hi := by
  unfold signedRangeAt
  rw [signedAt_append_right _ _ _ skip]

@[simp] theorem indexAt_append_right (n : Nat) : indexAt n (front ++ rest) off = indexAt n rest (off - front.length) := by
  unfold indexAt
  rw [fieldAt_append_right _ _ _ _ skip]

@[simp] theorem indexOrNoneAt_append_right (n : Nat) :
    indexOrNoneAt n (front ++ rest) off = indexOrNoneAt n rest (off - front.length) := by
  unfold indexOrNoneAt
  rw [fieldAt_append_right _ _ _ _ skip, indexAt_append_right _ _ _ skip]

@[simp] theorem codeAt_append_right {α : Type} (codes : List α) :
    codeAt codes (front ++ rest) off = codeAt codes rest (off - front.length) := by
  unfold codeAt
  rw [fieldAt_append_right _ _ _ _ skip]

@[simp] theorem responsesAt_append_right : responsesAt (front ++ rest) off = responsesAt rest (off - front.length) := by
  unfold responsesAt
  rw [rangeAt_append_right _ _ _ skip]

end

/-! ### A field at the front is read back -/

section
variable (rest : List Byte)

/-- A number that its bytes hold. -/
theorem fieldAt_front {n v : Nat} (fits : v < 256 ^ n) : fieldAt (natToBytes n v ++ rest) 0 n = v := by
  rw [fieldAt_natToBytes, Nat.mod_eq_of_lt fits]

@[simp] theorem wordAt_front {w n : Nat} (x : BitVec w) (width : w = 8 * n) : wordAt w (natToBytes n x.toNat ++ rest) 0 n = x := by
  subst width
  rw [wordAt, fieldAt_word, BitVec.ofNat_toNat, BitVec.setWidth_eq]

theorem signedAt_front {v : Int} (range : -2147483648 ≤ v ∧ v ≤ 2147483647) :
    signedAt (intToBytes 4 v ++ rest) 0 = v := by
  show (wordAt 32 (natToBytes 4 (BitVec.ofInt 32 v).toNat ++ rest) 0 4).toInt = v
  rw [wordAt_front (n := 4) rest (BitVec.ofInt 32 v) rfl, BitVec.toInt_ofInt]
  exact Int.bmod_eq_of_le (by omega) (by omega)

@[simp] theorem flagAt_front (b : Bool) : flagAt (flagByte b ++ rest) 0 = some b := by
  unfold flagAt flagByte
  rw [fieldAt_front _ (by split <;> decide)]
  cases b <;> rfl

theorem rangeAt_front {n lo hi v : Nat} (range : lo ≤ v ∧ v ≤ hi) (fits : hi < 256 ^ n) :
    rangeAt (natToBytes n v ++ rest) 0 n lo hi = some v := by
  unfold rangeAt
  rw [fieldAt_front _ (range.2.trans_lt fits)]
  exact if_pos range

theorem signedRangeAt_front {lo hi v : Int} (range : lo ≤ v ∧ v ≤ hi) (low : -2147483648 ≤ lo) (high : hi ≤ 2147483647) :
    signedRangeAt (intToBytes 4 v ++ rest) 0 lo hi = some v := by
  unfold signedRangeAt
  rw [signedAt_front _ ⟨low.trans range.1, range.2.trans high⟩]
  exact if_pos range

theorem indexAt_front {n : Nat} (i : Fin n) (small : n ≤ 256) : indexAt n (natToBytes 1 i.val ++ rest) 0 = some i := by
  unfold indexAt
  rw [fieldAt_front _ (i.isLt.trans_le small)]
  exact dif_pos i.isLt

theorem indexOrNoneAt_front {n : Nat} (i : Option (Fin n)) (small : n ≤ 255) :
    indexOrNoneAt n (indexOrNone i ++ rest) 0 = some i := by
  unfold indexOrNoneAt
  cases i with
  | none => exact if_pos (fieldAt_front _ (by decide))
  | some i =>
    have lt := i.isLt
    rw [indexOrNone, indexAt_front _ _ (by omega), fieldAt_front _ (by omega), if_neg (by omega)]
    rfl

theorem codeAt_front {α : Type} [DecidableEq α] {codes : List α} {x : α} (known : x ∈ codes) (small : codes.length ≤ 256) :
    codeAt codes (codeByte codes x ++ rest) 0 = some x := by
  have lt := List.idxOf_lt_length_of_mem known
  rw [codeAt, codeByte, fieldAt_front _ (lt.trans_le small), List.getElem?_idxOf known]

@[simp] theorem responsesAt_front (r : Responses) : responsesAt (responsesByte r ++ rest) 0 = some r := by
  obtain ⟨notice, mute, freeze, hold, fallback⟩ := r
  unfold responsesAt responsesByte
  rw [rangeAt_front _ (by cases notice <;> cases mute <;> cases freeze <;> cases hold <;> cases fallback <;> decide) (by decide)]
  cases notice <;> cases mute <;> cases freeze <;> cases hold <;> cases fallback <;> rfl

end

/-! ### Lists in places (R184) -/

theorem inPlaces_length {width : Nat} {bs : List Byte} (fits : bs.length ≤ width) : (inPlaces width bs).length = width := by
  rw [inPlaces, List.length_append, List.length_replicate]
  omega

/-- Items of `k` bytes each. -/
theorem flatMap_length {α : Type} {k : Nat} {item : α → List Byte} (same : ∀ x, (item x).length = k) (l : List α) :
    (l.flatMap item).length = k * l.length := by
  induction l with
  | nil => rfl
  | cons x l ih =>
    rw [List.flatMap_cons, List.length_append, ih, same, List.length_cons, Nat.mul_succ, Nat.add_comm]

/-- Reading every place of a list gives the list, where the reading of the place `m` gives the item `m`. -/
theorem mapM_range_eq_some {α : Type} (l : List α) (read : Nat → Option α)
    (item : ∀ (m : Nat) (h : m < l.length), read m = some l[m]) : (List.range l.length).mapM read = some l := by
  induction l generalizing read with
  | nil => rfl
  | cons x l ih =>
    have first : read 0 = some x := item 0 (Nat.succ_pos _)
    have others := ih (fun m => read (m + 1)) fun m h => item (m + 1) (Nat.succ_lt_succ h)
    rw [List.length_cons, List.range_succ_eq_map, List.mapM_cons, first, List.mapM_map]
    exact congrArg (fun o => o.bind fun l => some (x :: l)) others

/-- What stands in front of the place `m` of a list, in it and behind it. -/
theorem inPlaces_split {α : Type} (width : Nat) (item : α → List Byte) (l : List α) (rest : List Byte) (m : Nat)
    (h : m < l.length) : ∃ tail, inPlaces width (l.flatMap item) ++ rest = (l.take m).flatMap item ++ (item l[m] ++ tail) := by
  have parts : l = l.take m ++ l[m] :: l.drop (m + 1) := by rw [List.getElem_cons_drop, List.take_append_drop]
  refine ⟨(l.drop (m + 1)).flatMap item ++ (List.replicate (width - (l.flatMap item).length) 0 ++ rest), ?_⟩
  conv_lhs => rw [inPlaces]; arg 1; arg 1; rw [parts]
  simp only [List.flatMap_append, List.flatMap_cons, List.append_assoc]

theorem takePlaces_length {α : Type} {k : Nat} {item : α → List Byte} (same : ∀ x, (item x).length = k) {l : List α} {m : Nat}
    (h : m < l.length) : ((l.take m).flatMap item).length = k * m := by
  rw [flatMap_length same, List.length_take_of_le h.le]

/-- The bytes of a member's place. -/
def memberBytes (m : Member) : List Byte := natToBytes 1 m.slot.val ++ codeByte roleCodes m.role

theorem memberBytes_length (m : Member) : (memberBytes m).length = 2 := by simp [memberBytes]

/-- The members of the first `count` places from `off` on. -/
def membersFrom (bs : List Byte) (off count : Nat) : Option (List Member) :=
  (List.range count).mapM fun m => do
    let slot ← indexAt 128 bs (off + 2 * m)
    let role ← codeAt roleCodes bs (off + 1 + 2 * m)
    return ⟨slot, role⟩

theorem membersAt_eq (bs : List Byte) (count : Nat) : membersAt bs count = membersFrom bs 2 count := rfl

/-- The indices of the first `count` places from `off` on. -/
def indicesFrom (n : Nat) (bs : List Byte) (off count : Nat) : Option (List (Fin n)) :=
  (List.range count).mapM fun m => indexAt n bs (off + m)

theorem mapM_indexAt (n : Nat) (bs : List Byte) (off count : Nat) :
    ((List.range count).mapM fun m => indexAt n bs (off + m)) = indicesFrom n bs off count := rfl

@[simp] theorem membersFrom_append_right (front rest : List Byte) (off count : Nat) (skip : front.length ≤ off) :
    membersFrom (front ++ rest) off count = membersFrom rest (off - front.length) count := by
  unfold membersFrom
  congr 1
  funext m
  rw [indexAt_append_right _ _ _ (by omega), codeAt_append_right _ _ _ (by omega), Nat.sub_add_comm skip,
    Nat.sub_add_comm (by omega), Nat.sub_add_comm skip]

@[simp] theorem indicesFrom_append_right (n : Nat) (front rest : List Byte) (off count : Nat) (skip : front.length ≤ off) :
    indicesFrom n (front ++ rest) off count = indicesFrom n rest (off - front.length) count := by
  unfold indicesFrom
  congr 1
  funext m
  rw [indexAt_append_right _ _ _ (by omega), Nat.sub_add_comm skip]

theorem mem_roleCodes (r : Role) : r ∈ roleCodes := by cases r <;> decide

@[simp] theorem membersFrom_front (rest : List Byte) (width : Nat) (l : List Member) :
    membersFrom (inPlaces width (l.flatMap memberBytes) ++ rest) 0 l.length = some l := by
  refine mapM_range_eq_some l _ fun m h => ?_
  obtain ⟨tail, split⟩ := inPlaces_split width memberBytes l rest m h
  have skip := takePlaces_length memberBytes_length h
  rw [split, indexAt_append_right _ _ _ (by omega), codeAt_append_right _ _ _ (by omega), skip, memberBytes,
    List.append_assoc, show 0 + 2 * m - 2 * m = 0 by omega, show 0 + 1 + 2 * m - 2 * m = 1 by omega, indexAt_front _ _ (by decide),
    codeAt_append_right _ _ _ (by simp), natToBytes_length, codeAt_front _ (mem_roleCodes _) (by decide)]
  rfl

theorem indicesFrom_front {n : Nat} (small : n ≤ 256) (rest : List Byte) (width : Nat) (l : List (Fin n)) :
    indicesFrom n (inPlaces width (l.flatMap fun i => natToBytes 1 i.val) ++ rest) 0 l.length = some l := by
  refine mapM_range_eq_some l _ fun m h => ?_
  obtain ⟨tail, split⟩ := inPlaces_split width (fun i : Fin n => natToBytes 1 i.val) l rest m h
  have skip := takePlaces_length (item := fun i : Fin n => natToBytes 1 i.val) (fun _ => natToBytes_length ..) h
  rw [split, indexAt_append_right _ _ _ (by omega), skip, show 0 + m - 1 * m = 0 by omega, indexAt_front _ _ small]

end Sys2Proof.Machine
end

section
/-! The configuration entries are read back from a reply's bytes (R136, R184). -/

namespace Sys2Proof.Machine

/-! ### Every code stands in its table (Tables 11-4 and 11-7) -/

theorem mem_rateCodes (x : Rate) : x ∈ rateCodes := by cases x <;> decide
theorem mem_formatCodes (x : SampleFormat) : x ∈ formatCodes := by cases x <;> decide
theorem mem_filterCodes (x : FilterLength) : x ∈ filterCodes := by cases x <;> decide
theorem mem_concealmentCodes (x : Concealment) : x ∈ concealmentCodes := by cases x <;> decide
theorem mem_modeCodes (x : LoudnessMode) : x ∈ modeCodes := by cases x <;> decide
theorem mem_moveModeCodes (x : MoveMode) : x ∈ moveModeCodes := by cases x <;> decide
theorem mem_carrierCodes (x : Carrier) : x ∈ carrierCodes := by cases x <;> decide
theorem mem_conditionCodes (x : Condition) : x ∈ conditionCodes := by cases x <;> decide

/-! ### Entry by entry, whatever follows its bytes -/

section
variable (rest : List Byte)

theorem readSettings_settingsBytes (s : State) (unit : s.settings.unit ≠ 255) (low : 1 ≤ s.settings.staleTimeout)
    (high : s.settings.staleTimeout ≤ 60) : readSettings (settingsBytes s ++ rest) = some s.settings := by
  have number : 0 ≤ s.settings.unit.toNat ∧ s.settings.unit.toNat ≤ 254 := by bv_omega
  have timeout : 1 ≤ s.settings.staleTimeout ∧ s.settings.staleTimeout ≤ 60 := ⟨low, high⟩
  unfold readSettings settingsBytes
  simp [rangeAt_front _ number (show 254 < 256 ^ 1 by decide),
    rangeAt_front _ timeout (show 60 < 256 ^ 1 by decide)]

theorem readStream_streamBytes {e : StreamEntry} (range : e.InRange) : readStream (streamBytes e ++ rest) = some e := by
  have first : 0 ≤ e.first ∧ e.first ≤ 127 := ⟨Nat.zero_le _, range.first⟩
  have gp : 0 ≤ e.gp ∧ e.gp ≤ 64 := ⟨Nat.zero_le _, range.gp⟩
  have gi : 0 ≤ e.gi ∧ e.gi ≤ 16 := ⟨Nat.zero_le _, range.gi⟩
  unfold readStream streamBytes
  simp [rangeAt_front _ range.lanes (show 16 < 256 ^ 1 by decide),
    rangeAt_front _ first (show 127 < 256 ^ 1 by decide), rangeAt_front _ range.targetFill (show 1536 < 256 ^ 2 by decide),
    rangeAt_front _ range.gapTimeout (show 500 < 256 ^ 2 by decide),
    rangeAt_front _ range.holdoverLimit (show 100 < 256 ^ 1 by decide),
    rangeAt_front _ gp (show 64 < 256 ^ 1 by decide), rangeAt_front _ gi (show 16 < 256 ^ 1 by decide),
    codeAt_front _ (mem_rateCodes _) (show rateCodes.length ≤ 256 by decide),
    codeAt_front _ (mem_formatCodes _) (show formatCodes.length ≤ 256 by decide),
    codeAt_front _ (mem_filterCodes _) (show filterCodes.length ≤ 256 by decide),
    codeAt_front _ (mem_concealmentCodes _) (show concealmentCodes.length ≤ 256 by decide)]

theorem readEgress_egressBytes {e : EgressEntry} (size : e.packetSize ∈ [6, 12, 24, 48]) :
    readEgress (egressBytes e ++ rest) = some e := by
  have small : e.packetSize < 256 ^ 1 := by
    simp only [List.mem_cons, List.not_mem_nil, or_false] at size
    omega
  simp only [readEgress, egressBytes, List.append_assoc, fieldAt_append_right, natToBytes_length, codeByte_length,
    Nat.reduceLeDiff, Nat.reduceSub, fieldAt_front _ small, if_pos size]
  simp [codeAt_front _ (mem_carrierCodes _) (show carrierCodes.length ≤ 256 by decide)]

theorem markedMicros_none (free : BitVec 32) : markedMicros free none = flagByte true ++ natToBytes 4 free.toNat := rfl

theorem markedMicros_some (free : BitVec 32) (v : Nat) : markedMicros free (some v) = flagByte false ++ natToBytes 4 v := rfl

theorem markedMicros_length (free : BitVec 32) (latency : Option Nat) : (markedMicros free latency).length = 5 := by
  cases latency <;> simp [markedMicros]

theorem readLatency_latencyBytes (e : LatencyEntry) (free : BitVec 32) (range : ∀ v, e.latency = some v → v ≤ 1000000) :
    readLatency (latencyBytes free e ++ rest) = some ⟨e.valid, e.reporter, e.latency, e.lock, e.ignore⟩ := by
  cases latency : e.latency with
  | none => simp [readLatency, latencyBytes, latency, markedMicros_none]
  | some v =>
    have value : 0 ≤ v ∧ v ≤ Config.latencyLimit := ⟨Nat.zero_le _, range v latency⟩
    simp [readLatency, latencyBytes, latency, markedMicros_some,
      rangeAt_front _ value (show Config.latencyLimit < 256 ^ 4 by decide)]

theorem objects_le (c : Condition) : c.objects ≤ 32 := by cases c <;> decide

@[simp] theorem responsesByte_length (r : Responses) : (responsesByte r).length = 1 := natToBytes_length ..

theorem readTrigger_triggerBytes {e : TriggerEntry} (armWindow : e.armWindow ≤ 600) (object : e.object < e.condition.objects)
    (fireCount : 1 ≤ e.fireCount ∧ e.fireCount ≤ 600) (clearCount : 1 ≤ e.clearCount ∧ e.clearCount ≤ 600)
    (parameter : -2147483648 ≤ e.parameter ∧ e.parameter ≤ 2147483647)
    (levelOne : e.level2 = false → e.arming = none ∧ e.armWindow = 0) :
    readTrigger (triggerBytes e ++ rest) = some e := by
  have window : 0 ≤ e.armWindow ∧ e.armWindow ≤ 600 := ⟨Nat.zero_le _, armWindow⟩
  have named : 0 ≤ e.object ∧ e.object ≤ e.condition.objects - 1 := ⟨Nat.zero_le _, Nat.le_sub_one_of_lt object⟩
  have kinds : e.condition.objects - 1 < 256 ^ 1 := (Nat.sub_le _ _).trans_lt ((objects_le _).trans_lt (by decide))
  have level : 1 ≤ (if e.level2 = true then 2 else 1) ∧ (if e.level2 = true then 2 else 1) ≤ 2 := by split <;> decide
  have arming : (if e.level2 = true then e.arming else none) = e.arming := by
    split
    · rfl
    · next one => rw [(levelOne (Bool.eq_false_of_not_eq_true one)).1]
  have armed : (if e.level2 = true then e.armWindow else 0) = e.armWindow := by
    split
    · rfl
    · next one => rw [(levelOne (Bool.eq_false_of_not_eq_true one)).2]
  unfold readTrigger triggerBytes
  simp [rangeAt_front _ level (show 2 < 256 ^ 1 by decide),
    indexOrNoneAt_front _ _ (show 48 ≤ 255 by decide), rangeAt_front _ window (show 600 < 256 ^ 2 by decide),
    codeAt_front _ (mem_conditionCodes _) (show conditionCodes.length ≤ 256 by decide), rangeAt_front _ named kinds,
    signedAt_front _ parameter, rangeAt_front _ fireCount (show 600 < 256 ^ 2 by decide),
    rangeAt_front _ clearCount (show 600 < 256 ^ 2 by decide), indexOrNoneAt_front _ _ (show 16 ≤ 255 by decide), arming, armed]

theorem membersPlaces_length {l : List Member} (fits : l.length ≤ 8) :
    (inPlaces 16 (l.flatMap fun m => natToBytes 1 m.slot.val ++ codeByte roleCodes m.role)).length = 16 := by
  apply inPlaces_length
  rw [flatMap_length (k := 2) fun m => by simp]
  omega

theorem indexPlaces_length {n width : Nat} {l : List (Fin n)} (fits : l.length ≤ width) :
    (inPlaces width (l.flatMap fun i => natToBytes 1 i.val)).length = width := by
  apply inPlaces_length
  rw [flatMap_length (k := 1) fun i => natToBytes_length ..]
  omega

theorem ProgramEntry.InRange.fallback_length {e : ProgramEntry} (range : e.InRange) : (e.fallback.getD []).length ≤ 8 := by
  cases fallback : e.fallback with
  | none => exact Nat.zero_le _
  | some l => exact (range.fallback l fallback).trans_le range.members.2

/-- Every field of a PROGRAM entry, as its reading finds it in `bs` (Table 11-6). -/
structure ProgramEntry.StandsIn (e : ProgramEntry) (bs : List Byte) : Prop where
  valid : flagAt bs 0 = some e.valid
  count : rangeAt bs 1 1 1 8 = some e.members.length
  members : membersFrom bs 2 e.members.length = some e.members
  fallbackPresent : flagAt bs 18 = some e.fallback.isSome
  fallback : ∀ l, e.fallback = some l → indicesFrom 128 bs 19 e.members.length = some l
  mode : codeAt modeCodes bs 27 = some e.mode
  target : signedRangeAt bs 28 (-3600) (-1000) = some e.target
  maxBoost : signedRangeAt bs 32 0 1200 = some e.maxBoost
  maxCut : signedRangeAt bs 36 0 2400 = some e.maxCut
  slew : rangeAt bs 40 1 1 100 = some e.slew
  freezeThreshold : signedRangeAt bs 41 (-7000) (-2000) = some e.freezeThreshold
  window : rangeAt bs 45 1 3 120 = some e.window
  preset : signedRangeAt bs 46 (-e.maxCut) e.maxBoost = some e.preset
  quietThreshold : signedRangeAt bs 50 (-7000) (-1000) = some e.quietThreshold
  chainLength : rangeAt bs 54 1 0 4 = some e.chain.length
  chain : indicesFrom 64 bs 55 e.chain.length = some e.chain
  offset : signedRangeAt bs 59 (-100000) 1000000 = some e.offset
  trim : signedRangeAt bs 63 (-4800) 4800 = some e.trim
  tolerance : rangeAt bs 67 2 0 4800 = some e.tolerance
  moveMode : codeAt moveModeCodes bs 69 = some e.moveMode
  quietWait : rangeAt bs 70 2 1 600 = some e.quietWait

theorem ProgramEntry.StandsIn.read {e : ProgramEntry} {bs : List Byte} (h : e.StandsIn bs) (distinct : e.chain.Nodup) :
    readProgram bs = some e := by
  unfold readProgram
  simp only [membersAt_eq, mapM_indexAt, h.valid, h.count, h.members, h.fallbackPresent, h.mode, h.target, h.maxBoost, h.maxCut,
    h.slew, h.freezeThreshold, h.window, h.preset, h.quietThreshold, h.chainLength, h.chain, h.offset, h.trim, h.tolerance,
    h.moveMode, h.quietWait, distinct, Option.bind_eq_bind, Option.bind_some, Option.pure_def, if_true]
  cases listed : e.fallback with
  | none =>
    simp only [Option.isSome_none, Bool.false_eq_true, if_false]
    rw [← listed]
  | some l =>
    simp only [h.fallback l listed, Option.isSome_some, Option.map_some, Option.bind_some, if_true]
    rw [← listed]

theorem ProgramEntry.InRange.standsIn {e : ProgramEntry} (range : e.InRange) : e.StandsIn (programBytes e ++ rest) := by
  have tolerance : 0 ≤ e.tolerance ∧ e.tolerance ≤ 4800 := ⟨Nat.zero_le _, range.tolerance⟩
  have named : 0 ≤ e.chain.length ∧ e.chain.length ≤ 4 := ⟨Nat.zero_le _, range.chain.1⟩
  have boost : 0 ≤ e.maxBoost ∧ e.maxBoost ≤ 1200 := ⟨range.maxBoost, range.greatest.1⟩
  have cut : 0 ≤ e.maxCut ∧ e.maxCut ≤ 2400 := ⟨range.maxCut, range.greatest.2⟩
  have lowest : -2147483648 ≤ -e.maxCut := by omega
  have highest : e.maxBoost ≤ 2147483647 := by omega
  have members := membersPlaces_length range.members.2
  have fallback := indexPlaces_length range.fallback_length
  have chain := indexPlaces_length range.chain.1
  obtain ⟨bs, layout⟩ : ∃ bs, bs = programBytes e ++ rest := ⟨_, rfl⟩
  rw [← layout]
  unfold programBytes at layout
  simp only [List.append_assoc] at layout
  exact {
    valid := by simp [layout]
    count := by simp [layout, rangeAt_front _ range.members]
    members := by
      simp only [layout, membersFrom_append_right, flagByte_length, natToBytes_length, Nat.reduceLeDiff, Nat.reduceSub]
      exact membersFrom_front _ _ _
    fallbackPresent := by simp [layout, members]
    fallback := by
      intro l listed
      simp only [layout, indicesFrom_append_right, flagByte_length, natToBytes_length, members, Nat.reduceLeDiff, Nat.reduceSub,
        listed, Option.getD_some]
      rw [← range.fallback l listed]
      exact indicesFrom_front (by decide) _ _ _
    mode := by simp [layout, members, fallback, codeAt_front _ (mem_modeCodes _) (show modeCodes.length ≤ 256 by decide)]
    target := by simp [layout, members, fallback, signedRangeAt_front _ range.target]
    maxBoost := by simp [layout, members, fallback, signedRangeAt_front _ boost]
    maxCut := by simp [layout, members, fallback, signedRangeAt_front _ cut]
    slew := by simp [layout, members, fallback, rangeAt_front _ range.slew]
    freezeThreshold := by simp [layout, members, fallback, signedRangeAt_front _ range.freezeThreshold]
    window := by simp [layout, members, fallback, rangeAt_front _ range.window]
    preset := by simp [layout, members, fallback, signedRangeAt_front _ range.preset lowest highest]
    quietThreshold := by simp [layout, members, fallback, signedRangeAt_front _ range.quietThreshold]
    chainLength := by simp [layout, members, fallback, rangeAt_front _ named]
    chain := by
      simp only [layout, indicesFrom_append_right, flagByte_length, natToBytes_length, intToBytes_length, codeByte_length,
        members, fallback, Nat.reduceLeDiff, Nat.reduceSub]
      exact indicesFrom_front (by decide) _ _ _
    offset := by simp [layout, members, fallback, chain, signedRangeAt_front _ range.offset]
    trim := by simp [layout, members, fallback, chain, signedRangeAt_front _ range.trim]
    tolerance := by simp [layout, members, fallback, chain, rangeAt_front _ tolerance]
    moveMode := by
      simp [layout, members, fallback, chain,
        codeAt_front _ (mem_moveModeCodes _) (show moveModeCodes.length ≤ 256 by decide)]
    quietWait := by simp [layout, members, fallback, chain, rangeAt_front _ range.quietWait]
  }

end

/-! ### How many bytes an entry takes -/

theorem settingsBytes_length (s : State) : (settingsBytes s).length = 41 := by
  unfold settingsBytes
  simp

theorem streamBytes_length (e : StreamEntry) : (streamBytes e).length = 18 := by
  unfold streamBytes
  simp

theorem egressBytes_length (e : EgressEntry) : (egressBytes e).length = 20 := by simp [egressBytes]

theorem latencyBytes_length (free : BitVec 32) (e : LatencyEntry) : (latencyBytes free e).length = 19 := by
  simp [latencyBytes, markedMicros_length, wideCount]

theorem triggerBytes_length (e : TriggerEntry) : (triggerBytes e).length = 18 := by
  unfold triggerBytes
  simp

theorem ProgramEntry.InRange.bytes_length {e : ProgramEntry} (range : e.InRange) : (programBytes e).length = 72 := by
  have members := membersPlaces_length range.members.2
  have fallback := indexPlaces_length range.fallback_length
  have chain := indexPlaces_length range.chain.1
  unfold programBytes
  simp only [List.length_append, flagByte_length, natToBytes_length, intToBytes_length, codeByte_length, members, fallback, chain]

/-! ### What a TRIGGER entry takes from its bytes (R136) -/

theorem rangeAt_eq_some {bs : List Byte} {off len lo hi v : Nat} (h : rangeAt bs off len lo hi = some v) :
    v = fieldAt bs off len := by
  unfold rangeAt at h
  dsimp only at h
  split at h <;> cases h
  rfl

theorem indexOrNoneAt_eq_some {n : Nat} {bs : List Byte} {off : Nat} {i : Option (Fin n)}
    (h : indexOrNoneAt n bs off = some i) : i.elim 255 (·.val) = fieldAt bs off 1 := by
  unfold indexOrNoneAt at h
  split at h
  · next none =>
    cases h
    exact none.symm
  · obtain ⟨i, index, rfl⟩ := Option.map_eq_some_iff.mp h
    unfold indexAt at index
    dsimp only at index
    split at index <;> cases index
    rfl

theorem triggerLevelRead : TriggerLevelRead := by
  intro contents e read
  unfold readTrigger at read
  obtain ⟨_, -, read⟩ := Option.bind_eq_some_iff.mp read
  obtain ⟨level, levelRead, read⟩ := Option.bind_eq_some_iff.mp read
  obtain ⟨arming, armingRead, read⟩ := Option.bind_eq_some_iff.mp read
  obtain ⟨window, windowRead, read⟩ := Option.bind_eq_some_iff.mp read
  obtain ⟨condition, -, read⟩ := Option.bind_eq_some_iff.mp read
  obtain ⟨object, -, read⟩ := Option.bind_eq_some_iff.mp read
  obtain ⟨fireCount, -, read⟩ := Option.bind_eq_some_iff.mp read
  obtain ⟨clearCount, -, read⟩ := Option.bind_eq_some_iff.mp read
  obtain ⟨latch, -, read⟩ := Option.bind_eq_some_iff.mp read
  obtain ⟨responses, -, read⟩ := Option.bind_eq_some_iff.mp read
  obtain ⟨target, -, made⟩ := Option.bind_eq_some_iff.mp read
  cases made
  have bounds := rangeAt_bounds levelRead
  have field := rangeAt_eq_some levelRead
  refine ⟨fun one => ?_, fun two => ?_⟩
  · have first : ¬ level = 2 := by omega
    simp [first]
  · have second : level = 2 := by omega
    simp [second, indexOrNoneAt_eq_some armingRead, rangeAt_eq_some windowRead]

/-! ### The six tables -/

/-- Settles O50: each entry is read back with nothing behind its bytes. -/
theorem configurationEntriesRoundTrip : Obligations.ConfigurationEntriesRoundTrip := by
  refine ⟨triggerLevelRead, fun s unit low high => ⟨settingsBytes_length s, ?_⟩, fun e range => ⟨streamBytes_length e, ?_⟩,
    fun e range => ⟨range.bytes_length, ?_⟩, fun e size => ⟨egressBytes_length e, ?_⟩,
    fun e free range => ⟨latencyBytes_length free e, ?_⟩,
    fun e window object fireLow fireHigh clearLow clearHigh low high levelOne => ⟨triggerBytes_length e, ?_⟩⟩
  · simpa using readSettings_settingsBytes [] s unit low high
  · simpa using readStream_streamBytes [] range
  · simpa using (range.standsIn []).read range.chain.2
  · simpa using readEgress_egressBytes [] size
  · simpa using readLatency_latencyBytes [] e free range
  · simpa using readTrigger_triggerBytes [] window object ⟨fireLow, fireHigh⟩ ⟨clearLow, clearHigh⟩ ⟨low, high⟩ levelOne

end Sys2Proof.Machine
end

section
/-! The exact searches for decimal logarithms against the logarithm itself, and the loudness function (R67; log 14). -/

namespace Sys2Proof.Machine

/-! ### The search -/

/-- The search finds the greatest number that passes a test which holds up to it. -/
theorem searchUp_eq {test : Nat → Bool} {greatest : Nat} (passes : ∀ t, test t = true ↔ t ≤ greatest) (bits acc : Nat)
    (low : acc ≤ greatest) (high : greatest < acc + 2 ^ bits) : searchUp test bits acc = greatest := by
  induction bits generalizing acc with
  | zero =>
    rw [pow_zero] at high
    rw [searchUp]
    omega
  | succ bits ih =>
    rw [pow_succ] at high
    rw [searchUp]
    split
    · next pass => exact ih _ ((passes _).mp pass) (by omega)
    · next fail =>
      rw [passes] at fail
      exact ih _ low (by omega)

/-! ### Decimal logarithms -/

theorem tenPowerAtMost_iff (j : Int) (n : Nat) {m : Nat} (pos : 0 < m) :
    tenPowerAtMost j n m = true ↔ (10 : ℝ) ^ j ≤ (n : ℝ) / m := by
  have posReal : (0 : ℝ) < m := Nat.cast_pos.mpr pos
  unfold tenPowerAtMost
  split
  · next nonneg =>
    obtain ⟨i, rfl⟩ := Int.eq_ofNat_of_zero_le nonneg
    rw [decide_eq_true_eq, zpow_natCast, le_div_iff₀ posReal, Int.toNat_natCast]
    exact_mod_cast Iff.rfl
  · next negative =>
    obtain ⟨i, rfl⟩ := Int.exists_eq_neg_ofNat (Int.le_of_lt (not_le.mp negative))
    rw [decide_eq_true_eq, zpow_neg, zpow_natCast, neg_neg, Int.toNat_natCast, le_div_iff₀ posReal,
      inv_mul_le_iff₀ (by positivity), mul_comm]
    exact_mod_cast Iff.rfl

/-- A decimal logarithm of a positive whole number lies between 0 and the number's binary digits. -/
theorem logb_ten_natCast_mem {n : Nat} (pos : 0 < n) : 0 ≤ Real.logb 10 n ∧ Real.logb 10 n ≤ (Nat.log2 n + 1 : Nat) := by
  have one : (1 : ℝ) ≤ n := Nat.one_le_cast.mpr pos
  refine ⟨Real.logb_nonneg (by norm_num) one, ?_⟩
  rw [Real.logb_le_iff_le_rpow (by norm_num) (zero_lt_one.trans_le one), Real.rpow_natCast]
  calc (n : ℝ) ≤ (2 : ℝ) ^ (Nat.log2 n + 1) := by exact_mod_cast Nat.lt_log2_self.le
    _ ≤ 10 ^ (Nat.log2 n + 1) := pow_le_pow_left₀ (by norm_num) (by norm_num) _

theorem rat_eq_toNat_div {q : Rat} (nonneg : 0 ≤ q) : (q : ℝ) = (q.num.toNat : ℝ) / q.den := by
  have whole : ((q.num.toNat : ℤ) : ℝ) = q.num := congrArg _ (Int.toNat_of_nonneg (Rat.num_nonneg.mpr nonneg))
  rw [Rat.cast_def, ← whole, Int.cast_natCast]

theorem abs_logb_ten_le {q : Rat} (pos : 0 < q) :
    |Real.logb 10 (q : ℝ)| ≤ (Nat.log2 q.num.toNat + Nat.log2 q.den + 2 : Nat) := by
  have num : 0 < q.num := Rat.num_pos.mpr pos
  have numPos : 0 < q.num.toNat := by omega
  obtain ⟨numLow, numHigh⟩ := logb_ten_natCast_mem numPos
  obtain ⟨denLow, denHigh⟩ := logb_ten_natCast_mem q.den_pos
  rw [rat_eq_toNat_div pos.le, Real.logb_div (Nat.cast_ne_zero.mpr numPos.ne') (Nat.cast_ne_zero.mpr q.den_pos.ne'), abs_le]
  push_cast at *
  constructor <;> linarith

/-- The search's logarithm is the exact one, rounded down. -/
theorem floorLog10_eq (k : Nat) {q : Rat} (pos : 0 < q) : floorLog10 k q = ⌊k * Real.logb 10 (q : ℝ)⌋ := by
  have posReal : (0 : ℝ) < q := Rat.cast_pos.mpr pos
  have within : |k * Real.logb 10 (q : ℝ)| ≤ (k * (Nat.log2 q.num.toNat + Nat.log2 q.den + 2) : Nat) := by
    rw [abs_mul, Nat.abs_cast, Nat.cast_mul]
    exact mul_le_mul_of_nonneg_left (abs_logb_ten_le pos) (Nat.cast_nonneg k)
  have test (j : Int) : tenPowerAtMost j (q.num.toNat ^ k) (q.den ^ k) = true ↔ j ≤ ⌊k * Real.logb 10 (q : ℝ)⌋ := by
    rw [tenPowerAtMost_iff _ _ (pow_pos q.den_pos k), Nat.cast_pow, Nat.cast_pow, ← div_pow, ← rat_eq_toNat_div pos.le,
      Int.le_floor, ← Real.logb_pow, Real.le_logb_iff_rpow_le (by norm_num) (pow_pos posReal k), Real.rpow_intCast]
  unfold floorLog10
  dsimp only
  generalize k * (Nat.log2 q.num.toNat + Nat.log2 q.den + 2) = span at *
  obtain ⟨low, high⟩ := abs_le.mp within
  have least : -(span : Int) ≤ ⌊k * Real.logb 10 (q : ℝ)⌋ := Int.le_floor.mpr (by push_cast; exact low)
  have greatest : ⌊k * Real.logb 10 (q : ℝ)⌋ ≤ span :=
    Int.cast_le.mp ((Int.floor_le _).trans (high.trans_eq (Int.cast_natCast span).symm))
  have room : span < 2 ^ (Nat.log2 span + 1) := Nat.lt_log2_self
  rw [searchUp_eq (greatest := (⌊k * Real.logb 10 (q : ℝ)⌋ + span).toNat) (fun t => (test _).trans (by omega)) _ _
    (Nat.zero_le _) (by rw [pow_succ]; omega)]
  omega

/-! ### The loudness function (R67) -/

/-- Settles O22: hundredths are found from tenths of them, rounded down. -/
theorem loudnessFunction : Obligations.LoudnessFunction := by
  refine fun x => ⟨fun zero => if_pos zero.le, fun pos => ?_⟩
  have tenths : 100 * (-0.691 + 10 * Real.logb 10 (x : ℝ)) + 1 / 2 =
      ((10000 : Nat) * Real.logb 10 (x : ℝ) - (686 : Int)) / (10 : Nat) := by
    push_cast
    ring
  rw [loudness, if_neg pos.not_ge, floorLog10_eq _ pos, tenths, Int.floor_div_natCast, Int.floor_sub_intCast,
    Int.fdiv_eq_ediv_of_nonneg _ (by decide)]
  rfl

end Sys2Proof.Machine
end

section
/-! Rounding to 64-bit floating point: to the nearest number, ties to even (R63; log 12). -/

namespace Sys2Proof.Machine

/-! ### Rounding a fraction to an integer -/

/-- The integer `z` is nearest to `t`, and even at a tie. -/
structure NearestEven (t : ℚ) (z : ℤ) : Prop where
  near : |t - z| ≤ 1 / 2
  even : |t - z| = 1 / 2 → Even z

namespace NearestEven
variable {t : ℚ} {z : ℤ}

theorem neg (h : NearestEven t z) : NearestEven (-t) (-z) := by
  have distance : |-t - ((-z : ℤ) : ℚ)| = |t - z| := by
    rw [← abs_neg]
    push_cast
    ring_nf
  exact ⟨distance ▸ h.near, fun tie => (h.even (distance ▸ tie)).neg⟩

theorem one_le_abs_sub {w : ℤ} (other : w ≠ z) : (1 : ℚ) ≤ |(w : ℚ) - z| := by
  exact_mod_cast Int.one_le_abs (sub_ne_zero.mpr other)

/-- No integer lies nearer. -/
theorem le_abs_sub (h : NearestEven t z) (w : ℤ) : |t - z| ≤ |t - w| := by
  rcases eq_or_ne w z with rfl | other
  · rfl
  · have apart := one_le_abs_sub other
    have triangle := abs_sub_le (w : ℚ) t z
    rw [abs_sub_comm (w : ℚ) t] at triangle
    linarith [h.near]

/-- Of two integers equally near the even one is taken, and the other is next to it. -/
theorem tie (h : NearestEven t z) {w : ℤ} (same : |t - z| = |t - w|) (other : w ≠ z) :
    Even z ∧ (w - z = 1 ∨ w - z = -1) := by
  have apart := one_le_abs_sub other
  have triangle := abs_sub_le (w : ℚ) t z
  rw [abs_sub_comm (w : ℚ) t, ← same] at triangle
  have near := h.near
  refine ⟨h.even (by linarith), ?_⟩
  have next : |w - z| = 1 := by
    have : |(w : ℚ) - z| = 1 := by linarith
    exact_mod_cast this
  exact eq_or_eq_neg_of_abs_eq next

end NearestEven

theorem roundHalfEven_nearest (n : Nat) {d : Nat} (pos : 0 < d) : NearestEven ((n : ℚ) / d) (roundHalfEven n d) := by
  have posRat : (0 : ℚ) < d := Nat.cast_pos.mpr pos
  have whole : (n : ℚ) / d = (n / d : Nat) + ((n % d : Nat) : ℚ) / d := by
    rw [eq_comm, add_div' _ _ _ posRat.ne', mul_comm]
    exact congrArg (· / (d : ℚ)) (by exact_mod_cast Nat.div_add_mod n d)
  have half {r : Nat} : (r : ℚ) / d < 1 / 2 ↔ 2 * r < d := by
    rw [div_lt_div_iff₀ posRat two_pos, one_mul, mul_comm]
    exact_mod_cast Iff.rfl
  have beyond {r : Nat} : 1 / 2 < (r : ℚ) / d ↔ d < 2 * r := by
    rw [div_lt_div_iff₀ two_pos posRat, one_mul, mul_comm (r : ℚ)]
    exact_mod_cast Iff.rfl
  have belowOne : ((n % d : Nat) : ℚ) / d < 1 := (div_lt_one posRat).mpr (Nat.cast_lt.mpr (Nat.mod_lt n pos))
  have nonneg : (0 : ℚ) ≤ ((n % d : Nat) : ℚ) / d := by positivity
  rw [whole]
  unfold roundHalfEven
  dsimp only
  simp only [← half, ← beyond]
  generalize ((n % d : Nat) : ℚ) / d = rest at *
  generalize n / d = q
  split
  · next low =>
    have distance : |(q : ℚ) + rest - ((q : ℤ) : ℚ)| < 1 / 2 := by
      rw [Int.cast_natCast, add_sub_cancel_left, abs_of_nonneg nonneg]
      exact low
    exact ⟨distance.le, fun tie => absurd tie distance.ne⟩
  · next notLow =>
    split
    · next high =>
      have distance : |(q : ℚ) + rest - (((q + 1 : Nat) : ℤ) : ℚ)| < 1 / 2 := by
        push_cast
        rw [add_sub_add_left_eq_sub, abs_sub_comm, abs_of_nonneg (by linarith)]
        linarith
      exact ⟨distance.le, fun tie => absurd tie distance.ne⟩
    · next notHigh =>
      have middle : rest = 1 / 2 := le_antisymm (not_lt.mp notHigh) (not_lt.mp notLow)
      refine ⟨le_of_eq ?_, fun _ => (Int.even_coe_nat _).mpr (Nat.even_iff.mpr (by omega))⟩
      rcases Nat.mod_two_eq_zero_or_one q with even | odd
      · rw [even, middle]
        norm_num
      · rw [odd, middle]
        push_cast
        rw [add_sub_add_left_eq_sub]
        norm_num [abs_of_neg]

/-! ### The last place of a number -/

theorem binaryExponent_bounds {n d : Nat} (n0 : 0 < n) (d0 : 0 < d) :
    (2 : ℚ) ^ binaryExponent n d ≤ (n : ℚ) / d ∧ (n : ℚ) / d < 2 ^ (binaryExponent n d + 1) := by
  have posRat : (0 : ℚ) < d := Nat.cast_pos.mpr d0
  have near : (2 : ℚ) ^ ((Nat.log2 n : ℤ) - Nat.log2 d - 1) ≤ (n : ℚ) / d ∧
      (n : ℚ) / d < 2 ^ ((Nat.log2 n : ℤ) - Nat.log2 d + 1) := by
    have nLow : (2 : ℚ) ^ (Nat.log2 n : ℤ) ≤ n := by exact_mod_cast Nat.log2_self_le n0.ne'
    have nHigh : (n : ℚ) < 2 ^ ((Nat.log2 n : ℤ) + 1) := by exact_mod_cast Nat.lt_log2_self
    have dLow : (2 : ℚ) ^ (Nat.log2 d : ℤ) ≤ d := by exact_mod_cast Nat.log2_self_le d0.ne'
    have dHigh : (d : ℚ) < 2 ^ ((Nat.log2 d : ℤ) + 1) := by exact_mod_cast Nat.lt_log2_self
    rw [le_div_iff₀ posRat, div_lt_iff₀ posRat]
    constructor
    · calc (2 : ℚ) ^ ((Nat.log2 n : ℤ) - Nat.log2 d - 1) * d
          ≤ 2 ^ ((Nat.log2 n : ℤ) - Nat.log2 d - 1) * 2 ^ ((Nat.log2 d : ℤ) + 1) := by gcongr
        _ = 2 ^ (Nat.log2 n : ℤ) := by rw [← zpow_add₀ two_ne_zero]; ring_nf
        _ ≤ n := nLow
    · calc (n : ℚ) < 2 ^ ((Nat.log2 n : ℤ) + 1) := nHigh
        _ = 2 ^ ((Nat.log2 n : ℤ) - Nat.log2 d + 1) * 2 ^ (Nat.log2 d : ℤ) := by
          rw [← zpow_add₀ two_ne_zero]; ring_nf
        _ ≤ 2 ^ ((Nat.log2 n : ℤ) - Nat.log2 d + 1) * d := by gcongr
  unfold binaryExponent
  dsimp only
  generalize (Nat.log2 n : ℤ) - Nat.log2 d = e at *
  have below : (if 0 ≤ e then decide (n < d * 2 ^ e.toNat) else decide (n * 2 ^ (-e).toNat < d)) = true ↔
      (n : ℚ) / d < 2 ^ e := by
    rw [div_lt_iff₀ posRat]
    split
    · next nonneg =>
      obtain ⟨i, rfl⟩ := Int.eq_ofNat_of_zero_le nonneg
      rw [decide_eq_true_eq, zpow_natCast, Int.toNat_natCast, mul_comm]
      exact_mod_cast Iff.rfl
    · next negative =>
      obtain ⟨i, rfl⟩ := Int.exists_eq_neg_ofNat (Int.le_of_lt (not_le.mp negative))
      rw [decide_eq_true_eq, zpow_neg, zpow_natCast, neg_neg, Int.toNat_natCast, lt_inv_mul_iff₀ (by positivity), mul_comm]
      exact_mod_cast Iff.rfl
  simp only [below]
  split
  · next less => exact ⟨near.1, by rwa [sub_add_cancel]⟩
  · next notLess => exact ⟨not_lt.mp notLess, near.2⟩

/-- The number `z × 2^u` is what `q` is rounded to: the last place `2^u` leaves 53 bits, unless it is the least one. -/
structure RoundsAt (q : ℚ) (u z : ℤ) : Prop where
  least : -1074 ≤ u
  below : |q| < 2 ^ (u + 53)
  above : -1074 < u → 2 ^ (u + 52) ≤ |q|
  nearest : NearestEven (q / 2 ^ u) z

namespace RoundsAt
variable {q : ℚ} {u z : ℤ}

theorem neg (h : RoundsAt q u z) : RoundsAt (-q) u (-z) :=
  ⟨h.least, by rw [abs_neg]; exact h.below, by rw [abs_neg]; exact h.above, by rw [neg_div]; exact h.nearest.neg⟩

theorem zero : RoundsAt 0 (-1074) 0 := ⟨le_rfl, by rw [abs_zero]; positivity, nofun, by norm_num, by norm_num⟩

/-- Distances are those to the quotients, in units of the last place. -/
theorem abs_sub_mul (q : ℚ) (u w : ℤ) : |q - w * 2 ^ u| = |q / 2 ^ u - w| * 2 ^ u := by
  have pos : (0 : ℚ) < 2 ^ u := by positivity
  rw [← abs_of_pos pos, ← abs_mul, abs_of_pos pos, sub_mul, div_mul_cancel₀ _ pos.ne']

theorem le_abs_sub (h : RoundsAt q u z) (w : ℤ) : |q - z * 2 ^ u| ≤ |q - w * 2 ^ u| := by
  rw [abs_sub_mul, abs_sub_mul]
  exact mul_le_mul_of_nonneg_right (h.nearest.le_abs_sub w) (by positivity)

theorem isFloat (h : RoundsAt q u z) : IsFloat (z * 2 ^ u) := by
  refine ⟨z, u, ?_, h.least, rfl⟩
  have pos : (0 : ℚ) < 2 ^ u := by positivity
  have below : |q / 2 ^ u| < 2 ^ 53 := by
    rw [abs_div, abs_of_pos pos, div_lt_iff₀ pos]
    refine h.below.trans_eq ?_
    rw [zpow_add₀ two_ne_zero, mul_comm]
    norm_cast
  have triangle := abs_sub_le (z : ℚ) (q / 2 ^ u) 0
  rw [sub_zero, sub_zero, abs_sub_comm] at triangle
  have near := h.nearest.near
  have strict : |(z : ℚ)| < (2 ^ 53 + 1 : ℤ) := by
    push_cast
    linarith
  exact Int.lt_add_one_iff.mp (by exact_mod_cast strict)

/-- A number of 64-bit floating point is a whole number of last places, or some whole number of them lies nearer. -/
theorem exists_le_abs_sub (h : RoundsAt q u z) {y : ℚ} (float : IsFloat y) :
    ∃ w : ℤ, |q - w * 2 ^ u| ≤ |q - y| ∧ (|q - w * 2 ^ u| = |q - y| → y = w * 2 ^ u) := by
  obtain ⟨m, e, bits, least, rfl⟩ := float
  rcases le_or_gt u e with coarse | fine
  · obtain ⟨i, rfl⟩ := Int.le.dest coarse
    have same : (m : ℚ) * 2 ^ (u + (i : ℤ)) = ((m * 2 ^ i : ℤ) : ℚ) * 2 ^ u := by
      rw [zpow_add₀ two_ne_zero, zpow_natCast]
      push_cast
      ring
    exact ⟨m * 2 ^ i, by rw [same], fun _ => same⟩
  · have above := h.above (by omega)
    have within : |(m : ℚ) * 2 ^ e| ≤ 2 ^ (u + 52) := by
      have bitsRat : |(m : ℚ)| ≤ 2 ^ 53 := by exact_mod_cast bits
      calc |(m : ℚ) * 2 ^ e| = |(m : ℚ)| * 2 ^ e := by rw [abs_mul, abs_of_pos (a := (2 : ℚ) ^ e) (by positivity)]
        _ ≤ 2 ^ 53 * 2 ^ e := by gcongr
        _ = 2 ^ (e + 53) := by rw [zpow_add₀ two_ne_zero, mul_comm]; norm_cast
        _ ≤ 2 ^ (u + 52) := zpow_le_zpow_right₀ one_le_two (by omega)
    have scaled : (2 : ℚ) ^ (u + 52) = ((2 ^ 52 : ℤ) : ℚ) * 2 ^ u := by
      rw [zpow_add₀ two_ne_zero, mul_comm]
      norm_cast
    obtain ⟨low, high⟩ := abs_le.mp within
    rcases le_total 0 q with nonneg | nonpos
    · rw [abs_of_nonneg nonneg] at above
      refine ⟨2 ^ 52, ?_, ?_⟩ <;> rw [← scaled, abs_of_nonneg (by linarith), abs_of_nonneg (by linarith)]
      · linarith
      · intro same
        linarith
    · rw [abs_of_nonpos nonpos] at above
      refine ⟨-2 ^ 52, ?_, ?_⟩ <;> rw [Int.cast_neg, neg_mul, ← scaled, abs_of_nonpos (by linarith), abs_of_nonpos (by linarith)]
      · linarith
      · intro same
        linarith

/-- No number of 64-bit floating point lies nearer, and of two equally near the even one is taken. -/
theorem le_and_tie (h : RoundsAt q u z) {y : ℚ} (float : IsFloat y) : |q - z * 2 ^ u| ≤ |q - y| ∧
    (|q - z * 2 ^ u| = |q - y| → y ≠ z * 2 ^ u → ∃ k : ℤ, (z : ℚ) * 2 ^ u = 2 * k * (y - z * 2 ^ u)) := by
  obtain ⟨w, le, eq⟩ := h.exists_le_abs_sub float
  refine ⟨(h.le_abs_sub w).trans le, fun tie other => ?_⟩
  have same := le_antisymm (h.le_abs_sub w) (le.trans_eq tie.symm)
  obtain rfl := eq (same ▸ tie)
  rw [abs_sub_mul, abs_sub_mul] at same
  obtain ⟨⟨k, even⟩, next⟩ := h.nearest.tie (mul_right_cancel₀ (by positivity) same) (by rintro rfl; exact other rfl)
  rcases next with next | next
  · refine ⟨k, ?_⟩
    obtain rfl : w = z + 1 := by omega
    rw [even]
    push_cast
    ring
  · refine ⟨-k, ?_⟩
    obtain rfl : w = z - 1 := by omega
    rw [even]
    push_cast
    ring

end RoundsAt

/-! ### Rounding of rationals -/

theorem roundMagnitude_roundsAt (n : Nat) {d : Nat} (pos : 0 < d) :
    ∃ u z : ℤ, roundMagnitude n d = z * 2 ^ u ∧ RoundsAt ((n : ℚ) / d) u z := by
  unfold roundMagnitude
  split
  · next zero =>
    subst zero
    exact ⟨-1074, 0, by norm_num, by rw [Nat.cast_zero, zero_div]; exact .zero⟩
  · next nonzero =>
    obtain ⟨low, high⟩ := binaryExponent_bounds (Nat.pos_of_ne_zero nonzero) pos
    have least : -1074 ≤ lastPlace n d := le_max_right _ _
    have exponent : binaryExponent n d - 52 ≤ lastPlace n d := le_max_left _ _
    have isExponent : -1074 < lastPlace n d → lastPlace n d = binaryExponent n d - 52 := by unfold lastPlace; omega
    have magnitude : |(n : ℚ) / d| = (n : ℚ) / d := abs_of_nonneg (by positivity)
    have places (z : ℤ) (nearest : NearestEven ((n : ℚ) / d / 2 ^ lastPlace n d) z) :
        RoundsAt ((n : ℚ) / d) (lastPlace n d) z := by
      refine ⟨least, ?_, fun above => ?_, nearest⟩ <;> rw [magnitude]
      · exact high.trans_le (zpow_le_zpow_right₀ one_le_two (by omega))
      · rw [isExponent above, sub_add_cancel]
        exact low
    dsimp only
    generalize lastPlace n d = u at *
    split
    · next nonneg =>
      obtain ⟨i, rfl⟩ := Int.eq_ofNat_of_zero_le nonneg
      refine ⟨i, roundHalfEven n (d * 2 ^ i), by simp, places _ ?_⟩
      have nearest := roundHalfEven_nearest n (d := d * 2 ^ i) (by positivity)
      rwa [Nat.cast_mul, ← div_div, Nat.cast_pow, ← zpow_natCast] at nearest
    · next negative =>
      obtain ⟨i, rfl⟩ := Int.exists_eq_neg_ofNat (Int.le_of_lt (not_le.mp negative))
      rw [neg_neg, Int.toNat_natCast]
      refine ⟨-i, roundHalfEven (n * 2 ^ i) d, ?_, places _ ?_⟩
      · rw [Rat.mkRat_eq_div, zpow_neg, zpow_natCast, div_eq_mul_inv]
        norm_cast
      · have nearest := roundHalfEven_nearest (n * 2 ^ i) pos
        rwa [Nat.cast_mul, Nat.cast_pow, ← zpow_natCast, mul_div_right_comm, ← div_inv_eq_mul, ← zpow_neg] at nearest

theorem roundF64_roundsAt (q : ℚ) : ∃ u z : ℤ, roundF64 q = z * 2 ^ u ∧ RoundsAt q u z := by
  obtain ⟨u, z, rounded, places⟩ := roundMagnitude_roundsAt q.num.natAbs q.den_pos
  unfold roundF64
  split
  · next negative =>
    have quotient : -((q.num.natAbs : ℚ) / q.den) = q := by
      rw [Nat.cast_natAbs, abs_of_neg negative, Int.cast_neg, neg_div, neg_neg, Rat.num_div_den]
    exact ⟨u, -z, by rw [rounded]; push_cast; ring, quotient ▸ places.neg⟩
  · next nonneg =>
    have quotient : (q.num.natAbs : ℚ) / q.den = q := by
      rw [Nat.cast_natAbs, abs_of_nonneg (not_lt.mp nonneg), Rat.num_div_den]
    exact ⟨u, z, rounded, quotient ▸ places⟩

theorem roundsToNearestEven : RoundsToNearestEven := by
  intro x
  obtain ⟨u, z, rounded, places⟩ := roundF64_roundsAt x
  rw [rounded]
  exact ⟨places.isFloat, fun y float => places.le_and_tie float⟩

/-- A number of 64-bit floating point stays as it is. -/
theorem roundF64_of_isFloat {x : ℚ} (float : IsFloat x) : roundF64 x = x := by
  have near := ((roundsToNearestEven x).2 x float).1
  rw [sub_self, abs_zero] at near
  exact (sub_eq_zero.mp (abs_nonpos_iff.mp near)).symm

end Sys2Proof.Machine
end

section
/-! The output stage at factors 1 and 0, and the advance of the factors (R93 to R97; logs 12 and 34). -/

namespace Sys2Proof.Machine

/-! ### Numbers that rounding leaves -/

theorem isFloat_intCast {n : ℤ} (bits : |n| ≤ 2 ^ 53) : IsFloat n := ⟨n, 0, bits, by norm_num, by simp⟩

theorem roundF64_zero : roundF64 0 = 0 := roundF64_of_isFloat (by exact_mod_cast isFloat_intCast (n := 0) (by norm_num))

theorem roundF64_one : roundF64 1 = 1 := roundF64_of_isFloat (by exact_mod_cast isFloat_intCast (n := 1) (by norm_num))

theorem fmul_one {y : F64} (float : IsFloat y) : fmul y 1 = y := by
  rw [fmul, mul_one]
  exact roundF64_of_isFloat float

theorem fmul_zero (y : F64) : fmul y 0 = 0 := by rw [fmul, mul_zero, roundF64_zero]

theorem zero_fmul (y : F64) : fmul 0 y = 0 := by rw [fmul, zero_mul, roundF64_zero]

theorem ratio_self {n : Nat} (pos : 0 < n) : ratio n n = 1 := by
  rw [ratio, fdiv, div_self (Nat.cast_ne_zero.mpr pos.ne'), roundF64_one]

theorem ratio_zero (n : Nat) : ratio 0 n = 0 := by rw [ratio, fdiv, Nat.cast_zero, zero_div, roundF64_zero]

theorem roundHalfAway_intCast (z : Int) : roundHalfAway z = z := by
  have near : |((roundHalfAway z - z : ℤ) : ℚ)| < 1 := by
    push_cast
    exact (abs_roundHalfAway_sub_le z).trans_lt (by norm_num)
  exact sub_eq_zero.mp (Int.abs_lt_one_iff.mp (by exact_mod_cast near))

/-! ### The output of one sample (R93, R99) -/

section
variable (c : Correction) (x : Sample)

theorem sample_range : -8388608 ≤ x.toInt ∧ x.toInt ≤ 8388607 := by
  have low := BitVec.le_toInt x
  have high := BitVec.toInt_lt (x := x)
  omega

/-- A product within 24 bits is the output sample, and no clip event is counted. -/
theorem Correction.output_of_within (low : -8388608 ≤ c.product x) (high : c.product x ≤ 8388607) :
    c.output [x] = ([BitVec.ofInt 24 (c.product x)], { c with clips := min 65535 c.clips }) := by
  rw [Correction.output_eq, List.map_singleton, min_eq_right high, max_eq_right low,
    List.filter_cons_of_neg (by rw [decide_eq_true_eq]; omega)]
  rfl

theorem Correction.product_of_ones (ramp : c.ramp.present = 1) (mute : c.muteFactor = 1) (dip : c.dipFactor = 1)
    (stop : c.stopFactor = 1) : c.product x = x.toInt := by
  obtain ⟨low, high⟩ := sample_range x
  have float : IsFloat (x.toInt : ℚ) := isFloat_intCast (abs_le.mpr ⟨by omega, by omega⟩)
  rw [Correction.product, ramp, mute, dip, stop, fmul_one float, fmul_one float, fmul_one float, fmul_one float,
    roundHalfAway_intCast]

theorem Correction.product_of_zero
    (zero : c.ramp.present = 0 ∨ c.muteFactor = 0 ∨ c.dipFactor = 0 ∨ c.stopFactor = 0) : c.product x = 0 := by
  have rounded : roundHalfAway 0 = 0 := roundHalfAway_intCast 0
  rcases zero with ramp | mute | dip | stop
  · rw [Correction.product, ramp, fmul_zero, zero_fmul, zero_fmul, zero_fmul, rounded]
  · rw [Correction.product, mute, fmul_zero, zero_fmul, zero_fmul, rounded]
  · rw [Correction.product, dip, fmul_zero, zero_fmul, rounded]
  · rw [Correction.product, stop, fmul_zero, rounded]

/-! ### The factors at their ends (R95, Table 5-2, R97) -/

variable {c}

theorem Correction.muteFactor_one (unmuted : c.mute = 480) : c.muteFactor = 1 := by
  rw [Correction.muteFactor, unmuted]
  exact ratio_self (by decide)

theorem Correction.muteFactor_zero (muted : c.mute = 0) : c.muteFactor = 0 := by
  rw [Correction.muteFactor, muted, ratio_zero]

theorem Correction.stopFactor_one (running : c.stop = 0) : c.stopFactor = 1 := by
  rw [Correction.stopFactor, running]
  exact ratio_self (by decide)

theorem Correction.stopFactor_zero (stopped : c.stop = 480) : c.stopFactor = 0 := by
  rw [Correction.stopFactor, stopped]
  exact ratio_zero _

theorem Correction.dipFactor_one (up : c.dip = .rest ∨ (c.dip = .fadeIn ∧ c.dipCount = 240)) : c.dipFactor = 1 := by
  unfold Correction.dipFactor
  rcases up with rest | ⟨fadeIn, count⟩
  · rw [rest]
  · rw [fadeIn, count]
    exact ratio_self (by decide)

theorem Correction.dipFactor_zero
    (down : c.dip = .down ∨ (c.dip = .fadeOut ∧ c.dipCount = 240) ∨ (c.dip = .fadeIn ∧ c.dipCount = 0)) :
    c.dipFactor = 0 := by
  unfold Correction.dipFactor
  rcases down with down | ⟨fadeOut, count⟩ | ⟨fadeIn, count⟩
  · rw [down]
  · rw [fadeOut, count]
    exact ratio_zero _
  · rw [fadeIn, count]
    exact ratio_zero _

end

/-! ### One house sample of the factors (R94 to R97) -/

theorem Ramp.advance_eq (r : Ramp) : r.advance =
    if 480 ≤ r.count then { r with present := r.finish }
    else { r with
      count := r.count + 1
      present := if r.count = 479 then r.finish
        else roundF64 (r.start + roundF64 (roundF64 (roundF64 (r.finish - r.start) * (r.count + 1 : Nat)) / 480)) } := by
  have last : r.count + 1 = Config.rampSamples ↔ r.count = 479 := Nat.succ_inj
  unfold Ramp.advance
  simp only [last]
  rfl

theorem Correction.advanceFactors_eq (c : Correction) (inForce stopping : Bool) : c.advanceFactors inForce stopping = { c with
    ramp := c.ramp.advance
    mute := if inForce then c.mute - 1 else min 480 (c.mute + 1)
    dipCount := if c.dip = .fadeOut ∨ c.dip = .fadeIn then min 240 (c.dipCount + 1) else c.dipCount
    stop := if stopping then min 480 (c.stop + 1) else c.stop } := by
  have dip : (match c.dip with
      | .fadeOut | .fadeIn => min Config.dipSamples (c.dipCount + 1)
      | .rest | .down => c.dipCount) =
      if c.dip = .fadeOut ∨ c.dip = .fadeIn then min 240 (c.dipCount + 1) else c.dipCount := by
    cases c.dip <;> rfl
  rw [← dip]
  rfl

/-- Settles O25: the ends of each factor fix the product; the rounding is `roundsToNearestEven`. -/
theorem outputFactors : Obligations.OutputFactors := by
  refine ⟨fun c x ramp mute dip stop => ?_, fun c x zero => ?_, fun c => ⟨rfl, rfl, rfl⟩, fun c inForce stopping => ?_,
    roundsToNearestEven⟩
  · have product := c.product_of_ones x ramp (Correction.muteFactor_one mute) (Correction.dipFactor_one dip)
      (Correction.stopFactor_one stop)
    obtain ⟨low, high⟩ := sample_range x
    rw [c.output_of_within x (product ▸ low) (product ▸ high), product, BitVec.ofInt_toInt]
  · have product : c.product x = 0 := by
      refine c.product_of_zero x ?_
      rcases zero with ramp | mute | stop | down
      · exact .inl ramp
      · exact .inr (.inl (Correction.muteFactor_zero mute))
      · exact .inr (.inr (.inr (Correction.stopFactor_zero stop)))
      · exact .inr (.inr (.inl (Correction.dipFactor_zero down)))
    rw [c.output_of_within x (by omega) (by omega), product]
    rfl
  · dsimp only
    rw [c.advanceFactors_eq, Ramp.advance_eq]

end Sys2Proof.Machine
end

section
/-! Weighted means of powers of ten against their enclosures, and the gates of a histogram (R71, R74, R75; log 14). -/

namespace Sys2Proof.Machine

/-! ### Enclosures -/

/-- Where the ends agree from `last` bits on, and agree on the result alone, the doubling finds the result. -/
theorem untilAgree_eq {α : Type} [DecidableEq α] {ends : Nat → α × α} {result : α} {first last : Nat}
    (sound : ∀ bits, first ≤ bits → (ends bits).1 = (ends bits).2 → (ends bits).1 = result)
    (agree : ∀ bits, last ≤ bits → (ends bits).1 = (ends bits).2) (tries bits : Nat) (low : first ≤ bits)
    (high : last ≤ 2 ^ tries * bits) : untilAgree ends tries bits = result := by
  induction tries generalizing bits with
  | zero => exact sound bits low (agree bits (by omega))
  | succ tries ih =>
    rw [untilAgree]
    split
    · next same => exact sound bits low same
    · exact ih (2 * bits) (by omega) (by rwa [← mul_assoc, ← pow_succ])

/-- The search's root is the exact one, rounded down. -/
theorem tenRootFloor_eq (c : Int) {n : Nat} (pos : 0 < n) (bits : Nat) :
    tenRootFloor c n bits = ⌊(10 : ℝ) ^ ((c : ℝ) / n) * 2 ^ bits⌋₊ := by
  have nonzero : (n : ℝ) ≠ 0 := Nat.cast_ne_zero.mpr pos.ne'
  have power : ((10 : ℝ) ^ ((c : ℝ) / n) * 2 ^ bits) ^ n = (10 : ℝ) ^ c * 2 ^ (n * bits) := by
    rw [mul_pow, ← Real.rpow_mul_natCast (by norm_num), div_mul_cancel₀ _ nonzero, Real.rpow_intCast, ← pow_mul, mul_comm bits]
  have test (m : Nat) : (if 0 ≤ c then decide (m ^ n ≤ 10 ^ c.toNat * 2 ^ (n * bits))
      else decide (m ^ n * 10 ^ (-c).toNat ≤ 2 ^ (n * bits))) = true ↔ m ≤ ⌊(10 : ℝ) ^ ((c : ℝ) / n) * 2 ^ bits⌋₊ := by
    rw [Nat.le_floor_iff (by positivity), ← pow_le_pow_iff_left₀ (a := (m : ℝ)) (by positivity) (by positivity) pos.ne', power]
    split
    · next nonneg =>
      obtain ⟨i, rfl⟩ := Int.eq_ofNat_of_zero_le nonneg
      rw [decide_eq_true_eq, zpow_natCast, Int.toNat_natCast]
      exact_mod_cast Iff.rfl
    · next negative =>
      obtain ⟨i, rfl⟩ := Int.exists_eq_neg_ofNat (Int.le_of_lt (not_le.mp negative))
      rw [decide_eq_true_eq, zpow_neg, zpow_natCast, neg_neg, Int.toNat_natCast, le_inv_mul_iff₀ (by positivity), mul_comm]
      exact_mod_cast Iff.rfl
  have room : ⌊(10 : ℝ) ^ ((c : ℝ) / n) * 2 ^ bits⌋₊ < 2 ^ (bits + 4 * c.toNat / n + 5) := by
    have exponent : (c : ℝ) / n ≤ (c.toNat : ℝ) / n := by
      gcongr
      exact_mod_cast Int.self_le_toNat c
    have quotient : 4 * (c.toNat : ℝ) / n ≤ (4 * c.toNat / n + 1 : Nat) := by
      rw [div_le_iff₀ (Nat.cast_pos.mpr pos)]
      exact_mod_cast ((Nat.div_lt_iff_lt_mul pos).mp (Nat.lt_succ_self _)).le
    rw [Nat.floor_lt (by positivity)]
    calc (10 : ℝ) ^ ((c : ℝ) / n) * 2 ^ bits ≤ 10 ^ ((c.toNat : ℝ) / n) * 2 ^ bits := by
          gcongr
          norm_num
      _ ≤ (2 ^ (4 : ℝ)) ^ ((c.toNat : ℝ) / n) * 2 ^ bits := by
          gcongr
          norm_num
      _ = 2 ^ (4 * (c.toNat : ℝ) / n) * 2 ^ bits := by rw [← Real.rpow_mul zero_le_two, mul_div_assoc]
      _ ≤ 2 ^ ((4 * c.toNat / n + 1 : Nat) : ℝ) * 2 ^ bits := by
          gcongr
          norm_num
      _ = 2 ^ (bits + 4 * c.toNat / n + 1) := by rw [Real.rpow_natCast, ← pow_add]; ring_nf
      _ < ((2 ^ (bits + 4 * c.toNat / n + 5) : Nat) : ℝ) := by
          rw [Nat.cast_pow, Nat.cast_ofNat]
          exact pow_lt_pow_right₀ one_lt_two (by omega)
  exact searchUp_eq test _ 0 (Nat.zero_le _) (by rwa [zero_add])

theorem tenRootFloor_bounds (c : Int) (bits : Nat) :
    (tenRootFloor c 1000 bits : ℝ) ≤ (10 : ℝ) ^ ((c : ℝ) / 1000) * 2 ^ bits ∧
    (10 : ℝ) ^ ((c : ℝ) / 1000) * 2 ^ bits ≤ tenRootFloor c 1000 bits + 1 := by
  rw [tenRootFloor_eq c (by decide), Nat.cast_ofNat]
  exact ⟨Nat.floor_le (by positivity), (Nat.lt_floor_add_one _).le⟩

/-! ### Means of powers of ten -/

/-- The weighted mean of the energies `10^(v/1000)` over values with counts. -/
noncomputable def meanPower (values : List (Int × Nat)) : ℝ :=
  (values.map fun v => (v.2 : ℝ) * (10 : ℝ) ^ ((v.1 : ℝ) / 1000)).sum / ((values.map (·.2)).sum : Nat)

section
variable {values : List (Int × Nat)} (used : ∃ v ∈ values, 0 < v.2)
include used

theorem counts_pos : 0 < (values.map (·.2)).sum := by
  obtain ⟨v, mem, pos⟩ := used
  exact pos.trans_le (List.le_sum_of_mem (List.mem_map_of_mem mem))

theorem meanPower_ge (low : ∀ v ∈ values, -12000 ≤ v.1) : 1 / 10 ^ 12 ≤ meanPower values := by
  rw [meanPower, le_div_iff₀ (Nat.cast_pos.mpr (counts_pos used)), Nat.cast_list_sum, List.map_map, ← List.sum_map_mul_left]
  refine List.sum_le_sum fun v mem => ?_
  have power : 1 / 10 ^ 12 ≤ (10 : ℝ) ^ ((v.1 : ℝ) / 1000) := by
    have exponent : (-12 : ℝ) ≤ (v.1 : ℝ) / 1000 := by
      have : ((-12000 : ℤ) : ℝ) ≤ v.1 := Int.cast_le.mpr (low v mem)
      push_cast at this
      linarith
    calc (1 / 10 ^ 12 : ℝ) = 10 ^ (-12 : ℝ) := by norm_num
      _ ≤ _ := Real.rpow_le_rpow_of_exponent_le (by norm_num) exponent
  rw [mul_comm]
  exact mul_le_mul_of_nonneg_left power (Nat.cast_nonneg v.2)

/-- The ends enclose the mean, at a distance of one unit of the last bit. -/
theorem meanEnergyEnds_bounds (bits : Nat) :
    ((meanEnergyEnds values bits).1 : ℝ) ≤ meanPower values ∧ meanPower values ≤ (meanEnergyEnds values bits).2 ∧
    ((meanEnergyEnds values bits).2 : ℝ) = (meanEnergyEnds values bits).1 + 1 / 2 ^ bits := by
  have total : (0 : ℝ) < ((values.map (·.2)).sum : Nat) := Nat.cast_pos.mpr (counts_pos used)
  have ends (n : Nat) : ((mkRat n ((values.map (·.2)).sum * 2 ^ bits) : ℚ) : ℝ) =
      (n : ℝ) / 2 ^ bits / ((values.map (·.2)).sum : Nat) := by
    generalize (values.map (·.2)).sum = total
    rw [Rat.mkRat_eq_div, div_div, mul_comm ((2 : ℝ) ^ bits)]
    push_cast
    rfl
  have scaled : (values.map fun v => (v.2 : ℝ) * (10 : ℝ) ^ ((v.1 : ℝ) / 1000)).sum =
      (values.map fun v => (v.2 : ℝ) * ((10 : ℝ) ^ ((v.1 : ℝ) / 1000) * 2 ^ bits)).sum / 2 ^ bits := by
    simp only [← mul_assoc, List.sum_map_mul_right]
    rw [mul_div_cancel_right₀ _ (by positivity)]
  have next : (values.map fun v => v.2 * (tenRootFloor v.1 1000 bits + 1)).sum =
      (values.map fun v => v.2 * tenRootFloor v.1 1000 bits).sum + (values.map (·.2)).sum := by
    simp only [mul_add, mul_one, List.sum_map_add]
  unfold meanEnergyEnds meanPower
  dsimp only
  rw [ends, ends, scaled]
  refine ⟨?_, ?_, ?_⟩
  · gcongr
    rw [Nat.cast_list_sum, List.map_map]
    refine List.sum_le_sum fun v _ => ?_
    rw [Function.comp_apply, Nat.cast_mul]
    exact mul_le_mul_of_nonneg_left (tenRootFloor_bounds v.1 bits).1 (Nat.cast_nonneg v.2)
  · gcongr
    rw [Nat.cast_list_sum, List.map_map]
    refine List.sum_le_sum fun v _ => ?_
    rw [Function.comp_apply, Nat.cast_mul, Nat.cast_succ]
    exact mul_le_mul_of_nonneg_left (tenRootFloor_bounds v.1 bits).2 (Nat.cast_nonneg v.2)
  · rw [next, Nat.cast_add, add_div, add_div, div_right_comm (((values.map (·.2)).sum : Nat) : ℝ),
      div_self total.ne']

end

/-! ### Hundredths of a level -/

theorem hundredths_eq {x : ℚ} (pos : 0 < x) : hundredths x = ⌊1000 * Real.logb 10 (x : ℝ) + 1 / 2⌋ := by
  have halves : 1000 * Real.logb 10 (x : ℝ) + 1 / 2 =
      ((2000 : Nat) * Real.logb 10 (x : ℝ) + (1 : Int)) / (2 : Nat) := by
    push_cast
    ring
  rw [hundredths, floorLog10_eq _ pos, halves, Int.floor_div_natCast, Int.floor_add_intCast,
    Int.fdiv_eq_ediv_of_nonneg _ (by decide)]
  rfl

/-- Numbers that lie as near as the first to a tie or nearer to each other round alike. -/
theorem floor_half_congr {x y δ : ℝ} (apart : ∀ k : ℤ, δ ≤ |x - (k + 1 / 2)|) (near : |x - y| < δ) :
    ⌊y + 1 / 2⌋ = ⌊x + 1 / 2⌋ := by
  rw [Int.floor_eq_iff]
  have low := Int.floor_le (x + 1 / 2)
  have high := Int.lt_floor_add_one (x + 1 / 2)
  have below := apart (⌊x + 1 / 2⌋ - 1)
  have above := apart ⌊x + 1 / 2⌋
  push_cast at below
  rw [abs_of_nonneg (by linarith)] at below
  rw [abs_of_nonpos (by linarith)] at above
  rw [abs_lt] at near
  constructor <;> linarith

/-- A decimal logarithm rises by less than its argument does in proportion. -/
theorem logb_ten_sub_le {a b : ℝ} (pos : 0 < a) (le : a ≤ b) : Real.logb 10 b - Real.logb 10 a ≤ (b - a) / a := by
  have ten : 1 ≤ Real.log 10 := by
    rw [Real.le_log_iff_exp_le (by norm_num)]
    exact Real.exp_one_lt_d9.le.trans (by norm_num)
  have ratio : 1 ≤ b / a := (one_le_div pos).mpr le
  calc Real.logb 10 b - Real.logb 10 a = Real.log (b / a) / Real.log 10 := by
        rw [Real.logb, Real.logb, ← sub_div, ← Real.log_div (pos.trans_le le).ne' pos.ne']
    _ ≤ Real.log (b / a) := div_le_self (Real.log_nonneg ratio) ten
    _ ≤ b / a - 1 := Real.log_le_sub_one_of_pos (zero_lt_one.trans_le ratio)
    _ = (b - a) / a := by rw [sub_div, div_self pos.ne']

section
variable {a b mean : ℝ} {bits : Nat} (wide : b = a + 1 / 2 ^ bits) (low : a ≤ mean) (high : mean ≤ b)
  (least : 1 / 10 ^ 12 ≤ mean)
include wide high least

/-- From 128 bits on the lower end of an energy's enclosure is above 0. -/
theorem lowerEnd_pos (many : 128 ≤ bits) : 0 < a := by
  have unit : (1 / 2 ^ bits : ℝ) ≤ 1 / 2 ^ 128 := by gcongr; norm_num
  have small : (1 / 2 ^ 128 : ℝ) < 1 / 10 ^ 12 := by norm_num
  linarith

include low

/-- From 256 bits on the levels of both ends lie nearer to that of the mean than 10⁻³⁰. -/
theorem abs_level_sub_lt (many : 256 ≤ bits) :
    |1000 * Real.logb 10 mean - 1000 * Real.logb 10 a| < 1 / 10 ^ 30 ∧
    |1000 * Real.logb 10 mean - 1000 * Real.logb 10 b| < 1 / 10 ^ 30 := by
  have unit : (1 / 2 ^ bits : ℝ) ≤ 1 / 10 ^ 50 :=
    calc (1 / 2 ^ bits : ℝ) ≤ 1 / 2 ^ 256 := by gcongr; norm_num
      _ ≤ 1 / 10 ^ 50 := by norm_num
  have pos : 0 < a := lowerEnd_pos wide high least (by omega)
  have above : 1 / 10 ^ 13 ≤ a := by
    have room : (1 / 10 ^ 13 + 1 / 10 ^ 50 : ℝ) ≤ 1 / 10 ^ 12 := by norm_num
    linarith
  have spread : Real.logb 10 b - Real.logb 10 a ≤ 1 / 10 ^ 37 :=
    calc Real.logb 10 b - Real.logb 10 a ≤ (b - a) / a := logb_ten_sub_le pos (low.trans high)
      _ ≤ (1 / 10 ^ 50) / (1 / 10 ^ 13) := by
        gcongr
        linarith
      _ = 1 / 10 ^ 37 := by norm_num
  have fine : 1000 * (1 / 10 ^ 37 : ℝ) < 1 / 10 ^ 30 := by norm_num
  have fromLow := Real.logb_le_logb_of_le (b := 10) (by norm_num) pos low
  have toHigh := Real.logb_le_logb_of_le (b := 10) (by norm_num) (pos.trans_le low) high
  constructor <;> rw [abs_lt] <;> constructor <;> linarith

end

theorem hundredths_mono {x : ℚ} {m : ℝ} (pos : 0 < x) :
    ((x : ℝ) ≤ m → hundredths x ≤ ⌊1000 * Real.logb 10 m + 1 / 2⌋) ∧
    (0 < m → m ≤ x → ⌊1000 * Real.logb 10 m + 1 / 2⌋ ≤ hundredths x) := by
  have posReal : (0 : ℝ) < x := Rat.cast_pos.mpr pos
  rw [hundredths_eq pos]
  refine ⟨fun le => Int.floor_le_floor ?_, fun mPos le => Int.floor_le_floor ?_⟩ <;> gcongr <;> norm_num

/-- The mean's level in hundredths, rounded half up, away from its ties (R74, R75, R83). -/
theorem meanLoudness_eq {values : List (Int × Nat)} (low : ∀ v ∈ values, -12000 ≤ v.1) (used : ∃ v ∈ values, 0 < v.2)
    (apart : ∀ k : ℤ, (1 / 10 ^ 30 : ℝ) ≤ |1000 * Real.logb 10 (meanPower values) - (k + 1 / 2)|) :
    meanLoudness values = ⌊1000 * Real.logb 10 (meanPower values) + 1 / 2⌋ := by
  have least := meanPower_ge used low
  have positive (bits : Nat) (many : 128 ≤ bits) :
      0 < (meanEnergyEnds values bits).1 ∧ 0 < (meanEnergyEnds values bits).2 := by
    obtain ⟨below, above, wide⟩ := meanEnergyEnds_bounds used bits
    have pos := lowerEnd_pos wide above least many
    exact ⟨Rat.cast_pos.mp pos, Rat.cast_pos.mp (pos.trans_le (below.trans above))⟩
  refine untilAgree_eq (first := 128) (last := 256) (fun bits many same => ?_) (fun bits many => ?_) 12 128 le_rfl
    (by norm_num)
  · obtain ⟨below, above, -⟩ := meanEnergyEnds_bounds used bits
    obtain ⟨lowPos, highPos⟩ := positive bits many
    have upper : _ ≤ hundredths _ := (hundredths_mono highPos).2 (lt_of_lt_of_le (by norm_num) least) above
    exact le_antisymm ((hundredths_mono lowPos).1 below) (upper.trans_eq same.symm)
  · obtain ⟨below, above, wide⟩ := meanEnergyEnds_bounds used bits
    obtain ⟨lowPos, highPos⟩ := positive bits (by omega)
    obtain ⟨nearLow, nearHigh⟩ := abs_level_sub_lt wide below above least many
    dsimp only
    rw [hundredths_eq lowPos, hundredths_eq highPos, floor_half_congr apart nearLow, floor_half_congr apart nearHigh]

/-! ### The bins in use (R71, R74, R75) -/

theorem zipIdx_toList {α : Type} {n : Nat} (v : Vector α n) :
    v.toList.zipIdx = (List.finRange n).map fun k => (v[k], k.val) := by
  refine List.ext_getElem (by simp) fun i _ _ => ?_
  simp

theorem binsInUse_eq (h : Vector Nat 750) : binsInUse h = (List.finRange 750).filterMap fun k =>
    if h[k] = 0 then none else some ((-6995 + 10 * (k.val : Int), h[k]) : Int × Nat) := by
  rw [binsInUse, zipIdx_toList]
  generalize List.finRange 750 = places
  rw [← List.filterMap_eq_filter, ← List.filterMap_eq_map, List.filterMap_filterMap, List.filterMap_map]
  refine List.filterMap_congr fun k _ => ?_
  by_cases empty : h[k] = 0
  · simp only [Function.comp_apply, empty]
    rfl
  · simp only [Function.comp_apply, Option.guard, empty, ne_eq, not_false_eq_true, decide_true, if_true, if_false]
    rfl

theorem binsInUse_eq_nil_iff (h : Vector Nat 750) : binsInUse h = [] ↔ ∀ k : Fin 750, h[k] = 0 := by
  rw [binsInUse_eq, List.filterMap_eq_nil_iff]
  refine ⟨fun none k => ?_, fun zero k _ => if_pos (zero k)⟩
  by_contra used
  exact Option.some_ne_none _ ((if_neg used).symm.trans (none k (List.mem_finRange k)))

theorem gatesFormed : GatesFormed := by
  refine ⟨fun values low used => meanLoudness_eq low used, fun h => ?_⟩
  dsimp only
  rw [← binsInUse_eq]
  refine ⟨fun empty => if_pos ((binsInUse_eq_nil_iff h).mpr empty), fun ⟨k, used⟩ => ?_⟩
  exact if_neg fun empty => used ((binsInUse_eq_nil_iff h).mp empty k)

end Sys2Proof.Machine
end

section
/-! The meter, the gain law and the report queue at a meter update, each on its own (R65 to R75, R82 to R85, R133, R164). -/

namespace Sys2Proof.Machine

/-! ### Energies (R66, R68, R69; log 37) -/

theorem energiesFormed : EnergiesFormed := by
  refine ⟨fun roles sums => ?_, fun energies => rfl⟩
  have weight (r : Role) : r.weight = match r with
      | .front => 1
      | .surround => roundF64 1.41
      | .lfe => 0 := by
    cases r with
    | surround => exact congrArg roundF64 (by norm_num [Config.surroundWeight])
    | _ => rfl
  unfold subBlockEnergy
  simp only [weight]
  rfl

/-! ### The meter's own part (R65 to R75) -/

section
variable (e : ProgramEntry) (admits : Bool) (m : Meter)

/-- Without a momentary value nothing is counted and the program is not quiet (R70, R72). -/
theorem Meter.update_histogram_none (none : (m.update e admits).momentary = none) :
    (m.update e admits).histogram = m.histogram ∧ (m.update e admits).quiet = false := by
  unfold Meter.update at *
  dsimp only at *
  rw [none]
  exact ⟨rfl, rfl⟩

/-- A momentary value is counted where it is admitted, and compared with the entry's threshold (R70, R72). -/
theorem Meter.update_histogram_some {v : Int} (some : (m.update e admits).momentary = some v) :
    (m.update e admits).histogram = (if (admits && decide (-7000 ≤ v)) = true then admitBin v m.histogram else m.histogram) ∧
    (m.update e admits).quiet = decide (v < e.quietThreshold) := by
  unfold Meter.update at *
  dsimp only at *
  rw [some]
  exact ⟨rfl, rfl⟩

end

/-- The bin of R72 takes the admission, and the other bins stay. -/
theorem admitBin_get {v : Int} (above : -7000 ≤ v) (h : Vector Nat 750) (k : Fin 750) :
    (admitBin v h)[k] = if (k.val : Int) = min 749 ((v + 7000) / 10) then min 4294967295 (h[k] + 1) else h[k] := by
  have bin : (k.val : Int) = min 749 ((v + 7000) / 10) ↔ binOf v = k := by
    have quotient : Int.fdiv (v + 7000) 10 = (v + 7000) / 10 := Int.fdiv_eq_ediv_of_nonneg _ (by decide)
    rw [Fin.ext_iff]
    show _ ↔ min 749 (Int.fdiv (v + 7000) 10).toNat = k.val
    rw [quotient]
    omega
  unfold admitBin
  rw [saturating_eq]
  split
  · next here =>
    obtain rfl := bin.mp here
    simp [Config.sat32]
  · next other =>
    have apart : (binOf v).val ≠ k.val := fun same => other (bin.mpr (Fin.ext same))
    simp [apart]

/-! ### Admission (R72, R78) -/

theorem admissible_iff (processedIn : ProgramState) (v : Votes) :
    admissible processedIn v = true ↔ processedIn = .running ∧ v.hold = 0 := by
  rw [admissible, Bool.and_eq_true, decide_eq_true_eq, decide_eq_true_eq]

section
variable (e : ProgramEntry) (m : Meter) {processedIn : ProgramState} {votes : Votes} {v : Int}
  (given : (m.update e (admissible processedIn votes)).momentary = some v)
include given

/-- A momentary value of RUNNING at or above the absolute gate, under no hold vote, is counted in its bin. -/
theorem Meter.update_counts (running : processedIn = .running) (hold : votes.hold = 0) (above : -7000 ≤ v) (k : Fin 750) :
    (m.update e (admissible processedIn votes)).histogram[k] =
      if (k.val : Int) = min 749 ((v + 7000) / 10) then min 4294967295 (m.histogram[k] + 1) else m.histogram[k] := by
  rw [(m.update_histogram_some e _ given).1, (admissible_iff _ _).mpr ⟨running, hold⟩, decide_eq_true above]
  exact admitBin_get above m.histogram k

theorem Meter.update_counts_not (barred : processedIn ≠ .running ∨ 0 < votes.hold ∨ v < -7000) :
    (m.update e (admissible processedIn votes)).histogram = m.histogram := by
  refine (m.update_histogram_some e _ given).1.trans (if_neg fun admitted => ?_)
  rw [Bool.and_eq_true, admissible_iff, decide_eq_true_eq] at admitted
  obtain ⟨⟨running, hold⟩, above⟩ := admitted
  rcases barred with other | held | below
  · exact other running
  · exact held.ne' hold
  · exact below.not_ge above

end

/-! ### Correction's part (R78, R82 to R85) -/

theorem nextGain_eq (e : ProgramEntry) (gain lw : Int) : nextGain e gain lw =
    gain + max (-(e.slew : Int)) (min e.slew (clamp (e.target - lw) (-e.maxCut) e.maxBoost - gain)) := by
  rw [nextGain, clamp_eq _ _ _ (by omega)]

/-- In TRACK, with a window loudness and a momentary value, the law freezes, finds the gain in place, or schedules one. -/
theorem lawOf_track {e : ProgramEntry} {c : Correction} {lw : Int} (track : e.mode = .track) (window : c.window = some lw)
    (m : Int) (g : Program) : lawOf e (some m) g c =
      if 0 < g.votes.freeze ∨ m < e.freezeThreshold ∨ nextGain e c.gain lw = c.gain then c
      else scheduled (nextGain e c.gain lw) g c := by
  rw [nextGain_eq]
  unfold lawOf
  rw [track, window]
  rfl

/-- The gain law changes Correction's state alone, and as `lawOf` says (R85, R89). -/
theorem Program.gainLaw_eq (e : ProgramEntry) (momentary : Option Int) (g : Program) :
    g.gainLaw e momentary = { g with corr := lawOf e momentary g g.corr } := by
  unfold Program.gainLaw
  split
  · next lw m track window =>
    rw [lawOf_track track window]
    dsimp only
    rw [Program.appendGain_scheduled]
    by_cases frozen : 0 < g.votes.freeze ∨ m < e.freezeThreshold
    · rw [if_pos frozen, if_pos (or_assoc.mp (.inl frozen))]
    · rw [if_neg frozen]
      by_cases inPlace : nextGain e g.corr.gain lw = g.corr.gain
      · rw [if_pos inPlace, if_pos (.inr (.inr inPlace))]
      · rw [if_neg inPlace, if_neg fun stays => (or_assoc.mpr stays).elim frozen inPlace]
  · next other =>
    unfold lawOf
    split
    · next lw m track window => exact absurd rfl (other lw m track window)
    · rfl

theorem scheduled_dip (gain : Int) (g : Program) (c : Correction) : (scheduled gain g c).dip = c.dip := by
  rw [scheduled_eq, Correction.takeUp_eq]

theorem lawOf_dip (e : ProgramEntry) (momentary : Option Int) (g : Program) (c : Correction) :
    (lawOf e momentary g c).dip = c.dip := by
  unfold lawOf
  split
  · simp only [apply_ite Correction.dip, scheduled_dip, ite_self]
  · rfl

/-- The window ring after an update: an admitted momentary value joins it, and the oldest leave (R78, R82). -/
def ringAfter (e : ProgramEntry) (processedIn : ProgramState) (v : Votes) (momentary : Option Int) (ring : List Int) :
    List Int :=
  match momentary with
  | some m => if processedIn = .running ∧ v.hold = 0 then (ring ++ [m]).drop (ring.length + 1 - e.window * 10) else ring
  | none => ring

/-- Correction's state before the gain law runs: the ring of R82 and what R83 computes of it. -/
def windowAfter (e : ProgramEntry) (processedIn : ProgramState) (momentary : Option Int) (g : Program) : Correction :=
  { g.corr with
    ring := ringAfter e processedIn g.votes momentary g.corr.ring
    windowGate := (windowOf (ringAfter e processedIn g.votes momentary g.corr.ring)).1
    window := (windowOf (ringAfter e processedIn g.votes momentary g.corr.ring)).2 }

theorem Program.correctionUpdate_eq (e : ProgramEntry) (processedIn : ProgramState) (g : Program) :
    g.correctionUpdate e (admissible processedIn g.votes) = { g with
      corr := lawOf e g.meter.momentary g (windowAfter e processedIn g.meter.momentary g) } := by
  unfold Program.correctionUpdate windowAfter ringAfter
  cases g.meter.momentary with
  | none => exact Program.gainLaw_eq e none _
  | some m =>
    refine (Program.gainLaw_eq e (some m) _).trans ?_
    have length : g.corr.ring.length + 1 = (g.corr.ring ++ [m]).length := by simp
    by_cases admitted : processedIn = .running ∧ g.votes.hold = 0
    · simp only [if_pos admitted, if_pos ((admissible_iff _ _).mpr admitted), length]
      rfl
    · simp only [if_neg admitted, if_neg (mt (admissible_iff _ _).mp admitted)]
      rfl

/-! ### The latency report queue (R133, R164) -/

theorem newestReport_concat (p : Fin 16) (q : List LatencyReport) (r : LatencyReport) :
    newestReport p (q ++ [r]) = if r.program = p then some q.length else newestReport p q := by
  have older : (List.range q.length).filter (fun k => ((q ++ [r])[k]?).any fun x => decide (x.program = p)) =
      (List.range q.length).filter (fun k => (q[k]?).any fun x => decide (x.program = p)) := by
    refine List.filter_congr fun k mem => ?_
    rw [List.getElem?_append_left (List.mem_range.mp mem)]
  unfold newestReport
  rw [List.length_append, List.length_singleton, List.range_succ, List.filter_append, older]
  split
  · next mine => simp [mine]
  · next other => simp [other]

theorem newestReport_eq_none {p : Fin 16} {q : List LatencyReport} (none : ∀ x ∈ q, x.program ≠ p) :
    newestReport p q = .none := by
  induction q using List.reverseRecOn with
  | nil => rfl
  | append_singleton q r ih =>
    rw [newestReport_concat, if_neg (none r (by simp))]
    exact ih fun x mem => none x (by simp [mem])

theorem newestReport_eq_some {p : Fin 16} (before : List LatencyReport) {old : LatencyReport} {later : List LatencyReport}
    (mine : old.program = p) (none : ∀ x ∈ later, x.program ≠ p) :
    newestReport p (before ++ old :: later) = some before.length := by
  induction later using List.reverseRecOn with
  | nil => rw [newestReport_concat, if_pos mine]
  | append_singleton later r ih =>
    rw [← List.cons_append, ← List.append_assoc, newestReport_concat, if_neg (none r (by simp))]
    exact ih fun x mem => none x (by simp [mem])

section
variable (r : LatencyReport) {s : State}

theorem State.offerReport_room (room : s.reportQueue.length < 16) :
    s.offerReport r = { s with reportQueue := s.reportQueue ++ [r] } := if_pos room

/-- In a full queue a report takes the place of its program's newest one. -/
theorem State.offerReport_replaces (full : 16 ≤ s.reportQueue.length) {before later : List LatencyReport}
    {old : LatencyReport} (queue : s.reportQueue = before ++ old :: later) (mine : old.program = r.program)
    (none : ∀ x ∈ later, x.program ≠ r.program) :
    s.offerReport r = { s with reportQueue := before ++ r :: later } := by
  rw [State.offerReport, if_neg (show ¬ s.reportQueue.length < Config.reportPlaces from full.not_gt), queue,
    newestReport_eq_some before mine none]
  simp

theorem State.offerReport_drops (full : 16 ≤ s.reportQueue.length) (none : ∀ x ∈ s.reportQueue, x.program ≠ r.program) :
    s.offerReport r = s.flagReportsDropped := by
  rw [State.offerReport, if_neg (show ¬ s.reportQueue.length < Config.reportPlaces from full.not_gt),
    newestReport_eq_none none]

theorem State.offerReport_putProgram (p : Fin 16) (g : Program) (s : State) :
    (s.putProgram p g).offerReport r = (s.offerReport r).putProgram p g := by
  unfold State.offerReport
  by_cases room : s.reportQueue.length < Config.reportPlaces
  · rw [if_pos room]
    exact if_pos room
  · rw [if_neg room]
    refine (if_neg room).trans ?_
    show (match newestReport r.program s.reportQueue with | some k => _ | none => _) = _
    cases newestReport r.program s.reportQueue <;> rfl

end

end Sys2Proof.Machine
end

section
/-! A meter update as a whole (R65 to R75, R78, R82 to R85, R131, R133, R164). -/

namespace Sys2Proof.Machine

/-! ### The offered report (R133) -/

theorem outgoingMicros_eq (audio : Int) (actual : Nat) :
    outgoingMicros audio actual = (((audio + actual) * 1000 + 24) / 48).toNat := by
  rw [outgoingMicros, Int.fdiv_eq_ediv_of_nonneg _ (by decide)]

/-- Whether a report is offered: the outgoing latency is not the one last reported, or the send flag is set (R133). -/
def LipSync.reports (l : LipSync) : Bool := decide (l.lastReported ≠ some (outgoingMicros l.audio l.actual)) || l.sendFlag

theorem LipSync.reports_eq_false_iff (l : LipSync) :
    l.reports = false ↔ l.lastReported = some (outgoingMicros l.audio l.actual) ∧ l.sendFlag = false := by
  rw [LipSync.reports, Bool.or_eq_false_iff, decide_eq_false_iff_not, not_not]

/-- The program once its latency has been offered. -/
def Program.reported (g : Program) : Program := { g with
  changed := g.changed || g.lip.reports
  lip := { g.lip with
    lastReported := if g.lip.reports then some (outgoingMicros g.lip.audio g.lip.actual) else g.lip.lastReported
    sendFlag := false } }

/-- The part once the latency of `p` has been offered: its report queue and its flags (R133, R164). -/
def State.offered (s : State) (p : Fin 16) (l : LipSync) : State :=
  if l.reports then s.offerReport ⟨p, s.egressTable[p].reporter, outgoingMicros l.audio l.actual⟩ else s

theorem State.offered_putProgram (s : State) (p : Fin 16) (l : LipSync) (g : Program) :
    (s.putProgram p g).offered p l = (s.offered p l).putProgram p g := by
  unfold State.offered
  split
  · exact State.offerReport_putProgram _ p g s
  · rfl

theorem State.reportLatency_eq (p : Fin 16) (s : State) :
    s.reportLatency p = (s.offered p s.programs[p].lip).putProgram p s.programs[p].reported := by
  unfold State.reportLatency State.offered Program.reported
  dsimp only
  by_cases silent : s.programs[p].lip.reports = false
  · have known := s.programs[p].lip.reports_eq_false_iff.mp silent
    rw [if_pos known, silent, Bool.or_false, if_neg Bool.false_ne_true, if_neg Bool.false_ne_true, ← known.2]
    exact (s.putProgram_same p).symm
  · rw [if_neg (mt s.programs[p].lip.reports_eq_false_iff.mpr silent)]
    rw [Bool.not_eq_false] at silent
    rw [silent, Bool.or_true, if_pos rfl, if_pos rfl, State.modifyProgram_eq, State.offerReport_putProgram]

theorem State.offered_programs (s : State) (p : Fin 16) (l : LipSync) : (s.offered p l).programs = s.programs := by
  unfold State.offered
  split
  · rw [State.offerReport_rest]
  · rfl

/-! ### The end of a wait (R131) -/

/-- Whether an update ends a wait: one runs, and the program is quiet. -/
def Program.endsWait (g : Program) : Bool := decide (g.lip.move = .waiting) && g.meter.quiet

theorem Program.quietMove_eq (g : Program) : g.quietMove = { g with
    lip := { g.lip with
      move := if g.endsWait then .fadingOut else g.lip.move
      pendingMove := if g.endsWait then false else g.lip.pendingMove }
    corr := if g.endsWait ∧ g.corr.dip = .rest then { g.corr with dip := .fadeOut, dipCount := 0 } else g.corr } := by
  have ends : g.endsWait = true ↔ g.lip.move = .waiting ∧ g.meter.quiet = true := by
    rw [Program.endsWait, Bool.and_eq_true, decide_eq_true_eq]
  unfold Program.quietMove
  by_cases waits : g.lip.move = .waiting ∧ g.meter.quiet = true
  · simp only [if_pos waits, ends.mpr waits, if_true, true_and]
    rfl
  · simp only [if_neg waits, Bool.eq_false_iff.mpr (mt ends.mp waits), Bool.false_eq_true, if_false, false_and]

/-! ### The whole update -/

theorem Program.update_eq (e : ProgramEntry) (processedIn : ProgramState) (g : Program) :
    let m := g.meter.update e (admissible processedIn g.votes)
    g.update e processedIn = { g with
      meter := m, corr := lawOf e m.momentary g (windowAfter e processedIn m.momentary g) } :=
  Program.correctionUpdate_eq e processedIn (g.withMeter (·.update e (admissible processedIn g.votes)))

theorem Program.update_lip (e : ProgramEntry) (processedIn : ProgramState) (g : Program) :
    (g.update e processedIn).lip = g.lip := by rw [Program.update_eq]

/-- The program after its update: what the meter and Correction made, the report it owes, and the fade-out that ends a
wait, which the output stage takes in dip state REST. -/
theorem Program.updated_eq (e : ProgramEntry) (processedIn : ProgramState) (g : Program) :
    let m := g.meter.update e (admissible processedIn g.votes)
    let c := lawOf e m.momentary g (windowAfter e processedIn m.momentary g)
    let ends := decide (g.lip.move = .waiting) && m.quiet
    (g.update e processedIn).reported.quietMove = { g with
      meter := m
      corr := if ends = true ∧ g.corr.dip = .rest then { c with dip := .fadeOut, dipCount := 0 } else c
      changed := g.changed || g.lip.reports
      lip := { g.lip with
        lastReported := if g.lip.reports then some (outgoingMicros g.lip.audio g.lip.actual) else g.lip.lastReported
        sendFlag := false
        move := if ends then .fadingOut else g.lip.move
        pendingMove := if ends then false else g.lip.pendingMove } } := by
  intro m c ends
  have dip : c.dip = g.corr.dip := lawOf_dip _ _ _ _
  rw [Program.update_eq, Program.quietMove_eq, ← dip]
  rfl

section
variable {p : Fin 16} {s : State} {processedIn : ProgramState}

/-- A meter update that is due replaces its program, and offers a report where one is owed. -/
theorem State.meterUpdate_eq (due : s.programs[p].meter.due = some processedIn)
    (processing : s.programs[p].state.processing = true) :
    s.meterUpdate p = (s.offered p s.programs[p].lip).putProgram p
      (s.programs[p].update (s.activeEntry p) processedIn).reported.quietMove := by
  unfold State.meterUpdate
  rw [due]
  dsimp only
  rw [if_pos processing, State.modifyProgram_eq _ p (·.quietMove), State.reportLatency_eq, State.modifyProgram_eq]
  simp only [State.putProgram_self, Program.update_lip, State.offered_putProgram, State.putProgram_put]

theorem State.meterUpdate_of_not_processing (still : s.programs[p].state.processing = false) : s.meterUpdate p = s := by
  unfold State.meterUpdate
  split
  · rfl
  · exact if_neg (by rw [still]; nofun)

end

/-- Settles O23: the meter measures, Correction takes the value, and Lip-Sync Alignment reports and ends a wait. -/
theorem meterUpdateResult : Obligations.MeterUpdateResult := by
  refine ⟨energiesFormed, gatesFormed, fun s p => ⟨fun processedIn due processing => ?_, fun undue => ?_⟩⟩
  · refine ⟨s.meterUpdate p, congrArg Host.Outcome.next (atIndex_fin p _ s), ?_⟩
    have whole := State.meterUpdate_eq due processing
    have updated := (congrArg (·.programs[p]) whole).trans
      ((State.putProgram_self _ p _).trans (Program.updated_eq (s.activeEntry p) processedIn s.programs[p]))
    have others (q : Fin 16) (other : q ≠ p) : (s.meterUpdate p).programs[q] = s.programs[q] := by
      rw [whole, State.putProgram_other _ p q _ other, State.offered_programs]
    have queue : (s.meterUpdate p).reportQueue = (s.offered p s.programs[p].lip).reportQueue := by rw [whole]; rfl
    have flags : (s.meterUpdate p).flags = (s.offered p s.programs[p].lip).flags := by rw [whole]; rfl
    intro e g m m' all
    have measured : m' = m.update e (admissible processedIn g.votes) := congrArg Program.meter updated
    clear_value m'
    subst measured
    refine ⟨rfl, rfl, saturating_eq _ _, rfl, rfl, fun v given => (m.update_histogram_some e _ given).2,
      fun none => (m.update_histogram_none e _ none).2, fun v given => m.update_counts e given,
      fun v given => m.update_counts_not e given, fun none => (m.update_histogram_none e _ none).1,
      Prod.mk.eta, rfl, rfl, rfl, ?_⟩
    intro ring c micros reports r ends
    have out : outgoingMicros g.lip.audio g.lip.actual = micros := outgoingMicros_eq _ _
    have owed : g.lip.reports = reports := by rw [LipSync.reports, out]
    have offered : s.offered p g.lip = if reports = true then s.offerReport r else s := by rw [State.offered, owed, out]
    have corr : (s.meterUpdate p).programs[p].corr =
        if ends = true ∧ g.corr.dip = .rest then { c with dip := .fadeOut, dipCount := 0 } else c :=
      congrArg Program.corr updated
    refine ⟨State.meterUpdate_rest p s, others, ?_, fun stays => ?_, fun fades rest => ?_, fun silent => ?_, fun told room => ?_,
      fun told full => ⟨fun before old later held mine newest => ?_, fun none => ?_⟩⟩
    · rw [corr]
      refine updated.trans ?_
      rw [← out, ← owed]
      rfl
    · rw [corr, if_neg fun both => Bool.false_ne_true (stays.symm.trans both.1)]
    · rw [corr, if_pos ⟨fades, rest⟩]
    · rw [queue, flags, offered, if_neg (by rw [silent]; nofun)]
      exact ⟨rfl, rfl⟩
    · rw [queue, flags, offered, if_pos told, State.offerReport_room r room]
      exact ⟨rfl, rfl⟩
    · rw [queue, flags, offered, if_pos told, State.offerReport_replaces r full held mine newest]
      exact ⟨rfl, rfl⟩
    · rw [queue, flags, offered, if_pos told, State.offerReport_drops r full none]
      exact ⟨rfl, rfl⟩
  · refine congrArg Host.Outcome.next ((atIndex_fin p _ s).trans ?_)
    rcases undue with none | still
    · exact State.meterUpdate_of_not_due none
    · exact State.meterUpdate_of_not_processing still

end Sys2Proof.Machine
end

section
/-! G lies within the limits of the active entry, and is 0 for a FREE program (R84, R85, R87, R88, R92). -/

namespace Sys2Proof.Machine

/-! ### What R84 says of one program -/

/-- The gain of a program under its active entry `e`: within its limits, and 0 while the program is FREE (R84). -/
structure Program.Limited (e : ProgramEntry) (g : Program) : Prop where
  low : -e.maxCut ≤ g.corr.gain
  high : g.corr.gain ≤ e.maxBoost
  free : g.state = .free → g.corr.gain = 0

theorem State.gainsLimited_iff (s : State) : s.GainsLimited ↔
    (∀ (which : Bank) (p : Fin 16), (s.bank which)[p].GainInRange) ∧ ∀ p : Fin 16, s.programs[p].Limited (s.activeEntry p) :=
  ⟨fun h => ⟨h.entries, fun p => ⟨(h.gain p).1, (h.gain p).2, h.free p⟩⟩,
    fun h => ⟨h.1, fun p => ⟨(h.2 p).low, (h.2 p).high⟩, fun p => (h.2 p).free⟩⟩

theorem State.GainsLimited.limited {s : State} (h : s.GainsLimited) (p : Fin 16) : s.programs[p].Limited (s.activeEntry p) :=
  (s.gainsLimited_iff.mp h).2 p

/-- `g'` has the gain of `g`, and is FREE only where `g` is. -/
structure Program.GainFrom (g g' : Program) : Prop where
  gain : g'.corr.gain = g.corr.gain
  free : g'.state = .free → g.state = .free

theorem Program.GainFrom.refl (g : Program) : g.GainFrom g := ⟨rfl, id⟩

theorem Program.GainFrom.trans {a b c : Program} (h : a.GainFrom b) (k : b.GainFrom c) : a.GainFrom c :=
  ⟨k.gain.trans h.gain, h.free ∘ k.free⟩

theorem Program.GainFrom.limited {g g' : Program} {e : ProgramEntry} (h : g.GainFrom g') (limited : g.Limited e) :
    g'.Limited e :=
  ⟨h.gain ▸ limited.low, h.gain ▸ limited.high, fun free => h.gain.trans (limited.free (h.free free))⟩

theorem Program.Moved.gainFrom {g g' : Program} (h : g.Moved g') : g.GainFrom g' := by
  obtain ⟨state, -, -, -, -, -, -, -, -, -, -, -, -, -, -, -, -, -, -, -, -, -, gain, -⟩ := h.keeps
  exact ⟨gain, fun free => state.symm.trans free⟩

/-! ### What sets a gain (R85, R87, R88) -/

@[simp] theorem Correction.takeUp_gain (c : Correction) (r : Int) : (c.takeUp r).gain = c.gain := by
  rw [Correction.takeUp_eq]

@[simp] theorem scheduled_gain (gain : Int) (g : Program) (c : Correction) : (scheduled gain g c).gain = gain :=
  Correction.takeUp_gain _ _

/-- A gain moves toward a value within the limits and does not pass it, so it stays within them. -/
theorem nextGain_bounds {e : ProgramEntry} {gain : Int} (low : -e.maxCut ≤ gain)
    (high : gain ≤ e.maxBoost) (lw : Int) : -e.maxCut ≤ nextGain e gain lw ∧ nextGain e gain lw ≤ e.maxBoost := by
  have limits : -e.maxCut ≤ e.maxBoost := low.trans high
  have least := le_clamp (e.target - lw) _ _ limits
  have greatest := clamp_le (e.target - lw) _ _ limits
  rw [nextGain_eq]
  omega

/-- The law runs in TRACK alone, on a window loudness and a momentary value (R85, R89). -/
theorem lawOf_idle {e : ProgramEntry} {momentary : Option Int} {c : Correction}
    (idle : ¬ ∃ lw m, e.mode = .track ∧ c.window = some lw ∧ momentary = some m) (g : Program) : lawOf e momentary g c = c := by
  unfold lawOf
  split
  · next lw m track window => exact absurd ⟨lw, m, track, window, rfl⟩ idle
  · rfl

theorem lawOf_bounds {e : ProgramEntry} {c : Correction} (low : -e.maxCut ≤ c.gain)
    (high : c.gain ≤ e.maxBoost) (momentary : Option Int) (g : Program) :
    -e.maxCut ≤ (lawOf e momentary g c).gain ∧ (lawOf e momentary g c).gain ≤ e.maxBoost := by
  by_cases runs : ∃ lw m, e.mode = .track ∧ c.window = some lw ∧ momentary = some m
  · obtain ⟨lw, m, track, window, rfl⟩ := runs
    rw [lawOf_track track window]
    split
    · exact ⟨low, high⟩
    · rw [scheduled_gain]
      exact nextGain_bounds low high lw
  · rw [lawOf_idle runs]
    exact ⟨low, high⟩

/-- A program that processes house samples keeps R84 at its meter update. -/
theorem Program.Limited.update {e : ProgramEntry} {g : Program} (h : g.Limited e)
    (processing : g.state.processing = true) (processedIn : ProgramState) : (g.update e processedIn).Limited e := by
  have taken : g.state ≠ .free := fun free => by rw [free] at processing; cases processing
  rw [Program.update_eq]
  obtain ⟨low, high⟩ := lawOf_bounds (c := windowAfter e processedIn
    (g.meter.update e (admissible processedIn g.votes)).momentary g) h.low h.high
    (g.meter.update e (admissible processedIn g.votes)).momentary g
  exact ⟨low, high, fun free => absurd free taken⟩

/-- The gain that an entry gives a program of the gain `gain` lies within the entry's limits (R87). -/
theorem newGain_bounds {e : ProgramEntry} (range : e.GainInRange) (gain : Int) :
    -e.maxCut ≤ newGain e gain ∧ newGain e gain ≤ e.maxBoost := by
  have limits : -e.maxCut ≤ e.maxBoost := range.preset.1.trans range.preset.2
  unfold newGain
  cases e.mode with
  | measure => exact range.preset
  | track => exact ⟨le_clamp gain _ _ limits, clamp_le gain _ _ limits⟩

theorem Program.loudnessFields_gain (e : ProgramEntry) {g : Program} (taken : g.state ≠ .free) :
    (g.loudnessFields e).corr.gain = newGain e g.corr.gain := by
  rw [Program.loudnessFields_taken e taken]
  have gained : (if g.state.processing = true ∧ newGain e g.corr.gain ≠ g.corr.gain
      then scheduled (newGain e g.corr.gain) g g.corr else { g.corr with gain := newGain e g.corr.gain }).gain =
      newGain e g.corr.gain := by
    split
    · exact scheduled_gain _ _ _
    · rfl
  unfold Program.loudnessTaken
  dsimp only
  split <;> exact gained

/-- A program that is not FREE after its state outcome takes the gain of R87; a FREE one keeps what it has. -/
theorem Program.takeIn_gain (old new : ProgramEntry) (slots : List (Fin 128)) (released fallback : Bool) (g : Program) :
    (g.takeIn old new slots released fallback).corr.gain =
      if g.state = .free then g.corr.gain else newGain new g.corr.gain := by
  unfold Program.takeIn
  by_cases free : g.state = .free
  · rw [if_pos free, Program.loudnessFields_free new (by exact free)]
  · rw [if_neg free, Program.loudnessFields_gain new (by exact free)]

/-- A new entry in force leaves its program within its limits, whatever the gain was before (R87, R88). -/
theorem broughtIn_limited {new : ProgramEntry} {g : Program} (range : new.GainInRange)
    (free : g.state = .free → g.corr.gain = 0) (old : ProgramEntry) : (broughtIn old new g).Limited new := by
  have gain : (broughtIn old new g).corr.gain = if (g.outcome old new).state = .free then (g.outcome old new).corr.gain
      else newGain new (g.outcome old new).corr.gain := by
    rw [← Program.takeIn_broughtIn, Program.takeIn_gain]
  have follows := (broughtIn_follows old new g).free
  cases valid : new.valid with
  | true =>
    have taken : (g.outcome old new).state ≠ .free := by
      unfold Program.outcome
      rw [if_pos valid]
      split
      · nofun
      · next held =>
        split
        · nofun
        · exact held
    obtain ⟨low, high⟩ := newGain_bounds range (g.outcome old new).corr.gain
    rw [if_neg taken] at gain
    exact ⟨gain ▸ low, gain ▸ high, fun is => by rw [follows, valid] at is; cases is⟩
  | false =>
    have freed : (g.outcome old new).state = .free ∧ (g.outcome old new).corr.gain = 0 := by
      by_cases held : g.state = .free
      · rw [Program.outcome_free old valid held]
        exact ⟨held, free held⟩
      · rw [Program.outcome_freed old valid held]
        exact ⟨rfl, rfl⟩
    rw [if_pos freed.1, freed.2] at gain
    exact ⟨gain ▸ neg_nonpos.mpr range.maxCut, gain ▸ range.maxBoost, fun _ => gain⟩

/-! ### Entries from orders (R44, R175) -/

theorem signedRangeAt_bounds {bs : List Byte} {off : Nat} {lo hi v : Int} (h : signedRangeAt bs off lo hi = some v) :
    lo ≤ v ∧ v ≤ hi := by
  unfold signedRangeAt at h
  dsimp only at h
  split at h
  · next range => cases h; exact range
  · cases h

/-- A Program Table entry that an order's contents give holds its gain fields in the ranges of Table 3-1. -/
theorem readProgram_gainInRange {bs : List Byte} {e : ProgramEntry} (h : readProgram bs = some e) : e.GainInRange := by
  unfold readProgram at h
  iterate 4 obtain ⟨_, -, h⟩ := Option.bind_eq_some_iff.mp h
  extract_lets rest at h
  obtain ⟨fallback, h⟩ : ∃ fallback, rest fallback = some e := by
    split at h <;> exact (Option.bind_eq_some_iff.mp h).imp fun _ => And.right
  iterate 2 obtain ⟨_, -, h⟩ := Option.bind_eq_some_iff.mp h
  obtain ⟨boost, boostRead, h⟩ := Option.bind_eq_some_iff.mp h
  obtain ⟨cut, cutRead, h⟩ := Option.bind_eq_some_iff.mp h
  iterate 3 obtain ⟨_, -, h⟩ := Option.bind_eq_some_iff.mp h
  obtain ⟨preset, presetRead, h⟩ := Option.bind_eq_some_iff.mp h
  iterate 8 obtain ⟨_, -, h⟩ := Option.bind_eq_some_iff.mp h
  split at h <;> cases h
  exact ⟨(signedRangeAt_bounds boostRead).1, (signedRangeAt_bounds cutRead).1, signedRangeAt_bounds presetRead⟩

theorem ProgramEntry.powerOn_gainInRange : ProgramEntry.powerOn.GainInRange := by constructor <;> decide

theorem NewEntry.FromOrder.program_gainInRange {e : ProgramEntry} (h : (NewEntry.program e).FromOrder) : e.GainInRange := by
  rcases h with ⟨table, bs, read⟩ | ⟨s, table, i, cleared⟩
  · cases table <;> simp [Machine.readEntry] at read
    exact readProgram_gainInRange read
  · cases table <;> simp [State.clearedEntry] at cleared
    exact cleared ▸ ProgramEntry.powerOn_gainInRange

/-! ### Which acts keep every gain -/

namespace State.GainsLimited

/-- An act that touches neither the programs nor the banks. -/
theorem elsewhere {s t : State} (h : s.GainsLimited)
    (same : (t.bankA, t.bankB, t.activeBank, t.programs) = (s.bankA, s.bankB, s.activeBank, s.programs)) : t.GainsLimited := by
  simp only [Prod.mk.injEq] at same
  obtain ⟨bankA, bankB, active, programs⟩ := same
  rw [State.gainsLimited_iff] at h ⊢
  refine ⟨fun which p => ?_, fun p => ?_⟩
  · have bank : t.bank which = s.bank which := by cases which <;> assumption
    rw [bank]
    exact h.1 which p
  · rw [programs, State.activeEntry_congr bankA bankB active]
    exact h.2 p

variable {s : State} (h : s.GainsLimited) (p : Fin 16)
include h

theorem putProgram {g : Program} (limited : g.Limited (s.activeEntry p)) : (s.putProgram p g).GainsLimited := by
  refine (State.gainsLimited_iff _).mpr ⟨fun which => by cases which; exacts [h.entries .a, h.entries .b], fun q => ?_⟩
  rw [State.putProgram_activeEntry, State.putProgram_get]
  split
  · next same => rw [same]; exact limited
  · exact h.limited q

/-- An act that replaces one program, keeping its gain, and otherwise touches neither the programs nor the banks. -/
theorem replaced {t : State} {g : Program} (same : (t.bankA, t.bankB, t.activeBank, t.programs) =
    (s.bankA, s.bankB, s.activeBank, s.programs.set p g)) (from_ : s.programs[p].GainFrom g) : t.GainsLimited :=
  (h.putProgram p (from_.limited (h.limited p))).elsewhere same

theorem modifyProgram {f : Program → Program} (from_ : ∀ g : Program, g.GainFrom (f g)) : (s.modifyProgram p f).GainsLimited :=
  h.replaced p rfl (from_ _)

theorem moved {f : Program → Program} (moved : ∀ g : Program, g.Moved (f g)) : (s.modifyProgram p f).GainsLimited :=
  h.modifyProgram p fun g => (moved g).gainFrom

theorem recompute : (s.recompute p).GainsLimited := by
  obtain ⟨g, c, put, moved⟩ := s.recompute_spec p
  rw [put]
  exact h.replaced p rfl (.trans (b := { s.programs[p] with
    lip := s.alignment p s.programs[p].lip, changed := s.programs[p].changed || c }) ⟨rfl, id⟩ moved.gainFrom)

theorem releaseBlocks : (s.releaseBlocks p).GainsLimited :=
  h.replaced p rfl ⟨rfl, id⟩

theorem syncFallback : (s.syncFallback p).GainsLimited := by
  unfold State.syncFallback
  dsimp only
  split
  · exact h
  · refine State.GainsLimited.recompute ?_ p
    exact h.modifyProgram p fun _ => ⟨rfl, id⟩

theorem recomputeNaming (i : Fin 64) : (s.recomputeNaming i).GainsLimited := by
  refine forEach_induct (P := State.GainsLimited) 16 _ s h fun p t ht => ?_
  split
  · exact ht.recompute p
  · exact ht

theorem latencyReport (reporter : BitVec 32) (micros : Nat) : (s.latencyReport reporter micros).GainsLimited := by
  unfold State.latencyReport
  split
  · next i _ =>
    have reported : (s.modifyLatency i (·.report micros)).GainsLimited := h.elsewhere rfl
    dsimp only
    split
    · exact reported
    · exact reported.recomputeNaming i
  · split
    · next i _ =>
      split
      · exact State.GainsLimited.recomputeNaming (s := s.modifyLatency i fun _ => .learned reporter micros) (h.elsewhere rfl) i
      · exact h.elsewhere rfl
    · exact h.elsewhere rfl

theorem offerPass (frame : List Byte) : (s.offerPass frame).GainsLimited := by
  rw [State.offerPass_rest]
  exact h.elsewhere rfl

theorem passIf (switch : Bool) (frame : List Byte) : (s.passIf switch frame).GainsLimited := by
  unfold State.passIf
  split
  · exact h.offerPass frame
  · exact h

theorem receive (frame : List Byte) : (s.receive frame).GainsLimited := by
  unfold State.receive
  split
  · refine State.GainsLimited.passIf ?_ _ _
    rw [State.offerOrder_rest]
    exact h.elsewhere rfl
  · exact h.elsewhere rfl
  · exact h.offerPass frame
  · exact (h.latencyReport _ _).passIf _ _
  · exact h.elsewhere rfl
  · exact h.passIf _ _
  · exact h.passIf _ _

theorem offerNotice (n : Notice) : (s.offerNotice n).GainsLimited := by
  rw [State.offerNotice_rest]
  exact h.elsewhere rfl

/-- New vote counts and the fallback test leave every gain (R56, R148). -/
theorem applyVotes : s.applyVotes.GainsLimited := by
  refine forEach_induct (P := State.GainsLimited) 16 _ s h fun p t ht => State.GainsLimited.syncFallback ?_ p
  exact ht.modifyProgram p fun _ => ⟨rfl, id⟩

theorem evaluate : s.evaluate.GainsLimited := by
  unfold State.evaluate
  split
  · have zeroed :
        ({ s with triggers := s.stepTriggers.triggers, evaluationDue := false } : State).zeroEventCounts.GainsLimited := by
      refine (State.gainsLimited_iff _).mpr ⟨fun which => by cases which; exacts [h.entries .a, h.entries .b], fun p => ?_⟩
      refine Program.GainFrom.limited (g := s.programs[p]) ?_ (h.limited p)
      simpa [State.zeroEventCounts] using ⟨rfl, id⟩
    unfold State.offerStepNotices
    refine List.foldlRecOn _ _ zeroed.applyVotes fun t ht i _ => ?_
    split
    · exact ht.offerNotice _
    · exact ht
  · exact h

theorem egressChoice : s.egressChoice.GainsLimited := by
  unfold State.egressChoice
  split
  · split
    · next t chosen =>
      unfold State.chooseMedia at chosen
      split at chosen <;> cases chosen
      exact h.replaced _ rfl ⟨rfl, id⟩
    · cases chosen : s.chooseOther with
      | none => exact h
      | some t =>
        obtain ⟨c, -, found⟩ := List.exists_of_findSome?_eq_some chosen
        obtain ⟨⟨f, u⟩, head, rfl⟩ := Option.map_eq_some_iff.mp found
        unfold State.takeHead at head
        split at head <;> split at head <;> cases head <;> exact h.elsewhere rfl
  · exact h

theorem frameEnd : s.frameEnd.GainsLimited := by
  unfold State.frameEnd
  split
  · split
    · exact h.elsewhere rfl
    · exact h
  · exact h

theorem completeDeferred (mine : Order → Bool) : (s.completeDeferred mine).GainsLimited := by
  rcases s.completeDeferred_spec mine with same | ⟨_, _, _, _, _, answered⟩
  · rwa [same]
  · rw [answered]
    exact h.elsewhere rfl

/-! ### The acts of a program -/

theorem meterUpdate : (s.meterUpdate p).GainsLimited := by
  cases due : s.programs[p].meter.due with
  | none => rwa [State.meterUpdate_of_not_due due]
  | some processedIn =>
    cases processing : s.programs[p].state.processing with
    | false => rwa [State.meterUpdate_of_not_processing processing]
    | true =>
      have offered : (s.offered p s.programs[p].lip).GainsLimited := by
        unfold State.offered
        split
        · rw [State.offerReport_rest]
          exact h.elsewhere rfl
        · exact h
      have updated : Program.Limited (s.activeEntry p) (s.programs[p].update (s.activeEntry p) processedIn) :=
        (h.limited p).update processing processedIn
      have reported (g : Program) : g.GainFrom g.reported.quietMove :=
        .trans (b := g.reported) ⟨rfl, id⟩ (Program.quietMove_moved _).gainFrom
      have entry : (s.offered p s.programs[p].lip).activeEntry p = s.activeEntry p := by
        unfold State.offered
        split
        · rw [State.offerReport_rest]
          rfl
        · rfl
      rw [State.meterUpdate_eq due processing]
      refine offered.putProgram p ?_
      rw [entry]
      exact (reported _).limited updated

/-- A packet that ends STOPPING leaves the gain, and the program STOPPED (R51, R88). -/
theorem packetComplete : (s.packetComplete p).GainsLimited := by
  unfold State.packetComplete
  split
  · have built (frame : List Byte) (g : Program) : g.GainFrom
        ((g.queueMedia frame).withEgress fun x => { x with progress := [], sequence := x.sequence + 1 }) := by
      unfold Program.queueMedia
      split <;> exact ⟨rfl, id⟩
    dsimp only
    split
    · refine State.GainsLimited.completeDeferred ?_ _
      exact (h.modifyProgram p (built _)).replaced p rfl ⟨rfl, nofun⟩
    · exact h.modifyProgram p (built _)
  · exact h

theorem programSample : (s.programSample p).GainsLimited := by
  have running (g : Program) : g.GainFrom g.fillingToRunning := by
    unfold Program.fillingToRunning
    split
    · exact ⟨rfl, nofun⟩
    · exact .refl g
  have fed (g : Program) (xs : List Sample) : g.GainFrom (if g.state.fed then g.withMeter (·.feed xs) else g) := by
    split
    · exact ⟨rfl, id⟩
    · exact .refl g
  have marked (g : Program) : g.GainFrom g.markSubBlock := by
    unfold Program.markSubBlock
    split
    · exact ⟨rfl, id⟩
    · exact .refl g
  have output (g : Program) (e : ProgramEntry) (ys : List Sample) :
      g.GainFrom (g.outputStage e s.house.count ys).advanceIndices := ⟨rfl, id⟩
  unfold State.programSample
  split
  · exact h.replaced p rfl (((running _).trans (fed _ _)).trans (((output _ _ _).trans
      (Program.takeUpGain_moved _).gainFrom).trans (marked _)))
  · exact h

/-- A START takes the preset gain of the entry (R92), whose range lies within the limits. -/
theorem startProgram : (s.startProgram p).2.GainsLimited := by
  unfold State.startProgram
  dsimp only
  split
  · split
    · exact h
    · have preset := (h.entries s.activeBank p).preset
      refine (h.syncFallback p).putProgram p ?_
      have entry : (s.syncFallback p).activeEntry p = s.activeEntry p := by rw [State.syncFallback_rest]; rfl
      rw [entry]
      exact ⟨preset.1, preset.2, nofun⟩
  all_goals exact h

theorem stopProgram : (s.stopProgram p).2.GainsLimited := by
  have stopped : (s.modifyProgram p fun g =>
      ((g.enter .stopping).withCorr fun c => { c with stop := 0 }).endMoveAtStop).GainsLimited :=
    h.modifyProgram p fun g => .trans (b := (g.enter .stopping).withCorr fun c => { c with stop := 0 }) ⟨rfl, nofun⟩
      (Program.endMoveAtStop_moved _).gainFrom
  unfold State.stopProgram
  split
  · exact stopped
  · exact stopped
  all_goals exact h

theorem allocateDelay (request : Nat) : (s.allocateDelay p request).2.2.GainsLimited := by
  unfold State.allocateDelay
  split
  · exact h
  · split
    · exact h
    · dsimp only
      split
      · exact h
      · unfold State.allocate
        refine State.GainsLimited.recompute ((h.releaseBlocks p).replaced p rfl ?_) p
        exact ⟨rfl, id⟩

theorem releaseDelay : (s.releaseDelay p).2.GainsLimited := by
  unfold State.releaseDelay
  split
  · exact h
  · exact (h.releaseBlocks p).recompute p

theorem afterReading (table : Table) (i : Nat) : (s.afterReading table i).GainsLimited := by
  have effect : (s.readEffect table i).GainsLimited := by
    unfold State.readEffect
    cases table with
    | programStatus => exact h.modifyProgram _ fun _ => ⟨rfl, id⟩
    | _ => exact h.elsewhere rfl
  exact effect.elsewhere rfl

/-! ### Writes (R46, R175) -/

theorem storeStream (i : Fin 32) (e : StreamEntry) : (s.storeStream i e).GainsLimited :=
  forEach_induct (P := State.GainsLimited) 16 State.recompute (s.modifyStream i fun t => ⟨e, t.ctx.restart e.valid⟩)
    (h.elsewhere rfl) fun p _ ht => ht.recompute p

theorem writeLatency (i : Fin 64) (w : LatencyWrite) : (s.writeLatency i w).GainsLimited := by
  have stored : (s.modifyLatency i (·.written w)).GainsLimited := h.elsewhere rfl
  unfold State.writeLatency
  dsimp only
  split
  · exact stored
  · exact stored.recomputeNaming i

theorem writeTrigger (i : Fin 48) (e : TriggerEntry) : (s.writeTrigger i e).GainsLimited := by
  unfold State.writeTrigger
  refine State.GainsLimited.applyVotes (State.GainsLimited.elsewhere (s := if _ then s.offerNotice _ else s) ?_ rfl)
  split
  · exact h.offerNotice _
  · exact h

end State.GainsLimited

/-! ### A new entry in force (R46, R52, R57) -/

theorem State.programAfter_limited (s : State) (old : ProgramEntry) (p : Fin 16) (range : (s.activeEntry p).GainInRange)
    (free : s.programs[p].state = .free → s.programs[p].corr.gain = 0) : (s.programAfter old p).Limited (s.activeEntry p) := by
  obtain ⟨state, -, -, -, -, -, -, -, -, gain, -⟩ := State.recompute_keeps p
    (s.putProgram p (broughtIn old (s.activeEntry p) s.programs[p]))
  rw [State.putProgram_self] at state gain
  exact Program.GainFrom.limited ⟨gain, fun is => state.symm.trans is⟩ (broughtIn_limited range free old)

/-- At a swap every program takes the gain of its new entry, so the limits of the old one are not asked. -/
theorem State.bringIn_all_gainsLimited (old : Fin 16 → ProgramEntry) {s : State}
    (entries : ∀ (which : Bank) (p : Fin 16), (s.bank which)[p].GainInRange)
    (free : ∀ p : Fin 16, s.programs[p].state = .free → s.programs[p].corr.gain = 0) :
    (forEach 16 (fun p u => u.bringIn (old p) p) s).GainsLimited := by
  have bank (which : Bank) : (forEach 16 (fun p u => u.bringIn (old p) p) s).bank which = s.bank which := by
    rw [State.bringIn_all]
    cases which <;> rfl
  have entry (p : Fin 16) : (forEach 16 (fun p u => u.bringIn (old p) p) s).activeEntry p = s.activeEntry p :=
    State.activeEntry_congr (by rw [State.bringIn_all]) (by rw [State.bringIn_all]) (by rw [State.bringIn_all]) p
  have program (p : Fin 16) : (forEach 16 (fun p u => u.bringIn (old p) p) s).programs[p] = s.programAfter (old p) p := by
    rw [State.bringIn_all]
    exact ofFn_get _ p
  rw [State.gainsLimited_iff]
  refine ⟨fun which => (bank which).symm ▸ entries which, fun p => ?_⟩
  rw [entry, program]
  exact s.programAfter_limited (old p) p (entries _ p) (free p)

theorem State.setBankEntry_get (s : State) (which bank : Bank) (p q : Fin 16) (e : ProgramEntry) :
    ((s.setBankEntry which p e).bank bank)[q] = if bank = which ∧ q = p then e else (s.bank bank)[q] := by
  by_cases same : bank = which
  · subst same
    simp [Vector.getElem_set, Fin.ext_iff, eq_comm]
  · obtain rfl : bank = which.other := by cases bank <;> cases which <;> simp_all [Bank.other]
    rw [State.setBankEntry_bank_other, if_neg fun both => same both.1]

namespace State.GainsLimited
variable {s : State} (h : s.GainsLimited)
include h

theorem swapBanks : s.swapBanks.GainsLimited := by
  have finished : (forEach 16 State.finishDue s).GainsLimited := by
    refine forEach_induct (P := State.GainsLimited) 16 _ s h fun p t ht => ?_
    unfold State.finishDue
    split
    · exact (ht.meterUpdate p).packetComplete p
    · exact ht
  unfold State.swapBanks
  dsimp only
  generalize forEach 16 State.finishDue s = t at finished ⊢
  have brought := State.bringIn_all_gainsLimited t.activeEntry
    (s := { t with activeBank := t.activeBank.other, swapPending := false }) finished.entries finished.free
  refine forEach_induct (P := State.GainsLimited) 16 _ _ (brought.completeDeferred _) fun p u hu => ?_
  split
  · exact hu.completeDeferred _
  · exact hu

/-- A write into the active bank has its program take the new gain; one into the other bank leaves every gain (R46). -/
theorem writeProgram (which : Bank) (p : Fin 16) {e : ProgramEntry} (range : e.GainInRange) :
    (s.writeProgram which p e).2.GainsLimited := by
  have entries (bank : Bank) (q : Fin 16) : ((s.setBankEntry which p e).bank bank)[q].GainInRange := by
    rw [State.setBankEntry_get]
    split
    · exact range
    · exact h.entries bank q
  have stored (q : Fin 16) (elsewhere : which ≠ s.activeBank ∨ q ≠ p) :
      (s.setBankEntry which p e).programs[q].Limited ((s.setBankEntry which p e).activeEntry q) := by
    rw [s.setBankEntry_activeEntry which p q e elsewhere, State.setBankEntry_programs]
    exact h.limited q
  unfold State.writeProgram
  split
  · split
    · exact h
    · rw [State.bringIn_put]
      refine (State.gainsLimited_iff _).mpr ⟨entries, fun q => ?_⟩
      rw [State.putProgram_activeEntry, State.putProgram_get]
      split
      · next same =>
        subst same
        refine State.programAfter_limited _ _ q (entries _ q) ?_
        rw [State.setBankEntry_programs]
        exact h.free q
      · next other => exact stored q (.inr other)
  · next inactive => exact (State.gainsLimited_iff _).mpr ⟨entries, fun q => stored q (.inl inactive)⟩

theorem writeEntry (which : Bank) (i : Nat) {n : NewEntry} (from_ : n.FromOrder) : (s.writeEntry which i n).2.GainsLimited := by
  cases n with
  | settings c => exact h.elsewhere rfl
  | stream e =>
    simp only [State.writeEntry, State.writeStream]
    split
    · exact h
    · exact h.storeStream _ e
  | program e => exact h.writeProgram which _ from_.program_gainInRange
  | egress e =>
    simp only [State.writeEntry, State.writeEgress]
    split
    · exact h
    · exact State.GainsLimited.recompute (s := { s with egressTable := s.egressTable.set (Fin.ofNat 16 i) e })
        (h.elsewhere rfl) _
  | latency w =>
    simp only [State.writeEntry, State.tryLatency]
    split
    · exact h
    · exact h.writeLatency _ w
  | trigger e =>
    simp only [State.writeEntry, State.tryTrigger]
    split
    · exact h
    · dsimp only
      exact h.writeTrigger _ e

end State.GainsLimited

/-! ### Every step -/

/-- Every act keeps every gain within its limits. -/
theorem State.GainsLimited.kept : Kept State.GainsLimited where
  pending _ _ h := h.elsewhere rfl
  house _ _ h := h.elsewhere rfl
  evaluationDue _ _ h := h.elsewhere rfl
  ready _ _ h := h.elsewhere rfl
  receive frame _ h := h.receive frame
  loopUpdate _ _ h := h.elsewhere rfl
  gapTimeout _ _ h := h.elsewhere rfl
  holdoverLimit _ _ h := h.elsewhere rfl
  expire _ _ _ h := h.elsewhere rfl
  meterUpdate p _ h := h.meterUpdate p
  packetComplete p _ h := h.packetComplete p
  fadeOutEnd p _ h := h.moved p Program.fadeOutEnd_moved
  fadeInEnd now e p _ h := h.moved p fun g => g.fadeInEnd_moved now e
  quietWaitExpiry now p _ h := h.moved p fun g => g.quietWaitExpiry_moved now
  evaluate _ h := h.evaluate
  egressChoice _ h := h.egressChoice
  frameEnd _ h := h.frameEnd
  swapBanks _ h := h.swapBanks
  convertAll _ h := h.elsewhere rfl
  ageEntries _ h := h.elsewhere rfl
  syncFallback p _ h := h.syncFallback p
  programSample p _ h := h.programSample p
  withoutTaken _ h := h.elsewhere rfl
  answer _ _ _ _ _ _ h _ := h.elsewhere rfl
  deferOrder _ h _ := h.elsewhere rfl
  record _ _ _ _ h := h.elsewhere rfl
  afterReading table i _ h := h.afterReading table i
  writeEntry which i _ _ from_ h := h.writeEntry which i from_
  startProgram p _ h := h.startProgram p
  stopProgram p _ h := h.stopProgram p
  allocateDelay p request _ h := h.allocateDelay p request
  releaseDelay p _ h := h.releaseDelay p
  resetStream i _ h := h.storeStream i _
  resetIntegration p _ h := h.modifyProgram p fun _ => ⟨rfl, id⟩
  acknowledge which _ h := by cases which <;> exact h.elsewhere rfl
  sendLatency p _ h := h.modifyProgram p fun _ => ⟨rfl, id⟩
  reset _ _ _ _ := State.reset_gainsLimited.elsewhere rfl

/-- Settles O59: each act of a step keeps every gain within the limits of its entry. -/
theorem stepKeepsGainsLimited : Obligations.StepKeepsGainsLimited :=
  State.GainsLimited.kept.step

end Sys2Proof.Machine
end

section
/-! The gain law of Correction, and the taking up of the decisions it schedules (R84, R85, R89, R90, R94; log 14). -/

namespace Sys2Proof.Machine

/-! ### The gain law (R84, R85, R89) -/

section
variable {e : ProgramEntry} {c : Correction}

theorem lawOf_measure (measure : e.mode = .measure) (momentary : Option Int) (g : Program) : lawOf e momentary g c = c :=
  lawOf_idle (fun ⟨_, _, track, _⟩ => absurd (measure.symm.trans track) nofun) g

/-- The law leaves Correction alone under a freeze vote, with no window loudness or momentary value, and below the freeze
threshold (R85, step 1). -/
theorem lawOf_frozen {momentary : Option Int} {g : Program} (frozen : 0 < g.votes.freeze ∨ c.window = none ∨
    momentary = none ∨ ∃ m, momentary = some m ∧ m < e.freezeThreshold) : lawOf e momentary g c = c := by
  by_cases runs : ∃ lw m, e.mode = .track ∧ c.window = some lw ∧ momentary = some m
  · obtain ⟨lw, m, track, window, rfl⟩ := runs
    rw [lawOf_track track window, if_pos]
    rcases frozen with vote | none | none | ⟨_, given, below⟩
    · exact .inl vote
    · exact absurd (window.symm.trans none) nofun
    · cases none
    · cases given
      exact .inr (.inl below)
  · exact lawOf_idle runs g

/-- Without a freeze the law moves the gain by R85 and schedules it, unless it stands there already. -/
theorem lawOf_free {lw m : Int} {g : Program} (track : e.mode = .track) (window : c.window = some lw)
    (vote : g.votes.freeze = 0) (above : e.freezeThreshold ≤ m) : lawOf e (some m) g c =
      if nextGain e c.gain lw = c.gain then c else scheduled (nextGain e c.gain lw) g c := by
  rw [lawOf_track track window]
  simp only [vote, Nat.lt_irrefl, above.not_gt, false_or]

end

/-! ### The schedule (R89, R90) -/

/-- Where no entry has been reached nothing is taken up. -/
theorem Correction.takeUp_none {c : Correction} {r : Int} (above : ∀ x ∈ c.schedule, r < x.content) : c.takeUp r = c := by
  have reached : c.schedule.filter (fun x => decide (x.content ≤ r)) = [] :=
    List.filter_eq_nil_iff.mpr fun x mem => by simpa using above x mem
  unfold Correction.takeUp
  rw [reached]
  rfl

/-- The newest entry reached sets the output gain and starts the ramp, and the entries reached leave. -/
theorem Correction.takeUp_newest {c : Correction} {passed left : List GainEntry} {newest : GainEntry} {r : Int}
    (schedule : c.schedule = passed ++ newest :: left) (below : ∀ x ∈ passed, x.content ≤ r) (reached : newest.content ≤ r)
    (above : ∀ x ∈ left, r < x.content) : c.takeUp r = { c with
      schedule := left, outputGain := newest.gain, ramp := c.ramp.toward newest.gain } := by
  have taken : c.schedule.filter (fun x => decide (x.content ≤ r)) = passed ++ [newest] := by
    have none : left.filter (fun x => decide (x.content ≤ r)) = [] :=
      List.filter_eq_nil_iff.mpr fun x mem => by simpa using above x mem
    have all : passed.filter (fun x => decide (x.content ≤ r)) = passed :=
      List.filter_eq_self.mpr fun x mem => decide_eq_true (below x mem)
    rw [schedule, List.filter_append, all, List.filter_cons_of_pos (by simpa using reached), none]
  have stays : c.schedule.filter (fun x => decide (r < x.content)) = left := by
    have none : passed.filter (fun x => decide (r < x.content)) = [] :=
      List.filter_eq_nil_iff.mpr fun x mem => by simpa using below x mem
    have all : left.filter (fun x => decide (r < x.content)) = left :=
      List.filter_eq_self.mpr fun x mem => decide_eq_true (above x mem)
    rw [schedule, List.filter_append, none, List.filter_cons_of_neg (by simpa using reached), all, List.nil_append]
  unfold Correction.takeUp
  rw [taken, List.getLast?_concat, stays]

/-- With an empty schedule and the read index below the content index a decided gain waits alone. -/
theorem scheduled_waits {gain : Int} {g : Program} {c : Correction} (waits : g.readIndex < g.content.toNat)
    (empty : c.schedule = []) : scheduled gain g c = { c with gain := gain, schedule := [⟨g.content.toNat, gain⟩] } := by
  have queue : dropNear g.content.toNat c.schedule ++ [GainEntry.mk g.content.toNat gain] = [⟨g.content.toNat, gain⟩] := by
    rw [empty]
    rfl
  rw [scheduled_eq, queue]
  exact Correction.takeUp_none (c := { c with gain := gain, schedule := [⟨g.content.toNat, gain⟩] }) (by simpa using waits)

/-- Settles O24: the law is `lawOf`, which freezes, finds the gain in place, or schedules the next one. -/
theorem gainLawResult : Obligations.GainLawResult := by
  intro e momentary g cut boost
  have unchanged (law : lawOf e momentary g g.corr = g.corr) : g.gainLaw e momentary = g := by
    rw [Program.gainLaw_eq, law]
  refine ⟨fun measure => unchanged (lawOf_measure measure _ _), fun frozen => unchanged (lawOf_frozen frozen), ?_,
    Program.gainLaw_eq e momentary g⟩
  rintro lw m track vote window rfl above desired gain
  have next : nextGain e g.corr.gain lw = gain := by rw [nextGain_eq, clamp_eq _ _ _ (by omega)]
  have law := lawOf_free track window vote above
  rw [next] at law
  refine ⟨fun inPlace => unchanged (law.trans (if_pos inPlace)), fun moves => ?_⟩
  rw [if_neg moves] at law
  have corr : (g.gainLaw e (some m)).corr = scheduled gain g g.corr := by rw [Program.gainLaw_eq, law]
  refine ⟨by rw [corr, scheduled_gain], fun waits empty => by rw [corr, scheduled_waits waits empty], ?_⟩
  rw [Program.gainLaw_eq]

/-! ### The linear value of a gain (R94; log 14) -/

/-- A search by doubling answers the lower end at some number of bits from the first on. -/
theorem untilAgree_lower {α : Type} [DecidableEq α] (ends : Nat → α × α) (tries bits : Nat) :
    ∃ b, bits ≤ b ∧ untilAgree ends tries bits = (ends b).1 := by
  induction tries generalizing bits with
  | zero => exact ⟨bits, le_rfl, rfl⟩
  | succ tries ih =>
    rw [untilAgree]
    split
    · exact ⟨bits, le_rfl, rfl⟩
    · obtain ⟨b, le, found⟩ := ih (2 * bits)
      exact ⟨b, by omega, found⟩

/-- A linear value is the rounding of a number that lies below the exact one by less than 2⁻¹²⁸. -/
theorem linearGain_eq_round (gain : Int) : ∃ q : ℚ, linearGain gain = roundF64 q ∧
    |(10 : ℝ) ^ ((gain : ℝ) / 2000) - q| ≤ 1 / 2 ^ 128 := by
  obtain ⟨bits, many, found⟩ := untilAgree_lower (fun bits =>
    (roundF64 (mkRat (tenRootFloor gain 2000 bits) (2 ^ bits)),
      roundF64 (mkRat (tenRootFloor gain 2000 bits + 1) (2 ^ bits)))) 12 128
  refine ⟨_, found, ?_⟩
  have scale : (0 : ℝ) < 2 ^ bits := by positivity
  have unit : (1 / 2 ^ bits : ℝ) ≤ 1 / 2 ^ 128 := by gcongr; norm_num
  have low := Nat.floor_le (a := (10 : ℝ) ^ ((gain : ℝ) / 2000) * 2 ^ bits) (by positivity)
  have high := Nat.lt_floor_add_one ((10 : ℝ) ^ ((gain : ℝ) / 2000) * 2 ^ bits)
  have floor : tenRootFloor gain 2000 bits = ⌊(10 : ℝ) ^ ((gain : ℝ) / 2000) * 2 ^ bits⌋₊ := by
    rw [tenRootFloor_eq gain (by decide), Nat.cast_ofNat]
  rw [← floor] at low high
  have cast : ((mkRat (tenRootFloor gain 2000 bits) (2 ^ bits) : ℚ) : ℝ) = tenRootFloor gain 2000 bits / 2 ^ bits := by
    rw [Rat.mkRat_eq_div]
    push_cast
    rfl
  have below := (div_le_iff₀ scale).mpr low
  have above := ((lt_div_iff₀ scale).mpr high).le
  rw [add_div] at above
  rw [cast, abs_of_nonneg (by linarith)]
  linarith

/-- No number of 64-bit floating point lies nearer to the exact value, but for an error of twice 2⁻¹²⁸. -/
theorem linearGain_nearest (gain : Int) {y : ℚ} (float : IsFloat y) :
    |(linearGain gain : ℝ) - (10 : ℝ) ^ ((gain : ℝ) / 2000)| ≤
      |(y : ℝ) - (10 : ℝ) ^ ((gain : ℝ) / 2000)| + 1 / 10 ^ 30 := by
  obtain ⟨q, rounded, near⟩ := linearGain_eq_round gain
  have nearest : |(q : ℝ) - linearGain gain| ≤ |(q : ℝ) - y| := by
    rw [rounded]
    exact_mod_cast ((roundsToNearestEven q).2 y float).1
  have small : (1 / 2 ^ 128 + 1 / 2 ^ 128 : ℝ) ≤ 1 / 10 ^ 30 := by norm_num
  generalize (10 : ℝ) ^ ((gain : ℝ) / 2000) = x at near ⊢
  calc |(linearGain gain : ℝ) - x| ≤ |(linearGain gain : ℝ) - q| + |(q : ℝ) - x| := abs_sub_le _ _ _
    _ ≤ |(q : ℝ) - y| + |(q : ℝ) - x| := by rw [abs_sub_comm _ (q : ℝ)]; gcongr
    _ ≤ |(q : ℝ) - x| + |x - y| + |(q : ℝ) - x| := by gcongr; exact abs_sub_le _ _ _
    _ ≤ |(y : ℝ) - x| + 1 / 10 ^ 30 := by rw [abs_sub_comm (q : ℝ) x, abs_sub_comm x (y : ℝ)]; linarith

/-- Settles O26: the newest entry reached acts, and its linear value is the rounding of a number within 2⁻¹²⁸. -/
theorem scheduleTakeUp : Obligations.ScheduleTakeUp := by
  refine ⟨fun c passed left newest readIndex schedule below reached above => ⟨?_, Correction.takeUp_none above⟩,
    fun gain y => ⟨?_, linearGain_nearest gain⟩⟩
  · exact Correction.takeUp_newest schedule below reached above
  · obtain ⟨q, rounded, -⟩ := linearGain_eq_round gain
    exact rounded ▸ (roundsToNearestEven q).1

end Sys2Proof.Machine
end

section
/-! The ends of the fades and of the quiet wait (R96, R128 to R131; logs 2, 8, 22 and 46). -/

namespace Sys2Proof.Machine

/-! ### The commands of a program's move -/

section
variable (s : State) (p : Fin 16)

theorem exec_meterUpdate : exec (.meterUpdate p.val) s = .next (s.meterUpdate p) :=
  congrArg Host.Outcome.next (atIndex_fin p _ s)

theorem exec_fadeOutEnd : exec (.fadeOutEnd p.val) s = .next (s.fadeOutEnd p) :=
  congrArg Host.Outcome.next (atIndex_fin p _ s)

theorem exec_fadeInEnd : exec (.fadeInEnd p.val) s =
    .next (s.putProgram p (s.programs[p].fadeInEnd s.house.count (s.activeEntry p))) :=
  congrArg Host.Outcome.next (atIndex_fin p _ s)

theorem exec_quietWaitExpiry : exec (.quietWaitExpiry p.val) s =
    .next (s.putProgram p (s.programs[p].quietWaitExpiry s.house.count)) :=
  congrArg Host.Outcome.next (atIndex_fin p _ s)

/-- A program that its command leaves alone. -/
theorem State.putProgram_unchanged {g : Program} (same : g = s.programs[p]) :
    (.next (s.putProgram p g) : Answer State) = .next s := by
  rw [same, State.putProgram_same]

end

/-! ### The end of a fade-out (R96, R129; log 22) -/

section
variable {g : Program}

/-- The dip of a program takes no part in what is taken up. -/
theorem Correction.takeUp_dip (c : Correction) (r : Int) (dip : DipState) (count : Nat) :
    { ({ c with dip := dip } : Correction).takeUp r with dip := .fadeIn, dipCount := count } =
      { c.takeUp r with dip := .fadeIn, dipCount := count } := by
  unfold Correction.takeUp
  dsimp only
  split <;> rfl

theorem Program.fadeOutEnd_due (out : g.corr.dip = .fadeOut) (full : 240 ≤ g.corr.dipCount) : g.fadeOutEnd = { g with
    readIndex := (g.content.toNat : Int) - g.lip.target
    delay := { g.delay with readPlace := g.delay.placeBehind g.lip.target }
    corr := { g.corr.takeUp ((g.content.toNat : Int) - g.lip.target) with dip := .fadeIn, dipCount := 0 }
    lip := { g.lip with actual := g.lip.target, move := .fadingIn, pendingMove := false } } := by
  rw [← Correction.takeUp_dip g.corr _ .down]
  exact if_pos ⟨out, full⟩

end

section
variable {s : State} {p : Fin 16}

theorem State.fadeOutEnd_due (out : s.programs[p].corr.dip = .fadeOut) (full : 240 ≤ s.programs[p].corr.dipCount) :
    s.fadeOutEnd p = (s.meterUpdate p).modifyProgram p (·.fadeOutEnd) := if_pos ⟨out, full⟩

theorem State.fadeOutEnd_undue (undue : s.programs[p].corr.dip ≠ .fadeOut ∨ s.programs[p].corr.dipCount < 240) :
    s.fadeOutEnd p = s :=
  if_neg fun due => undue.elim (· due.1) (Nat.not_lt.mpr due.2)

theorem lawOf_dipCount (e : ProgramEntry) (momentary : Option Int) (g : Program) (c : Correction) :
    (lawOf e momentary g c).dipCount = c.dipCount := by
  have taken (gain : Int) : (scheduled gain g c).dipCount = c.dipCount := by rw [scheduled_eq, Correction.takeUp_eq]
  unfold lawOf
  split
  · simp only [apply_ite Correction.dipCount, taken, ite_self]
  · rfl

/-- A meter update does not disturb a fade-out: it asks for one in dip state REST only (R96, R131). -/
theorem State.meterUpdate_fadeOut (out : s.programs[p].corr.dip = .fadeOut) :
    (s.meterUpdate p).programs[p].corr.dip = .fadeOut ∧
    (s.meterUpdate p).programs[p].corr.dipCount = s.programs[p].corr.dipCount := by
  cases due : s.programs[p].meter.due with
  | none =>
    rw [State.meterUpdate_of_not_due due]
    exact ⟨out, rfl⟩
  | some processedIn =>
    cases processing : s.programs[p].state.processing with
    | false =>
      rw [State.meterUpdate_of_not_processing processing]
      exact ⟨out, rfl⟩
    | true =>
      have fading : s.programs[p].corr.dip ≠ .rest := by rw [out]; nofun
      rw [State.meterUpdate_eq due processing, State.putProgram_self, Program.updated_eq]
      dsimp only
      rw [if_neg fun both => fading both.2]
      exact ⟨(lawOf_dip _ _ _ _).trans out, lawOf_dipCount _ _ _ _⟩

/-- Once the update is made none is due, so the end of the fade-out makes it first or finds it made (log 22). -/
theorem State.fadeOutEnd_meterUpdate (out : s.programs[p].corr.dip = .fadeOut) (full : 240 ≤ s.programs[p].corr.dipCount)
    (processing : s.programs[p].state.processing = true) : (s.meterUpdate p).fadeOutEnd p = s.fadeOutEnd p := by
  obtain ⟨fades, count⟩ := State.meterUpdate_fadeOut out
  obtain ⟨g, reports, flags, updated, state, made⟩ := s.meterUpdate_put p
  have none : (s.meterUpdate p).programs[p].meter.due = none := by
    rw [updated, State.putProgram_self]
    exact made (state ▸ processing)
  rw [State.fadeOutEnd_due fades (count ▸ full), State.meterUpdate_of_not_due none, State.fadeOutEnd_due out full]

end

/-- Settles O27: the jump is made on the program as its update leaves it. -/
theorem fadeOutEndJumps : Obligations.FadeOutEndJumps := by
  intro s p g readIndex
  refine ⟨fun out full none => ?_, fun out full processing => ⟨s.meterUpdate p, exec_meterUpdate s p, ?_⟩, fun undue => ?_⟩
  · rw [exec_fadeOutEnd, State.fadeOutEnd_due out full, State.meterUpdate_of_not_due none, State.modifyProgram_eq,
      Program.fadeOutEnd_due out full]
  · rw [exec_fadeOutEnd, exec_fadeOutEnd, State.fadeOutEnd_meterUpdate out full processing]
  · rw [exec_fadeOutEnd, State.fadeOutEnd_undue undue]

/-! ### The end of a fade-in and of the quiet wait (R96, R128, R130, R131) -/

section
variable {g : Program} {now : BitVec 48} {e : ProgramEntry}

theorem Program.fadeInEnd_due (fades : g.corr.dip = .fadeIn) (full : 240 ≤ g.corr.dipCount) : g.fadeInEnd now e =
    if g.lip.pendingMove then (g.withCorr fun c => { c with dip := .rest, dipCount := 0 }).startMove now e
    else { g with corr := { g.corr with dip := .rest, dipCount := 0 }, lip := { g.lip with move := .none } } :=
  if_pos ⟨fades, full⟩

theorem Program.fadeInEnd_undue (undue : g.corr.dip ≠ .fadeIn ∨ g.corr.dipCount < 240) : g.fadeInEnd now e = g :=
  if_neg fun due => undue.elim (· due.1) (Nat.not_lt.mpr due.2)

theorem Program.requestFadeOut_rest (rest : g.corr.dip = .rest) : g.requestFadeOut = { g with
    corr := { g.corr with dip := .fadeOut, dipCount := 0 }
    lip := { g.lip with move := .fadingOut, pendingMove := false } } := by
  rw [Program.requestFadeOut, if_pos rest]

theorem Program.quietWaitExpiry_due (running : g.state = .running) (waits : g.lip.move = .waiting)
    (ended : g.lip.waitLength ≤ (now - g.lip.waitStart).toNat) : g.quietWaitExpiry now = g.requestFadeOut :=
  if_pos ⟨running, waits, ended⟩

theorem Program.quietWaitExpiry_undue (undue : g.state ≠ .running ∨ g.lip.move ≠ .waiting ∨
    (now - g.lip.waitStart).toNat < g.lip.waitLength) : g.quietWaitExpiry now = g :=
  if_neg fun ⟨running, waits, ended⟩ => undue.elim (· running) fun rest => rest.elim (· waits) (Nat.not_lt.mpr ended)

end

/-- Settles O28: the fade-in comes to rest and a pending move starts as R130 says; a wait that is over asks for a
fade-out. -/
theorem fadeInAndQuietWaitEnd : Obligations.FadeInAndQuietWaitEnd := by
  intro s p g e
  simp only [exec_fadeInEnd, exec_quietWaitExpiry]
  refine ⟨fun fades full none => ?_, fun fades full pending dip => ?_, fun fades full pending quiet => ?_, fun undue => ?_,
    fun running waits ended rest => ?_, fun undue => ?_⟩
  · rw [Program.fadeInEnd_due fades full, if_neg (by rw [none]; nofun)]
  · rw [Program.fadeInEnd_due fades full, if_pos pending, Program.startMove_dip _ _ dip (by exact rfl)]
    rfl
  · rw [Program.fadeInEnd_due fades full, if_pos pending, Program.startMove_quiet _ _ quiet]
    rfl
  · exact s.putProgram_unchanged p (Program.fadeInEnd_undue undue)
  · rw [Program.quietWaitExpiry_due running waits ended, Program.requestFadeOut_rest rest]
  · exact s.putProgram_unchanged p (Program.quietWaitExpiry_undue undue)

end Sys2Proof.Machine
end

section
/-! What Delay Memory holds for one program under its entry, and the acts that leave it standing (R101, R102, R109, R124). -/

namespace Sys2Proof.Machine

/-! ### The places of a ring (R109) -/

/-- The read place lies `delay` behind the write place, modulo the ring length (R109). -/
structure DelayLine.Behind (d : DelayLine) (delay : Nat) : Prop where
  write : d.writePlace < d.ringLength
  read : (d.readPlace : Int) = ((d.writePlace : Int) - delay) % (d.ringLength : Int)

theorem DelayLine.placeBehind_behind {d : DelayLine} (write : d.writePlace < d.ringLength) (delay : Nat) :
    DelayLine.Behind { d with readPlace := d.placeBehind delay } delay :=
  ⟨write, Int.toNat_of_nonneg (Int.emod_nonneg _ (by omega))⟩

/-- Both places rise by 1 at a house sample, and the distance between them stays. -/
theorem DelayLine.Behind.advance {d : DelayLine} {delay : Nat} (h : d.Behind delay) : DelayLine.Behind { d with
    writePlace := (d.writePlace + 1) % d.ringLength, readPlace := (d.readPlace + 1) % d.ringLength } delay := by
  refine ⟨Nat.mod_lt _ (by have := h.write; omega), ?_⟩
  show (((d.readPlace + 1) % d.ringLength : Nat) : Int) =
    (((d.writePlace + 1) % d.ringLength : Nat) - (delay : Int)) % (d.ringLength : Int)
  push_cast
  rw [h.read, Int.emod_add_emod, Int.emod_sub_emod]
  congr 1
  omega

/-! ### What Delay Memory holds for one program (R102, R109, R124) -/

/-- A program under an entry of `members` members: its rings, its two delays within the limit, and its places. -/
structure Program.DelayHeld (members : Nat) (g : Program) : Prop where
  rings : g.state ≠ .free → g.delay.rings = [] ∨ g.delay.rings.length = members
  target : g.lip.target ≤ g.delay.limit
  actual : g.lip.actual ≤ g.delay.limit
  places : g.state.processing = true → g.delay.Behind g.lip.actual

theorem State.delaysHeld_iff (s : State) :
    s.DelaysHeld ↔ ∀ p : Fin 16, s.programs[p].DelayHeld (s.activeEntry p).members.length :=
  ⟨fun h p => ⟨h.rings p, h.target p, h.actual p, fun on => ⟨(h.places p on).1, (h.places p on).2⟩⟩,
    fun h => ⟨fun p => (h p).rings, fun p => (h p).target, fun p => (h p).actual,
      fun p on => ⟨((h p).places on).write, ((h p).places on).read⟩⟩⟩

/-- `g'` has the rings of `g`, and stands where `g` does. -/
structure Program.DelayFrom (g g' : Program) : Prop where
  rings : g'.delay.rings = g.delay.rings
  held : ∀ members, g.DelayHeld members → g'.DelayHeld members

theorem Program.DelayFrom.refl (g : Program) : g.DelayFrom g := ⟨rfl, fun _ h => h⟩

theorem Program.DelayFrom.trans {a b c : Program} (h : a.DelayFrom b) (k : b.DelayFrom c) : a.DelayFrom c :=
  ⟨k.rings.trans h.rings, fun n held => k.held n (h.held n held)⟩

/-- A change of anything but the program state, the rings, the places and the two delays. -/
theorem Program.DelayFrom.of_same {g g' : Program} (state : g'.state = g.state) (delay : g'.delay = g.delay)
    (target : g'.lip.target = g.lip.target) (actual : g'.lip.actual = g.lip.actual) : g.DelayFrom g' := by
  refine ⟨by rw [delay], fun n h => ⟨?_, ?_, ?_, ?_⟩⟩
  · rw [state, delay]; exact h.rings
  · rw [target, delay]; exact h.target
  · rw [actual, delay]; exact h.actual
  · rw [state, delay, actual]; exact h.places

/-! ### The moves of the actual delay (R126 to R132) -/

/-- A jump within the limit puts the read place behind the write place by the new delay (R109, R129). -/
theorem Program.DelayHeld.jumpTo {n d : Nat} {g : Program} (h : g.DelayHeld n) (within : d ≤ g.delay.limit) :
    (g.jumpTo d).DelayHeld n :=
  ⟨h.rings, h.target, within, fun processing => DelayLine.placeBehind_behind (h.places processing).write d⟩

theorem Program.jumpToTarget_delayFrom (g : Program) : g.DelayFrom (g.jumpTo g.lip.target) :=
  ⟨rfl, fun _ h => h.jumpTo h.target⟩

theorem Program.requestFadeOut_delayFrom (g : Program) : g.DelayFrom g.requestFadeOut := .of_same rfl rfl rfl rfl

theorem Program.startMove_delayFrom (now : BitVec 48) (e : ProgramEntry) (g : Program) :
    g.DelayFrom (g.startMove now e) := by
  unfold Program.startMove
  split
  · exact g.requestFadeOut_delayFrom
  · exact .of_same rfl rfl rfl rfl

/-- A computation in RUNNING moves nothing at once (R127). -/
theorem Program.judge_delayFrom (now : BitVec 48) (e : ProgramEntry) (moved : Bool) (g : Program) :
    g.DelayFrom (g.judge now e moved) := by
  cases move : g.lip.move with
  | none =>
    rw [Program.judge_none _ _ _ move]
    split
    · exact g.startMove_delayFrom now e
    · exact .refl g
  | waiting =>
    rw [Program.judge_waiting _ _ _ move]
    split
    · exact .refl g
    · exact .of_same rfl rfl rfl rfl
  | fadingOut =>
    rw [Program.judge_fadingOut _ _ _ move]
    exact .refl g
  | fadingIn =>
    rw [Program.judge_fadingIn _ _ _ move]
    split
    · split
      · exact .of_same rfl rfl rfl rfl
      · exact .refl g
    · exact .of_same rfl rfl rfl rfl

theorem Program.fadeOutEnd_delayFrom (g : Program) : g.DelayFrom g.fadeOutEnd := by
  unfold Program.fadeOutEnd
  split
  · have down : g.DelayFrom (g.withCorr fun c => { c with dip := .down }) := .of_same rfl rfl rfl rfl
    exact (down.trans (Program.jumpToTarget_delayFrom _)).trans (.of_same rfl rfl rfl rfl)
  · exact .refl g

theorem Program.fadeInEnd_delayFrom (now : BitVec 48) (e : ProgramEntry) (g : Program) :
    g.DelayFrom (g.fadeInEnd now e) := by
  have rested : g.DelayFrom (g.withCorr fun c => { c with dip := .rest, dipCount := 0 }) := .of_same rfl rfl rfl rfl
  unfold Program.fadeInEnd
  split
  · dsimp only
    split
    · exact rested.trans (Program.startMove_delayFrom now e _)
    · exact .of_same rfl rfl rfl rfl
  · exact .refl g

theorem Program.quietWaitExpiry_delayFrom (now : BitVec 48) (g : Program) : g.DelayFrom (g.quietWaitExpiry now) := by
  unfold Program.quietWaitExpiry
  split
  · exact g.requestFadeOut_delayFrom
  · exact .refl g

theorem Program.quietMove_delayFrom (g : Program) : g.DelayFrom g.quietMove := by
  unfold Program.quietMove
  split
  · exact g.requestFadeOut_delayFrom
  · exact .refl g

/-! ### The target computed again (R124 to R126) -/

theorem State.alignment_target_le (s : State) (p : Fin 16) (l : LipSync) :
    (s.alignment p l).target ≤ s.programs[p].delay.limit := by
  by_cases free : s.programs[p].state = .free
  · rw [State.alignment, if_pos free]
    exact Nat.zero_le _
  · have bound := State.alignment_target free l
    have limit : s.programs[p].delay.limit = min (s.programs[p].delay.blocks * 1024 - 1) 96000 := rfl
    omega

/-- A new D_target within the limit reaches D_actual at once in every state but RUNNING (R126), so nothing is asked of the
D_actual of a program that does not process house samples. -/
theorem Program.follow_held {n : Nat} {g : Program} (now : BitVec 48) (e : ProgramEntry) (moved : Bool)
    (rings : g.state ≠ .free → g.delay.rings = [] ∨ g.delay.rings.length = n) (target : g.lip.target ≤ g.delay.limit)
    (placed : g.state.processing = true → g.lip.actual ≤ g.delay.limit ∧ g.delay.Behind g.lip.actual) :
    (g.follow now e moved).DelayHeld n := by
  have still (a : Nat) (within : a ≤ g.delay.limit) (idle : g.state.processing = false) :
      (g.withLip fun l => { l with actual := a }).DelayHeld n :=
    ⟨rings, target, within, fun on => absurd (idle.symm.trans on) nofun⟩
  have held (on : g.state.processing = true) : g.DelayHeld n := ⟨rings, target, (placed on).1, fun _ => (placed on).2⟩
  cases state : g.state with
  | free =>
    rw [Program.follow_free _ _ _ state]
    exact still 0 (Nat.zero_le _) (by rw [state]; rfl)
  | stopped =>
    rw [Program.follow_stopped _ _ _ state]
    exact still _ target (by rw [state]; rfl)
  | running =>
    rw [Program.follow_running _ _ _ state]
    exact (g.judge_delayFrom now e moved).held n (held (by rw [state]; rfl))
  | filling | stopping =>
    rw [Program.follow_filling_or_stopping _ _ _ (by simp [state])]
    have here := held (by rw [state]; rfl)
    split
    · exact here.jumpTo target
    · exact here

/-- Computing a program again brings its delays within the limit of the rings that it now has. -/
theorem State.recompute_held {n : Nat} {s : State} {p : Fin 16}
    (rings : s.programs[p].state ≠ .free → s.programs[p].delay.rings = [] ∨ s.programs[p].delay.rings.length = n)
    (placed : s.programs[p].state.processing = true →
      s.programs[p].lip.actual ≤ s.programs[p].delay.limit ∧ s.programs[p].delay.Behind s.programs[p].lip.actual) :
    (s.recompute p).programs[p].DelayHeld n := by
  have actual : (s.alignment p s.programs[p].lip).actual = s.programs[p].lip.actual := by rw [State.alignment_eq]
  rw [State.recompute_program]
  refine Program.follow_held (g := s.programs[p].aligned _) _ _ _ rings (s.alignment_target_le p _) ?_
  show _ → (s.alignment p s.programs[p].lip).actual ≤ _ ∧ s.programs[p].delay.Behind (s.alignment p s.programs[p].lip).actual
  rw [actual]
  exact placed

theorem State.recompute_delayFrom (s : State) (p : Fin 16) : s.programs[p].DelayFrom (s.recompute p).programs[p] := by
  obtain ⟨-, -, -, -, -, -, -, rings, -⟩ := s.recompute_keeps p
  exact ⟨rings, fun n h => State.recompute_held h.rings fun on => ⟨h.actual, h.places on⟩⟩

/-! ### The states of a program (R48 to R51, R109) -/

/-- A program that ends STOPPING has its D_actual take its D_target (R132). -/
theorem Program.endStopping_delayFrom {g : Program} (taken : g.state ≠ .free) : g.DelayFrom g.endStopping :=
  ⟨rfl, fun _ h => ⟨fun _ => h.rings taken, h.target, h.target, nofun⟩⟩

theorem Program.fillingToRunning_delayFrom (g : Program) : g.DelayFrom g.fillingToRunning := by
  unfold Program.fillingToRunning
  split
  · next filling =>
    refine ⟨rfl, fun _ h => ⟨fun _ => h.rings (by rw [filling.1]; nofun), h.target, h.actual, fun _ => h.places ?_⟩⟩
    rw [filling.1]
    rfl
  · exact .refl g

theorem Program.advanceIndices_delayFrom (g : Program) : g.DelayFrom g.advanceIndices :=
  ⟨rfl, fun _ h => ⟨h.rings, h.target, h.actual, fun processing => (h.places processing).advance⟩⟩

theorem Program.markSubBlock_delayFrom (g : Program) : g.DelayFrom g.markSubBlock := by
  unfold Program.markSubBlock
  split
  · exact .of_same rfl rfl rfl rfl
  · exact .refl g

/-- An accepted START finds rings, puts the write place at 0 and the read place behind it by D_target (R48, R109). -/
theorem Program.started_delayFrom (e : ProgramEntry) {g : Program} (stopped : g.state = .stopped)
    (blocks : g.delay.blocks ≠ 0) : g.DelayFrom (g.started e) := by
  have write : DelayLine.writePlace { g.delay with writePlace := 0 } < g.delay.ringLength := by
    show 0 < g.delay.blocks * 1024
    omega
  exact ⟨rfl, fun _ h => ⟨fun _ => h.rings (by rw [stopped]; nofun), h.target, h.target,
    fun _ => DelayLine.placeBehind_behind (d := { g.delay with writePlace := 0 }) write _⟩⟩

/-- An accepted STOP ends a move by a jump to D_target (R51, R132). -/
theorem Program.stopped_delayFrom {g : Program} (processing : g.state = .filling ∨ g.state = .running) :
    g.DelayFrom ((g.enter .stopping).withCorr fun c => { c with stop := 0 }).endMoveAtStop := by
  have stopping : g.DelayFrom (g.enter .stopping) := by
    have taken : g.state ≠ .free ∧ g.state.processing = true := by
      rcases processing with state | state <;> rw [state] <;> exact ⟨nofun, rfl⟩
    exact ⟨rfl, fun _ h => ⟨fun _ => h.rings taken.1, h.target, h.actual, fun _ => h.places taken.2⟩⟩
  exact stopping.trans (.trans (b := ((g.enter .stopping).withCorr fun c => { c with stop := 0 }).withLip fun l =>
    { l with move := if l.move = .waiting then .none else l.move, pendingMove := false })
    (.of_same rfl rfl rfl rfl) (Program.jumpToTarget_delayFrom _))

theorem State.syncFallback_blocks (p : Fin 16) (s : State) :
    (s.syncFallback p).programs[p].delay.blocks = s.programs[p].delay.blocks := by
  unfold State.syncFallback
  dsimp only
  split
  · rfl
  · obtain ⟨-, -, -, -, -, -, blocks, -⟩ := State.recompute_keeps p (s.modifyProgram p fun g =>
      { g with
        fallbackInUse := s.wantsFallback p
        changed := true
        meter := g.meter.zeroChanged (effectiveSlots (s.activeEntry p) g.fallbackInUse)
          (effectiveSlots (s.activeEntry p) (s.wantsFallback p)) })
    rwa [State.modifyProgram_self] at blocks

end Sys2Proof.Machine
end

section
/-! The acts that leave Delay Memory standing, and the passage from the others to every step (R101, R102, R109, R124). -/

namespace Sys2Proof.Machine

/-! ### Acts that leave every program's delay standing -/

/-- `t` has the active entries and the free list of `s`, every program of `t` has its rings and stands as in `s`, and the
store keeps its canonical form. -/
structure State.DelayFrom (s t : State) : Prop where
  entries : ∀ p : Fin 16, t.activeEntry p = s.activeEntry p
  freeList : t.freeList = s.freeList
  programs : ∀ p : Fin 16, s.programs[p].DelayFrom t.programs[p]
  memory : s.memory.wf = true → t.memory.wf = true

namespace State.DelayFrom

theorem refl (s : State) : s.DelayFrom s := ⟨fun _ => rfl, rfl, fun _ => .refl _, id⟩

theorem trans {s t u : State} (h : s.DelayFrom t) (k : t.DelayFrom u) : s.DelayFrom u :=
  ⟨fun p => (k.entries p).trans (h.entries p), k.freeList.trans h.freeList, fun p => (h.programs p).trans (k.programs p),
    k.memory ∘ h.memory⟩

/-- An act that touches neither the programs, nor the banks, nor Delay Memory. -/
theorem elsewhere {s t : State} (same : (t.bankA, t.bankB, t.activeBank, t.programs, t.freeList, t.memory) =
    (s.bankA, s.bankB, s.activeBank, s.programs, s.freeList, s.memory)) : s.DelayFrom t := by
  simp only [Prod.mk.injEq] at same
  obtain ⟨bankA, bankB, active, programs, freeList, memory⟩ := same
  exact ⟨State.activeEntry_congr bankA bankB active, freeList, fun p => by rw [programs]; exact .refl _,
    by rw [memory]; exact id⟩

theorem putProgram (s : State) (p : Fin 16) {g : Program} (h : s.programs[p].DelayFrom g) : s.DelayFrom (s.putProgram p g) := by
  refine ⟨fun _ => rfl, rfl, fun q => ?_, id⟩
  rw [State.putProgram_get]
  split
  · next same => rw [same]; exact h
  · exact .refl _

theorem modifyProgram (s : State) (p : Fin 16) {f : Program → Program} (h : ∀ g : Program, g.DelayFrom (f g)) :
    s.DelayFrom (s.modifyProgram p f) :=
  putProgram s p (h _)

theorem forEach (n : Nat) (f : Fin n → State → State) (s : State) (h : ∀ (i : Fin n) (t : State), t.DelayFrom (f i t)) :
    s.DelayFrom (forEach n f s) :=
  forEach_induct (P := s.DelayFrom) n f s (.refl s) fun i t k => k.trans (h i t)

/-! ### Fallback, votes and the Latency Table -/

theorem recompute (p : Fin 16) (s : State) : s.DelayFrom (s.recompute p) := by
  rw [State.recompute_put, ← State.recompute_program]
  exact putProgram s p (s.recompute_delayFrom p)

theorem recomputeNaming (i : Fin 64) (s : State) : s.DelayFrom (s.recomputeNaming i) := by
  refine forEach 16 _ s fun p t => ?_
  split
  · exact recompute p t
  · exact .refl t

theorem syncFallback (p : Fin 16) (s : State) : s.DelayFrom (s.syncFallback p) := by
  unfold State.syncFallback
  dsimp only
  split
  · exact .refl s
  · refine .trans ?_ (recompute p _)
    exact modifyProgram s p fun _ => .of_same rfl rfl rfl rfl

theorem applyVotes (s : State) : s.DelayFrom s.applyVotes :=
  forEach 16 _ s fun p t => .trans
    (modifyProgram t p (f := fun g => { g with votes := s.votesOf p }) fun _ => .of_same rfl rfl rfl rfl) (syncFallback p _)

theorem latencyReport (reporter : BitVec 32) (micros : Nat) (s : State) : s.DelayFrom (s.latencyReport reporter micros) := by
  have entry (i : Fin 64) (f : LatencyEntry → LatencyEntry) : s.DelayFrom (s.modifyLatency i f) := elsewhere rfl
  have flag : s.DelayFrom s.flagUnknownReporter := elsewhere rfl
  unfold State.latencyReport
  split
  · dsimp only
    split
    · exact entry _ _
    · exact (entry _ _).trans (recomputeNaming _ _)
  · split
    · split
      · exact (entry _ _).trans (recomputeNaming _ _)
      · exact flag
    · exact flag

/-! ### Ingress, notices and Egress -/

theorem offerPass (frame : List Byte) (s : State) : s.DelayFrom (s.offerPass frame) := by
  rw [State.offerPass_rest]
  exact elsewhere rfl

theorem passIf (switch : Bool) (frame : List Byte) (s : State) : s.DelayFrom (s.passIf switch frame) := by
  unfold State.passIf
  split
  · exact offerPass frame s
  · exact .refl s

theorem receive (frame : List Byte) (s : State) : s.DelayFrom (s.receive frame) := by
  unfold State.receive
  split
  · refine .trans ?_ (passIf _ _ _)
    rw [State.offerOrder_rest]
    exact elsewhere rfl
  · exact elsewhere rfl
  · exact offerPass frame s
  · exact (latencyReport _ _ s).trans (passIf _ _ _)
  · exact elsewhere rfl
  · exact passIf _ _ s
  · exact passIf _ _ s

theorem offerNotice (n : Notice) (s : State) : s.DelayFrom (s.offerNotice n) := by
  rw [State.offerNotice_rest]
  exact elsewhere rfl

theorem offerReport (r : LatencyReport) (s : State) : s.DelayFrom (s.offerReport r) := by
  rw [State.offerReport_rest]
  exact elsewhere rfl

theorem zeroEventCounts (s : State) : s.DelayFrom s.zeroEventCounts :=
  ⟨fun _ => rfl, rfl, fun p => by simpa [State.zeroEventCounts] using .of_same rfl rfl rfl rfl, id⟩

theorem evaluate (s : State) : s.DelayFrom s.evaluate := by
  unfold State.evaluate
  split
  · have stepped : s.DelayFrom { s with triggers := s.stepTriggers.triggers, evaluationDue := false } := elsewhere rfl
    unfold State.offerStepNotices
    refine List.foldlRecOn _ _ ((stepped.trans (zeroEventCounts _)).trans (applyVotes _)) fun t ht i _ => ?_
    split
    · exact ht.trans (offerNotice _ t)
    · exact ht
  · exact .refl s

theorem egressChoice (s : State) : s.DelayFrom s.egressChoice := by
  unfold State.egressChoice
  split
  · split
    · next t chosen =>
      unfold State.chooseMedia at chosen
      split at chosen <;> cases chosen
      next p _ =>
        exact .trans (modifyProgram s p (f := fun g => g.withEgress fun x => { x with queue := x.queue.drop 1 })
          fun _ => .of_same rfl rfl rfl rfl) (elsewhere rfl)
    · cases chosen : s.chooseOther with
      | none => exact .refl s
      | some t =>
        obtain ⟨c, -, found⟩ := List.exists_of_findSome?_eq_some chosen
        obtain ⟨⟨f, u⟩, head, rfl⟩ := Option.map_eq_some_iff.mp found
        unfold State.takeHead at head
        split at head <;> split at head <;> cases head <;> exact elsewhere rfl
  · exact .refl s

theorem frameEnd (s : State) : s.DelayFrom s.frameEnd := by
  unfold State.frameEnd
  split
  · split
    · exact elsewhere rfl
    · exact .refl s
  · exact .refl s

theorem completeDeferred (mine : Order → Bool) (s : State) : s.DelayFrom (s.completeDeferred mine) := by
  rcases s.completeDeferred_spec mine with same | ⟨_, _, _, _, _, answered⟩
  · rw [same]
    exact .refl s
  · rw [answered]
    exact elsewhere rfl

/-! ### The acts of a program -/

theorem meterUpdate (p : Fin 16) (s : State) : s.DelayFrom (s.meterUpdate p) := by
  have reported (t : State) : t.DelayFrom (t.reportLatency p) := by
    unfold State.reportLatency
    dsimp only
    split
    · exact .refl t
    · refine .trans ?_ (offerReport _ _)
      exact modifyProgram t p fun _ => .of_same rfl rfl rfl rfl
  unfold State.meterUpdate
  split
  · exact .refl s
  · split
    · refine .trans (.trans (modifyProgram s p fun g => ?_) (reported _)) (modifyProgram _ p Program.quietMove_delayFrom)
      rw [Program.update_rest]
      exact .of_same rfl rfl rfl rfl
    · exact .refl s

theorem packetComplete (p : Fin 16) (s : State) : s.DelayFrom (s.packetComplete p) := by
  have built (frame : List Byte) (g : Program) : g.DelayFrom
      ((g.queueMedia frame).withEgress fun x => { x with progress := [], sequence := x.sequence + 1 }) := by
    unfold Program.queueMedia
    split <;> exact .of_same rfl rfl rfl rfl
  unfold State.packetComplete
  split
  · dsimp only
    split
    · next stopping =>
      refine .trans (.trans (modifyProgram s p (built _)) (putProgram _ p ?_)) (completeDeferred _ _)
      refine Program.endStopping_delayFrom ?_
      rw [State.modifyProgram_self]
      have same (frame : List Byte) (g : Program) : (g.queueMedia frame).state = g.state := by
        unfold Program.queueMedia
        split <;> rfl
      show (s.programs[p].queueMedia _).state ≠ .free
      rw [same, stopping.1]
      nofun
    · exact modifyProgram s p (built _)
  · exact .refl s

theorem programSample (p : Fin 16) (s : State) : s.DelayFrom (s.programSample p) := by
  have fed (g : Program) (xs : List Sample) : g.DelayFrom (if g.state.fed then g.withMeter (·.feed xs) else g) := by
    split
    · exact .of_same rfl rfl rfl rfl
    · exact .refl g
  have advanced (g : Program) (e : ProgramEntry) (ys : List Sample) :
      g.DelayFrom (g.outputStage e s.house.count ys).advanceIndices.takeUpGain.markSubBlock :=
    .trans (b := (g.outputStage e s.house.count ys).advanceIndices)
      (.trans (b := g.outputStage e s.house.count ys) (.of_same rfl rfl rfl rfl) (Program.advanceIndices_delayFrom _))
      (.trans (b := (g.outputStage e s.house.count ys).advanceIndices.takeUpGain) (.of_same rfl rfl rfl rfl)
        (Program.markSubBlock_delayFrom _))
  unfold State.programSample
  split
  · have sampled (xs ys : List Sample) := putProgram s p
      ((s.programs[p].fillingToRunning_delayFrom.trans (fed _ xs)).trans (advanced _ (s.activeEntry p) ys))
    exact ⟨fun _ => rfl, rfl, (sampled _ _).programs, writeRings_wf _ _ _ _⟩
  · exact .refl s

theorem startProgram (p : Fin 16) (s : State) : s.DelayFrom (s.startProgram p).2 := by
  unfold State.startProgram
  dsimp only
  split
  · next stopped =>
    split
    · exact .refl s
    · next blocks =>
      obtain ⟨state, -⟩ := State.syncFallback_stands p s
      refine .trans (syncFallback p s) (putProgram _ p (Program.started_delayFrom _ (state.trans stopped) ?_))
      have same := s.syncFallback_blocks p
      rwa [same]
  all_goals exact .refl s

theorem stopProgram (p : Fin 16) (s : State) : s.DelayFrom (s.stopProgram p).2 := by
  unfold State.stopProgram
  split
  · next state => exact putProgram s p (Program.stopped_delayFrom (.inl state))
  · next state => exact putProgram s p (Program.stopped_delayFrom (.inr state))
  all_goals exact .refl s

theorem afterReading (table : Table) (i : Nat) (s : State) : s.DelayFrom (s.afterReading table i) := by
  refine .trans (t := s.readEffect table i) ?_ (elsewhere rfl)
  unfold State.readEffect
  cases table with
  | programStatus => exact modifyProgram s _ fun _ => .of_same rfl rfl rfl rfl
  | _ => exact elsewhere rfl

/-! ### Writes that bring no program entry into force (R9, R120, R138, R157, R176) -/

theorem storeStream (i : Fin 32) (e : StreamEntry) (s : State) : s.DelayFrom (s.storeStream i e) :=
  .trans (t := s.modifyStream i fun t => ⟨e, t.ctx.restart e.valid⟩) (elsewhere rfl) (forEach 16 State.recompute _ recompute)

theorem writeLatency (i : Fin 64) (w : LatencyWrite) (s : State) : s.DelayFrom (s.writeLatency i w) := by
  have stored : s.DelayFrom (s.modifyLatency i (·.written w)) := elsewhere rfl
  unfold State.writeLatency
  dsimp only
  split
  · exact stored
  · exact stored.trans (recomputeNaming i _)

theorem writeTrigger (i : Fin 48) (e : TriggerEntry) (s : State) : s.DelayFrom (s.writeTrigger i e) := by
  have noted (notes : Bool) (n : Notice) : s.DelayFrom (if notes then s.offerNotice n else s) := by
    split
    · exact offerNotice n s
    · exact .refl s
  have stored (u : State) (triggers : Vector Trigger 48) : u.DelayFrom { u with triggers := triggers } := elsewhere rfl
  exact ((noted _ _).trans (stored _ _)).trans (applyVotes _)

end State.DelayFrom

/-! ### From these acts to every step -/

/-- `P` is a law of Delay Memory: what leaves Delay Memory standing keeps it, and so does each act that moves blocks, brings
a program entry into force or resets the part. -/
structure DelayLaw (P : State → Prop) : Prop where
  standing : ∀ s t : State, s.DelayFrom t → P s → P t
  swapBanks : ∀ s, P s → P s.swapBanks
  writeProgram : ∀ which p e s, P s → P (s.writeProgram which p e).2
  allocateDelay : ∀ p request s, P s → P (s.allocateDelay p request).2.2
  releaseDelay : ∀ p s, P s → P (s.releaseDelay p).2
  reset : ∀ settings straps s, P s → P (s.resetKeeping settings straps)

namespace DelayLaw
variable {P : State → Prop} (law : DelayLaw P)
include law

theorem writeEntry (which : Bank) (i : Nat) (n : NewEntry) (s : State) (h : P s) : P (s.writeEntry which i n).2 := by
  cases n with
  | settings c => exact law.standing s _ (.elsewhere rfl) h
  | stream e =>
    simp only [State.writeEntry, State.writeStream]
    split
    · exact h
    · exact law.standing s _ (.storeStream _ e s) h
  | program e => exact law.writeProgram which _ e s h
  | egress e =>
    simp only [State.writeEntry, State.writeEgress]
    split
    · exact h
    · have stored : s.DelayFrom { s with egressTable := s.egressTable.set (Fin.ofNat 16 i) e } := .elsewhere rfl
      exact law.standing s _ (stored.trans (.recompute _ _)) h
  | latency w =>
    simp only [State.writeEntry, State.tryLatency]
    split
    · exact h
    · exact law.standing s _ (.writeLatency _ w s) h
  | trigger e =>
    simp only [State.writeEntry, State.tryTrigger]
    split
    · exact h
    · dsimp only
      exact law.standing s _ (.writeTrigger _ e s) h

/-- Every act keeps a law of Delay Memory. -/
theorem kept : Kept P where
  pending s _ := law.standing s _ (.elsewhere rfl)
  house s _ := law.standing s _ (.elsewhere rfl)
  evaluationDue s _ := law.standing s _ (.elsewhere rfl)
  ready s _ := law.standing s _ (.elsewhere rfl)
  receive frame s := law.standing s _ (.receive frame s)
  loopUpdate _ s := law.standing s _ (.elsewhere rfl)
  gapTimeout _ s := law.standing s _ (.elsewhere rfl)
  holdoverLimit _ s := law.standing s _ (.elsewhere rfl)
  expire _ _ s := law.standing s _ (.elsewhere rfl)
  meterUpdate p s := law.standing s _ (.meterUpdate p s)
  packetComplete p s := law.standing s _ (.packetComplete p s)
  fadeOutEnd p s := law.standing s _ (.modifyProgram s p Program.fadeOutEnd_delayFrom)
  fadeInEnd now e p s := law.standing s _ (.modifyProgram s p (Program.fadeInEnd_delayFrom now e))
  quietWaitExpiry now p s := law.standing s _ (.modifyProgram s p (Program.quietWaitExpiry_delayFrom now))
  evaluate s := law.standing s _ (.evaluate s)
  egressChoice s := law.standing s _ (.egressChoice s)
  frameEnd s := law.standing s _ (.frameEnd s)
  swapBanks := law.swapBanks
  convertAll s := law.standing s _ (.elsewhere rfl)
  ageEntries s := law.standing s _ (.elsewhere rfl)
  syncFallback p s := law.standing s _ (.syncFallback p s)
  programSample p s := law.standing s _ (.programSample p s)
  withoutTaken s := law.standing s _ (.elsewhere rfl)
  answer s _ _ _ _ _ h _ := law.standing s _ (.elsewhere rfl) h
  deferOrder s h _ := law.standing s _ (.elsewhere rfl) h
  record s _ _ _ := law.standing s _ (.elsewhere rfl)
  afterReading table i s := law.standing s _ (.afterReading table i s)
  writeEntry which i n s _ := law.writeEntry which i n s
  startProgram p s := law.standing s _ (.startProgram p s)
  stopProgram p s := law.standing s _ (.stopProgram p s)
  allocateDelay := law.allocateDelay
  releaseDelay := law.releaseDelay
  resetStream i s := law.standing s _ (.storeStream i _ s)
  resetIntegration p s := law.standing s _ (.modifyProgram s p fun _ => .of_same rfl rfl rfl rfl)
  acknowledge which s := by cases which <;> exact law.standing s _ (.elsewhere rfl)
  sendLatency p s := law.standing s _ (.modifyProgram s p fun _ => .of_same rfl rfl rfl rfl)
  reset := law.reset

end DelayLaw

end Sys2Proof.Machine
end

section
/-! The store of the delay pool keeps its canonical form (R101; log 11). -/

namespace Sys2Proof.Machine

/-- Only a program's house sample writes the store; what moves blocks or resets the part leaves it as it is (log 11). -/
theorem State.memory_law : DelayLaw fun s => s.memory.wf = true where
  standing _ _ from_ := from_.memory
  swapBanks s h := s.swapBanks_induct (P := fun s => s.memory.wf = true) h (fun p t => (State.DelayFrom.meterUpdate p t).memory)
    (fun p t => (State.DelayFrom.packetComplete p t).memory) (fun _ ht => ht)
    (fun old p t ht => by rw [State.bringIn_rest]; exact ht) (fun mine t => (State.DelayFrom.completeDeferred mine t).memory)
  writeProgram which p e s h := by
    have stored : (s.setBankEntry which p e).memory = s.memory := by cases which <;> rfl
    unfold State.writeProgram
    split
    · split
      · exact h
      · rw [State.bringIn_rest]
        exact (congrArg Memory.wf stored).trans h
    · exact (congrArg Memory.wf stored).trans h
  allocateDelay p request s h := by rw [State.allocateDelay_rest]; exact h
  releaseDelay p s h := by rw [State.releaseDelay_rest]; exact h
  reset _ _ _ h := h

/-- Settles O54: every act keeps the canonical form, a house sample because each write of a sample does. -/
theorem stepKeepsMemoryCanonical : Obligations.StepKeepsMemoryCanonical :=
  State.memory_law.kept.step

end Sys2Proof.Machine
end

section
/-! Each delay block stands at exactly one place: on the free list, or in one ring of one program (R101, R105, R106). -/

namespace Sys2Proof.Machine

/-! ### The blocks by programs -/

theorem State.blocksHeld_eq (s : State) :
    s.blocksHeld = s.freeList ++ (List.finRange 16).flatMap fun p => s.programs[p].delay.rings.flatten := by
  have programs : s.programs.toList = (List.finRange 16).map fun p => s.programs[p] := by
    apply List.ext_getElem <;> simp
  rw [State.blocksHeld, programs, List.flatMap_map]

/-- An act on one program that leaves, on the free list and in its rings together, the blocks that stood there. -/
theorem State.PoolPartitioned.exchange {s t : State} (h : s.PoolPartitioned) (p : Fin 16)
    (others : ∀ q : Fin 16, q ≠ p → t.programs[q].delay.rings = s.programs[q].delay.rings)
    (own : (t.freeList ++ t.programs[p].delay.rings.flatten).Perm (s.freeList ++ s.programs[p].delay.rings.flatten)) :
    t.PoolPartitioned := by
  have apart (u : State) : u.blocksHeld.Perm ((u.freeList ++ u.programs[p].delay.rings.flatten) ++
      ((List.finRange 16).erase p).flatMap fun q => u.programs[q].delay.rings.flatten) := by
    rw [State.blocksHeld_eq, List.append_assoc]
    exact (List.Perm.flatMap_right _ (List.perm_cons_erase (List.mem_finRange p))).append_left _
  have beside : (((List.finRange 16).erase p).flatMap fun q => t.programs[q].delay.rings.flatten) =
      ((List.finRange 16).erase p).flatMap fun q => s.programs[q].delay.rings.flatten := by
    refine List.flatMap_congr fun q member => ?_
    rw [others q ((List.nodup_finRange 16).mem_erase_iff.mp member).1]
  have same : t.blocksHeld.Perm s.blocksHeld := by
    refine (apart t).trans (.trans ?_ (apart s).symm)
    rw [beside]
    exact own.append_right _
  exact same.trans h

theorem State.PoolPartitioned.standing (s t : State) (from_ : s.DelayFrom t) (h : s.PoolPartitioned) : t.PoolPartitioned := by
  unfold State.PoolPartitioned at h ⊢
  rw [State.blocksHeld_eq] at h ⊢
  rw [from_.freeList]
  simpa only [fun p => (from_.programs p).rings] using h

/-! ### Release and allocation (R105, R106) -/

/-- Consecutive rings of `b` blocks, joined, are the blocks they were taken from. -/
theorem ringsFrom_flatten (list : List Nat) (b : Nat) : ∀ n : Nat, (ringsFrom list b n).flatten = list.take (b * n)
  | 0 => by simp [ringsFrom]
  | n + 1 => by
    have last : (ringsFrom list b (n + 1)).flatten = (ringsFrom list b n).flatten ++ (list.drop (n * b)).take b := by
      simp [ringsFrom, List.range_succ]
    rw [last, ringsFrom_flatten list b n, Nat.mul_succ, List.take_add, Nat.mul_comm n b]

/-- `s` with another free list and program `p` with the rings of `d`. -/
def State.withBlocks (s : State) (p : Fin 16) (free : List Nat) (d : DelayLine) : State :=
  ({ s with freeList := free } : State).putProgram p { s.programs[p] with delay := d }

/-- `s` once the old rings of program `p` have joined the free list and each of its members has taken `blocks` blocks from
the head (R105). -/
def State.allotted (s : State) (p : Fin 16) (blocks : Nat) : State :=
  let list := s.freeList ++ s.programs[p].delay.rings.flatten
  let n := (s.activeEntry p).members.length
  s.withBlocks p (list.drop (blocks * n)) ⟨blocks, ringsFrom list blocks n, 0, 0⟩

theorem State.allocate_eq (s : State) (p : Fin 16) (request : Nat) :
    s.allocate p request = (s.allotted p (blocksFor request)).recompute p := by
  unfold State.allocate State.releaseBlocks State.allotted State.withBlocks State.putProgram
  simp

theorem State.release_eq (s : State) (p : Fin 16) :
    s.release p = (s.withBlocks p (s.freeList ++ s.programs[p].delay.rings.flatten) .none).recompute p := rfl

namespace State.PoolPartitioned
variable {s : State} (h : s.PoolPartitioned) (p : Fin 16)
include h

theorem recompute : (s.recompute p).PoolPartitioned := standing s _ (.recompute p s) h

theorem withBlocks {free : List Nat} {d : DelayLine}
    (own : (free ++ d.rings.flatten).Perm (s.freeList ++ s.programs[p].delay.rings.flatten)) :
    (s.withBlocks p free d).PoolPartitioned := by
  have self : (s.withBlocks p free d).programs[p] = { s.programs[p] with delay := d } := State.putProgram_self _ _ _
  refine h.exchange p (fun q other => ?_) (by rw [self]; exact own)
  exact congrArg (fun g : Program => g.delay.rings) (State.putProgram_other _ _ _ _ other)

theorem release : (s.release p).PoolPartitioned := by
  rw [State.release_eq]
  exact (h.withBlocks p (.of_eq (List.append_nil _))).recompute p

theorem allocate (request : Nat) : (s.allocate p request).PoolPartitioned := by
  rw [State.allocate_eq]
  refine State.PoolPartitioned.recompute (h.withBlocks p ?_) p
  rw [ringsFrom_flatten]
  exact List.perm_append_comm.trans (.of_eq (List.take_append_drop _ _))

/-- A new entry in force releases the rings or keeps them (R107). -/
theorem bringIn (old : ProgramEntry) : (s.bringIn old p).PoolPartitioned := by
  have rings : (s.programAfter old p).delay.rings = (broughtIn old (s.activeEntry p) s.programs[p]).delay.rings := by
    obtain ⟨-, -, -, -, -, -, -, rings, -⟩ :=
      State.recompute_keeps p (s.putProgram p (broughtIn old (s.activeEntry p) s.programs[p]))
    rwa [State.putProgram_self] at rings
  rw [State.bringIn_put]
  refine h.exchange p (fun q other => ?_) ?_
  · rw [State.putProgram_other _ _ _ _ other]
  · rw [State.putProgram_self, rings]
    unfold State.freedBlocks
    show ((s.freeList ++ _) ++ (if releasedBy _ _ = true then DelayLine.none else _ : DelayLine).rings.flatten).Perm _
    split
    · exact .of_eq (List.append_nil _)
    · exact .of_eq (by rw [List.append_nil])

end State.PoolPartitioned

/-! ### Every step -/

theorem State.PoolPartitioned.law : DelayLaw State.PoolPartitioned where
  standing := State.PoolPartitioned.standing
  swapBanks s h := s.swapBanks_induct h (fun p t => .standing t _ (.meterUpdate p t))
    (fun p t => .standing t _ (.packetComplete p t)) (fun _ ht => ht) (fun old p _ ht => ht.bringIn p old)
    (fun mine t => .standing t _ (.completeDeferred mine t))
  writeProgram which p e s h := by
    have stored : (s.setBankEntry which p e).PoolPartitioned := by cases which <;> exact h
    unfold State.writeProgram
    split
    · split
      · exact h
      · exact stored.bringIn p _
    · exact stored
  allocateDelay p request s h := by
    unfold State.allocateDelay
    split
    · exact h
    · split
      · exact h
      · dsimp only
        split
        · exact h
        · exact h.allocate p request
  releaseDelay p s h := by
    unfold State.releaseDelay
    split
    · exact h
    · exact h.release p
  reset settings straps s _ := by
    have freeList : (s.resetKeeping settings straps).freeList = State.reset.freeList := by simp only [State.resetKeeping]
    have programs : (s.resetKeeping settings straps).programs = State.reset.programs := rfl
    unfold State.PoolPartitioned State.blocksHeld
    rw [freeList, programs]
    exact State.reset_poolPartitioned

/-- Settles O53: an act that moves blocks takes them from the free list into one program's rings, or back. -/
theorem stepKeepsPoolPartitioned : Obligations.StepKeepsPoolPartitioned :=
  State.PoolPartitioned.law.kept.step

end Sys2Proof.Machine
end

section
/-! The rings stand at the member count, the two delays within the limit, and the read place behind the write place by
D_actual (R102, R109, R124). -/

namespace Sys2Proof.Machine

/-! ### A new entry in force (R46, R52, R57, R107) -/

/-- Rings that a new valid entry does not release stand at its member count (R107). -/
theorem rings_of_kept {new : ProgramEntry} {g : Program} (valid : new.valid = true) (kept : releasedBy new g = false) :
    g.delay.rings = [] ∨ g.delay.rings.length = new.members.length := by
  rw [releasedBy, valid, Bool.true_and, decide_eq_false_iff_not] at kept
  tauto

theorem broughtIn_rings {old new : ProgramEntry} {g : Program} (taken : (broughtIn old new g).state ≠ .free) :
    (broughtIn old new g).delay.rings = [] ∨ (broughtIn old new g).delay.rings.length = new.members.length := by
  have valid : new.valid = true := Bool.eq_true_of_not_eq_false fun invalid =>
    taken ((broughtIn_follows old new g).free.mpr invalid)
  show (if releasedBy new g = true then (⟨0, [], 0, 0⟩ : DelayLine) else g.delay).rings = [] ∨
    (if releasedBy new g = true then (⟨0, [], 0, 0⟩ : DelayLine) else g.delay).rings.length = _
  split
  · exact .inl rfl
  · next kept => exact rings_of_kept valid (Bool.eq_false_of_not_eq_true kept)

/-- A program that still processes house samples under its new entry was not cut, so the member count, and with it its
rings and places, stayed (Table 3-4). -/
theorem broughtIn_processing {old new : ProgramEntry} {g : Program} (h : g.DelayHeld old.members.length)
    (on : (broughtIn old new g).state.processing = true) :
    g.state.processing = true ∧ (broughtIn old new g).delay = g.delay := by
  have state : (broughtIn old new g).state = if new.valid = false then ProgramState.free
      else if g.state = .free ∨ cutBy old new g = true then .stopped else g.state := rfl
  rw [state] at on
  split at on
  · cases on
  · next valid =>
    split at on
    · cases on
    · next uncut =>
      obtain ⟨taken, uncut⟩ := not_or.mp uncut
      have same : old.members.length = new.members.length := by
        simpa [cutBy, on, valid] using uncut
      have kept : releasedBy new g = false := by
        have rings := h.rings taken
        rw [same] at rings
        simpa [releasedBy, valid, or_iff_not_imp_left] using rings
      exact ⟨on, if_neg (by rw [kept]; nofun)⟩

theorem broughtIn_actual (old new : ProgramEntry) (g : Program) :
    (broughtIn old new g).lip.actual = g.lip.actual := by
  unfold broughtIn
  dsimp only
  split <;> rfl

/-- A program that held its delay under the old entry holds it under the new one once that is in force. -/
theorem State.programAfter_held {s : State} {old : ProgramEntry} {p : Fin 16}
    (h : s.programs[p].DelayHeld old.members.length) :
    (s.programAfter old p).DelayHeld (s.activeEntry p).members.length := by
  unfold State.programAfter
  refine State.recompute_held ?_ ?_ <;> rw [State.putProgram_self]
  · exact broughtIn_rings
  · intro on
    obtain ⟨on', delay⟩ := broughtIn_processing h on
    rw [delay, broughtIn_actual]
    exact ⟨h.actual, h.places on'⟩

/-! ### The acts that move blocks or bring in an entry -/

namespace State.DelaysHeld

theorem standing (s t : State) (from_ : s.DelayFrom t) (h : s.DelaysHeld) : t.DelaysHeld := by
  rw [State.delaysHeld_iff] at h ⊢
  intro p
  rw [from_.entries p]
  exact (from_.programs p).held _ (h p)

variable {s : State} (h : s.DelaysHeld) (p : Fin 16)
include h

theorem held : s.programs[p].DelayHeld (s.activeEntry p).members.length := s.delaysHeld_iff.mp h p

/-- One program replaced by one that holds its delay. -/
theorem putProgram {g : Program} (held : g.DelayHeld (s.activeEntry p).members.length) : (s.putProgram p g).DelaysHeld := by
  rw [State.delaysHeld_iff]
  intro q
  rw [State.putProgram_get, State.putProgram_activeEntry]
  split
  · next same => rw [same]; exact held
  · exact h.held q

/-- A program that does not process house samples takes other rings, one for each member or none, and is computed again. -/
theorem withBlocks (free : List Nat) {d : DelayLine} (still : s.programs[p].state.processing = false)
    (rings : d.rings = [] ∨ d.rings.length = (s.activeEntry p).members.length) :
    ((s.withBlocks p free d).recompute p).DelaysHeld := by
  have own : (s.withBlocks p free d).programs[p] = { s.programs[p] with delay := d } := State.putProgram_self _ _ _
  have computed : ((s.withBlocks p free d).recompute p).programs[p].DelayHeld (s.activeEntry p).members.length := by
    refine State.recompute_held ?_ ?_ <;> rw [own]
    · exact fun _ => rings
    · exact fun on => absurd (still.symm.trans on) nofun
  have freed : ({ s with freeList := free } : State).DelaysHeld := ⟨h.rings, h.target, h.actual, h.places⟩
  rw [State.recompute_put, ← State.recompute_program, State.withBlocks, State.putProgram_put]
  exact freed.putProgram p computed

/-- At a boundary every program that held its delay under its entry holds it under the entry of the other bank. -/
theorem swapBanks : s.swapBanks.DelaysHeld := by
  have finished : (forEach 16 State.finishDue s).DelaysHeld := by
    refine forEach_induct (P := State.DelaysHeld) 16 _ s h fun p t ht => ?_
    unfold State.finishDue
    split
    · exact standing t _ (.trans (.meterUpdate p t) (.packetComplete p _)) ht
    · exact ht
  unfold State.swapBanks
  dsimp only
  generalize forEach 16 State.finishDue s = t at finished ⊢
  have brought : (forEach 16 (fun p u => u.bringIn (t.activeEntry p) p)
      { t with activeBank := t.activeBank.other, swapPending := false }).DelaysHeld := by
    rw [State.delaysHeld_iff, State.bringIn_all]
    intro p
    rw [ofFn_get]
    exact State.programAfter_held (s := { t with activeBank := t.activeBank.other, swapPending := false }) (finished.held p)
  refine forEach_induct (P := State.DelaysHeld) 16 _ _ (standing _ _ (.completeDeferred _ _) brought) fun p u hu => ?_
  split
  · exact standing u _ (.completeDeferred _ u) hu
  · exact hu

/-- A write into the active bank changes one program's entry, which that program takes in (R46). -/
theorem writeProgram (which : Bank) (e : ProgramEntry) : (s.writeProgram which p e).2.DelaysHeld := by
  have stored (q : Fin 16) (elsewhere : which ≠ s.activeBank ∨ q ≠ p) :
      (s.setBankEntry which p e).programs[q].DelayHeld ((s.setBankEntry which p e).activeEntry q).members.length := by
    rw [s.setBankEntry_activeEntry which p q e elsewhere, State.setBankEntry_programs]
    exact h.held q
  unfold State.writeProgram
  split
  · split
    · exact h
    · rw [State.delaysHeld_iff, State.bringIn_put]
      intro q
      rw [State.putProgram_get, State.putProgram_activeEntry]
      split
      · next same =>
        subst same
        refine State.programAfter_held ?_
        rw [State.setBankEntry_programs]
        exact h.held q
      · next other => exact stored q (.inr other)
  · next inactive => exact (State.delaysHeld_iff _).mpr fun q => stored q (.inl inactive)

theorem allocateDelay (request : Nat) : (s.allocateDelay p request).2.2.DelaysHeld := by
  unfold State.allocateDelay
  split
  · exact h
  · split
    · exact h
    · next stopped =>
      dsimp only
      split
      · exact h
      · rw [State.allocate_eq]
        refine h.withBlocks p _ (by rw [not_not.mp stopped]; rfl) (.inr ?_)
        simp [ringsFrom]

theorem releaseDelay : (s.releaseDelay p).2.DelaysHeld := by
  unfold State.releaseDelay
  split
  · exact h
  · next still =>
    dsimp only
    rw [State.release_eq]
    exact h.withBlocks p _ (Bool.eq_false_of_not_eq_true still) (.inl rfl)

end State.DelaysHeld

/-! ### Every step -/

theorem State.DelaysHeld.law : DelayLaw State.DelaysHeld where
  standing := State.DelaysHeld.standing
  swapBanks _ h := h.swapBanks
  writeProgram which p e _ h := h.writeProgram p which e
  allocateDelay p request _ h := h.allocateDelay p request
  releaseDelay p _ h := h.releaseDelay p
  reset _ _ _ _ := ⟨State.reset_delaysHeld.rings, State.reset_delaysHeld.target, State.reset_delaysHeld.actual,
    State.reset_delaysHeld.places⟩

/-- Settles O60: a jump puts the read place where D_actual says, and a new capacity has both delays computed again. -/
theorem stepKeepsDelaysHeld : Obligations.StepKeepsDelaysHeld :=
  State.DelaysHeld.law.kept.step

end Sys2Proof.Machine
end

section
/-! What is written at a place of the rings is read there, and other addresses keep what they held (R109, R110). -/

namespace Sys2Proof.Machine

/-- A place within a ring stands in one of the ring's blocks (R109). -/
theorem placeAddress_eq_some {ring : List Nat} {place : Nat} (within : place / 1024 < ring.length) :
    placeAddress ring place = some (ring[place / 1024] * 1024 + place % 1024) := by
  simp [placeAddress, Config.blockSamples, within]

/-- Two rings without a common block have no common address at one place. -/
theorem placeAddress_ne {ring other : List Nat} {place a : Nat} (disjoint : ring.Disjoint other)
    (here : placeAddress ring place = some a) : placeAddress other place ≠ some a := by
  intro there
  obtain ⟨b, member, rfl⟩ := Option.map_eq_some_iff.mp here
  obtain ⟨c, member', same⟩ := Option.map_eq_some_iff.mp there
  obtain rfl : c = b := Nat.eq_of_mul_eq_mul_right (by decide : 0 < Config.blockSamples) (Nat.add_right_cancel same)
  exact disjoint (List.mem_of_getElem? member) (List.mem_of_getElem? member')

/-- An address that no ring has at the place keeps what it held. -/
theorem writeRings_read {place a : Nat} : ∀ (rings : List (List Nat)) (xs : List Sample) (m : Memory), m.wf = true →
    (∀ ring ∈ rings, placeAddress ring place ≠ some a) → (writeRings rings place xs m).read a = m.read a
  | [], _, _, _, _ => rfl
  | _ :: _, [], _, _, _ => rfl
  | ring :: rings, x :: xs, m, wf, elsewhere => by
    have others := fun r member => elsewhere r (List.mem_cons_of_mem ring member)
    rw [writeRings_cons]
    cases address : placeAddress ring place with
    | none => exact writeRings_read rings xs m wf others
    | some i =>
      have ne : a ≠ i := fun same => elsewhere ring List.mem_cons_self (same ▸ address)
      refine (writeRings_read rings xs _ (m.write_wf i x wf) others).trans ?_
      rw [m.read_write i a x wf, if_neg ne]

/-- Each ring reads back the sample written for it, as the writes for the later rings go to other addresses. -/
theorem readRing_writeRings {place : Nat} : ∀ (rings : List (List Nat)) (xs : List Sample) (m : Memory), m.wf = true →
    rings.flatten.Nodup → (∀ ring ∈ rings, place / 1024 < ring.length) → xs.length = rings.length →
    rings.map (readRing (writeRings rings place xs m) place) = xs
  | [], [], _, _, _, _, _ => rfl
  | ring :: rings, x :: xs, m, wf, nodup, within, len => by
    obtain ⟨-, nodup', disjoint⟩ := List.nodup_append'.mp (List.flatten_cons ▸ nodup)
    have address := placeAddress_eq_some (within ring List.mem_cons_self)
    have later (r : List Nat) (member : r ∈ rings) :=
      placeAddress_ne (fun b here there => disjoint here (List.mem_flatten.mpr ⟨r, member, there⟩)) address
    have wf' := m.write_wf (ring[place / 1024]'(within ring List.mem_cons_self) * 1024 + place % 1024) x wf
    rw [writeRings_cons, address, List.map_cons]
    refine congrArg₂ List.cons ?_ (readRing_writeRings rings xs _ wf' nodup'
      (fun r member => within r (List.mem_cons_of_mem ring member)) (Nat.succ.inj len))
    unfold readRing
    rw [address]
    exact (writeRings_read rings xs _ wf' later).trans (by rw [m.read_write _ _ x wf, if_pos rfl])

/-- Settles O21: a place below the ring length stands in a block of each ring, and no two rings share one. -/
theorem ringReadAfterWrite : Obligations.RingReadAfterWrite := by
  intro rings blocks place xs m wf nodup lengths within len
  refine ⟨readRing_writeRings rings xs m wf nodup (fun ring member => ?_) len,
    fun a elsewhere => writeRings_read rings xs m wf elsewhere⟩
  rw [lengths ring member]
  omega

end Sys2Proof.Machine
end

section
/-! ALLOCATE DELAY and RELEASE DELAY: the blocks that move, the target computed again, and the refusals (R103 to R108, R124 to
R126, R171, R183). -/

namespace Sys2Proof.Machine

/-! ### New rings for a program that does not process house samples (R108, R124, R126) -/

theorem ProgramState.processing_of_still {st : ProgramState} (still : st = .stopped ∨ st = .free) :
    st.processing = false := by
  rcases still with rfl | rfl <;> rfl

section
variable {s : State} {p : Fin 16}

/-- In STOPPED and in FREE a computation leaves the rings and their places, and D_actual takes D_target. -/
theorem State.recompute_still (still : s.programs[p].state = .stopped ∨ s.programs[p].state = .free) :
    (s.recompute p).programs[p].delay = s.programs[p].delay ∧
    (s.recompute p).programs[p].lip.actual = (s.recompute p).programs[p].lip.target := by
  rcases still with stopped | free
  · rw [State.recompute_program, Program.follow_stopped (g := s.programs[p].aligned _) _ _ _ stopped]
    exact ⟨rfl, rfl⟩
  · rw [State.recompute_free free]
    exact ⟨rfl, rfl⟩

/-- With its new rings a program keeps its state, both its delays are the new target within the new capacity, and the other
programs stay. -/
theorem State.withBlocks_recompute (free : List Nat) (d : DelayLine)
    (still : s.programs[p].state = .stopped ∨ s.programs[p].state = .free) :
    let t := (s.withBlocks p free d).recompute p
    t.programs[p].delay = d ∧ t.programs[p].state = s.programs[p].state ∧
    t.programs[p].lip.actual = t.programs[p].lip.target ∧ t.programs[p].lip.target ≤ d.limit ∧
    ∀ q : Fin 16, q ≠ p → t.programs[q] = s.programs[q] := by
  dsimp only
  have own : (s.withBlocks p free d).programs[p] = { s.programs[p] with delay := d } := State.putProgram_self _ _ _
  have still' : (s.withBlocks p free d).programs[p].state = .stopped ∨ (s.withBlocks p free d).programs[p].state = .free := by
    rw [own]
    exact still
  obtain ⟨delay, follows⟩ := State.recompute_still still'
  obtain ⟨state, -⟩ := State.recompute_keeps p (s.withBlocks p free d)
  have target : ((s.withBlocks p free d).recompute p).programs[p].lip.target ≤ d.limit := by
    have bound := (State.recompute_held (fun _ => .inr rfl) fun on =>
      absurd ((ProgramState.processing_of_still still').symm.trans on) nofun).target
    rwa [delay, own] at bound
  refine ⟨delay.trans (by rw [own]), state.trans (by rw [own]), follows, target, fun q other => ?_⟩
  rw [State.recompute_put, State.putProgram_other _ _ _ _ other]
  exact State.putProgram_other _ _ _ _ other

/-! ### ALLOCATE DELAY (R103 to R105) -/

/-- B is the number of blocks whose capacity is the least that holds the requested delay (R104). -/
theorem blocksFor_eq {request blocks : Nat} (below : request < blocks * 1024) (above : (blocks - 1) * 1024 ≤ request) :
    blocksFor request = blocks := by
  unfold blocksFor ceilDiv Config.blockSamples
  omega

theorem State.allocateDelay_range {request : Nat} (beyond : 96000 < request) : s.allocateDelay p request = (.range, [], s) :=
  if_pos beyond

theorem State.allocateDelay_state {request : Nat} (within : request ≤ 96000) (taken : s.programs[p].state ≠ .stopped) :
    s.allocateDelay p request = (.state, [], s) :=
  (if_neg (Nat.not_lt.mpr within)).trans (if_pos taken)

section
variable {request blocks : Nat} (within : request ≤ 96000) (stopped : s.programs[p].state = .stopped)
  (below : request < blocks * 1024) (above : (blocks - 1) * 1024 ≤ request)
include within stopped below above

/-- In STOPPED the supply decides over a request in its range (R104). -/
theorem State.allocateDelay_judged : s.allocateDelay p request =
    if s.allocationSupply p < blocks * (s.activeEntry p).members.length then
      (.noSpace, natToBytes 2 (blocks * (s.activeEntry p).members.length) ++ natToBytes 2 (s.allocationSupply p), s)
    else
      let t := s.allocate p request
      (.done, natToBytes 1 t.programs[p].delay.blocks ++ natToBytes 4 t.programs[p].delay.capacity ++
        natToBytes 2 t.freeList.length, t) := by
  have need : s.allocationNeed p request = blocks * (s.activeEntry p).members.length := by
    rw [State.allocationNeed, blocksFor_eq below above]
  rw [← need]
  exact (if_neg (Nat.not_lt.mpr within)).trans (if_neg (not_not.mpr stopped))

theorem State.allocateDelay_noSpace (short : s.freeList.length + s.programs[p].delay.rings.flatten.length <
      blocks * (s.activeEntry p).members.length) :
    s.allocateDelay p request = (.noSpace, natToBytes 2 (blocks * (s.activeEntry p).members.length) ++
      natToBytes 2 (s.freeList.length + s.programs[p].delay.rings.flatten.length), s) :=
  (State.allocateDelay_judged within stopped below above).trans (if_pos short)

/-- An accepted allocation: the blocks taken, and the three numbers of its reply (R105, R183). -/
theorem State.allocateDelay_done (room : blocks * (s.activeEntry p).members.length ≤
      (s.freeList ++ s.programs[p].delay.rings.flatten).length) :
    s.allocateDelay p request = (.done, natToBytes 1 blocks ++ natToBytes 4 (blocks * 1024 - 1) ++
      natToBytes 2 (s.allotted p blocks).freeList.length, (s.allotted p blocks).recompute p) := by
  have enough : ¬ s.allocationSupply p < blocks * (s.activeEntry p).members.length := by
    rw [List.length_append] at room
    exact Nat.not_lt.mpr room
  rw [State.allocateDelay_judged within stopped below above, if_neg enough, s.allocate_eq, blocksFor_eq below above]
  obtain ⟨delay, -⟩ : ((s.allotted p blocks).recompute p).programs[p].delay = _ ∧ _ :=
    State.withBlocks_recompute _ _ (.inl stopped)
  dsimp only
  rw [delay]
  rfl

end

end

section
variable {o : Order} {s : State}

theorem allocateAct_short (short : o.contents.length < 4) : allocateAct o s = (.range, [], s) := if_pos short

theorem allocateAct_outside (outside : 16 ≤ o.index) : allocateAct o s = (.range, [], s) := by
  unfold allocateAct
  split
  · rfl
  · exact onProgram_outside outside _ s

theorem allocateAct_of_index {p : Fin 16} (index : o.index = p.val) (whole : 4 ≤ o.contents.length) :
    allocateAct o s = s.allocateDelay p (fieldAt o.contents 0 4) :=
  (if_neg (Nat.not_lt.mpr whole)).trans (onProgram_of_index index _ s)

/-- ALLOCATE DELAY without its contents, to no program, or of more than 96,000, is RANGE (R103, R171). -/
theorem allocateAct_range (refused : o.contents.length < 4 ∨ 16 ≤ o.index ∨ 96000 < fieldAt o.contents 0 4) :
    allocateAct o s = (.range, [], s) := by
  by_cases short : o.contents.length < 4
  · exact allocateAct_short short
  · by_cases outside : 16 ≤ o.index
    · exact allocateAct_outside outside
    · have beyond := (refused.resolve_left short).resolve_left outside
      exact (allocateAct_of_index (p := ⟨o.index, Nat.not_le.mp outside⟩) rfl (Nat.not_lt.mp short)).trans
        (State.allocateDelay_range beyond)

end

/-- Settles O31: the act on the part without the order, by its tests in their order. -/
theorem allocateDelayResult : Obligations.AllocateDelayResult := by
  refine ⟨fun s before after o p blocks ready index whole => ?_, fun s before after o ready =>
    ⟨fun refused => congrArg Host.Outcome.next (ready.answered_of_act (by decide) (allocateAct_range refused)),
      fun p index whole within => ⟨fun taken => congrArg Host.Outcome.next (ready.answered_of_act (by decide)
        ((allocateAct_of_index index whole).trans (State.allocateDelay_state within taken))),
        fun blocks stopped below above => ?_⟩⟩⟩
  · dsimp only
    intro within stopped below above room
    obtain ⟨delay, state, follows, target, others⟩ := State.withBlocks_recompute
      ((s.freeList ++ s.programs[p].delay.rings.flatten).drop (blocks * (s.activeEntry p).members.length))
      ⟨blocks, ringsFrom (s.freeList ++ s.programs[p].delay.rings.flatten) blocks (s.activeEntry p).members.length, 0, 0⟩
      (.inl stopped)
    have act := (allocateAct_of_index index whole).trans (State.allocateDelay_done (s := s.withOrders (before ++ after))
      within stopped below above room)
    exact ⟨_, congrArg Host.Outcome.next (ready.answered_of_act (by decide) act), rfl, delay, state.trans stopped, follows,
      target.trans (Nat.min_le_left _ _), others⟩
  · exact fun short => congrArg Host.Outcome.next (ready.answered_of_act (by decide)
      ((allocateAct_of_index index whole).trans (State.allocateDelay_noSpace (s := s.withOrders (before ++ after)) within
        stopped below above short)))

/-! ### RELEASE DELAY (R106) -/

section
variable {s : State} {p : Fin 16}

theorem releaseAct_done (still : s.programs[p].state.processing = false) :
    releaseAct p s = (.done, natToBytes 2 (s.freeList ++ s.programs[p].delay.rings.flatten).length,
      (s.withBlocks p (s.freeList ++ s.programs[p].delay.rings.flatten) ⟨0, [], 0, 0⟩).recompute p) := by
  have released : s.releaseDelay p = (.done, s.release p) := if_neg (by rw [still]; nofun)
  unfold releaseAct
  rw [released]
  rfl

theorem releaseAct_state (processing : s.programs[p].state.processing = true) : releaseAct p s = (.state, [], s) := by
  have refused : s.releaseDelay p = (.state, s) := if_pos processing
  unfold releaseAct
  rw [refused]

end

/-- Settles O32: the act on the part without the order; without rings the limit of both delays is 0. -/
theorem releaseDelayResult : Obligations.ReleaseDelayResult := by
  intro s before after o ready
  refine ⟨fun p index => ⟨fun still => ?_, fun processing => ?_⟩,
    fun outside => congrArg Host.Outcome.next (ready.answered_outside (by decide) outside _)⟩
  · dsimp only
    obtain ⟨delay, state, follows, target, others⟩ := State.withBlocks_recompute
      (s.freeList ++ s.programs[p].delay.rings.flatten) ⟨0, [], 0, 0⟩ still
    have zero := Nat.le_zero.mp (target.trans (Nat.min_le_left _ _))
    have act := releaseAct_done (s := s.withOrders (before ++ after)) (ProgramState.processing_of_still still)
    exact ⟨_, congrArg Host.Outcome.next (ready.answered_of_program (by decide) index act), rfl, delay, state,
      follows.trans zero, zero, others⟩
  · have on : s.programs[p].state.processing = true := by rcases processing with h | h | h <;> rw [h] <;> rfl
    exact congrArg Host.Outcome.next (ready.answered_of_program (by decide) index
      (releaseAct_state (s := s.withOrders (before ++ after)) on))

end Sys2Proof.Machine
end

section
/-! The expiry of a Latency Table entry: at the stale timeout, and short of it (R119). -/

namespace Sys2Proof.Machine

section
variable {e : LatencyEntry} {timeout : Nat}

theorem LatencyEntry.expire_due (fresh : e.state = .fresh) (old : timeout * 48000 ≤ e.age) :
    e.expire timeout = { e with state := .stale } := if_pos ⟨fresh, old⟩

theorem LatencyEntry.expire_undue (undue : e.state ≠ .fresh ∨ e.age < timeout * 48000) : e.expire timeout = e := by
  refine if_neg ?_
  rintro ⟨fresh, old⟩
  exact undue.elim (absurd fresh) fun young => Nat.not_le.mpr young old

end

section
variable {s : State} {i : Fin 64} {f : LatencyEntry → LatencyEntry}

theorem State.modifyLatency_eq {e : LatencyEntry} (result : f s.latencies[i] = e) :
    s.modifyLatency i f = { s with latencies := s.latencies.set i e } := by
  unfold State.modifyLatency
  rw [result]

theorem State.modifyLatency_fixed (fixed : f s.latencies[i] = s.latencies[i]) : s.modifyLatency i f = s := by
  rw [State.modifyLatency_eq fixed]
  simp

end

theorem exec_entryStale (s : State) (i : Fin 64) : exec (.entryStale i.val) s = .next (s.entryEvents i) :=
  congrArg Host.Outcome.next (atIndex_fin i State.entryEvents s)

/-- Settles O30: the command makes the event of its entry, which expires when due and is a fixed point otherwise. -/
theorem entryBecomesStale : Obligations.EntryBecomesStale := by
  intro s i
  rw [exec_entryStale]
  exact ⟨fun fresh old => congrArg Host.Outcome.next (State.modifyLatency_eq (LatencyEntry.expire_due fresh old)),
    fun undue => congrArg Host.Outcome.next (State.modifyLatency_fixed (LatencyEntry.expire_undue undue))⟩

end Sys2Proof.Machine
end

section
/-! Every vote count is the number of the triggers that hold the vote (R148). -/

namespace Sys2Proof.Machine

/-! ### What the counts are read from -/

/-- The four counts of every program are those that the triggers give it. -/
theorem State.votesCounted_iff (s : State) : s.VotesCounted ↔ ∀ p : Fin 16, s.programs[p].votes = s.votesOf p := by
  simp only [State.votesOf, State.countVotes_eq]
  refine ⟨fun ⟨mute, freeze, hold, fallback⟩ p => ?_, fun h => ?_⟩
  · rw [← mute p, ← freeze p, ← hold p, ← fallback p]
  · exact ⟨fun p => congrArg Votes.mute (h p), fun p => congrArg Votes.freeze (h p), fun p => congrArg Votes.hold (h p),
      fun p => congrArg Votes.fallback (h p)⟩

/-- Every program of `t` holds the vote counts it holds in `s`, and every trigger its entry and its state. -/
structure State.VotesStand (s t : State) : Prop where
  votes : ∀ p : Fin 16, t.programs[p].votes = s.programs[p].votes
  triggers : ∀ i : Fin 48,
    t.triggers[i].entry = s.triggers[i].entry ∧ t.triggers[i].status.state = s.triggers[i].status.state

theorem State.VotesStand.votesOf {s t : State} (h : s.VotesStand t) (p : Fin 16) : t.votesOf p = s.votesOf p := by
  have active (response : Responses → Bool) : t.activeFor p response = s.activeFor p response := by
    funext i
    obtain ⟨entry, state⟩ := h.triggers i
    unfold State.activeFor
    rw [entry, state]
  simp only [State.votesOf, State.countVotes_eq, active]

theorem State.VotesCounted.of_stand {s t : State} (h : s.VotesCounted) (same : s.VotesStand t) : t.VotesCounted := by
  rw [State.votesCounted_iff] at h ⊢
  intro p
  rw [same.votes, same.votesOf, h p]

/-! ### Acts that leave the triggers as they were -/

theorem State.passIf_triggers (switch : Bool) (frame : List Byte) (s : State) :
    (s.passIf switch frame).triggers = s.triggers := by
  unfold State.passIf
  split
  · rw [State.offerPass_rest]
  · rfl

theorem State.receive_triggers (frame : List Byte) (s : State) : (s.receive frame).triggers = s.triggers := by
  unfold State.receive
  split
  · rw [State.passIf_triggers, State.offerOrder_rest]
  · rfl
  · rw [State.offerPass_rest]
  · rw [State.passIf_triggers, State.latencyReport_rest]
  · rfl
  · exact State.passIf_triggers _ _ _
  · exact State.passIf_triggers _ _ _

theorem State.takeHead_triggers {s t : State} {c : EgressClass} {f : Sending} (head : s.takeHead c = some (f, t)) :
    t.triggers = s.triggers := by
  unfold State.takeHead at head
  split at head <;> split at head <;> cases head <;> rfl

theorem State.egressChoice_triggers (s : State) : s.egressChoice.triggers = s.triggers := by
  unfold State.egressChoice
  split
  · split
    · next t chosen =>
      unfold State.chooseMedia at chosen
      split at chosen <;> cases chosen
      rfl
    · cases chosen : s.chooseOther with
      | none => rfl
      | some t =>
        obtain ⟨c, -, found⟩ := List.exists_of_findSome?_eq_some chosen
        obtain ⟨⟨f, u⟩, head, rfl⟩ := Option.map_eq_some_iff.mp found
        have taken : u.triggers = s.triggers := State.takeHead_triggers head
        exact taken
  · rfl

theorem State.frameEnd_triggers (s : State) : s.frameEnd.triggers = s.triggers := by
  unfold State.frameEnd
  split
  · split <;> rfl
  · rfl

theorem State.completeDeferred_triggers (mine : Order → Bool) (s : State) :
    (s.completeDeferred mine).triggers = s.triggers := by
  rcases s.completeDeferred_spec mine with same | ⟨_, _, _, _, _, answered⟩
  · rw [same]
  · rw [answered, State.answer_triggers]

/-! ### Acts that leave the votes standing -/

namespace State.VotesStand

theorem refl (s : State) : s.VotesStand s := ⟨fun _ => rfl, fun _ => ⟨rfl, rfl⟩⟩

theorem trans {s t u : State} (h : s.VotesStand t) (k : t.VotesStand u) : s.VotesStand u :=
  ⟨fun p => (k.votes p).trans (h.votes p), fun i =>
    ⟨(k.triggers i).1.trans (h.triggers i).1, (k.triggers i).2.trans (h.triggers i).2⟩⟩

/-- An act that leaves the counts and the whole triggers. -/
theorem of_triggers {s t : State} (votes : ∀ p : Fin 16, t.programs[p].votes = s.programs[p].votes)
    (triggers : t.triggers = s.triggers) : s.VotesStand t :=
  ⟨votes, fun i => by rw [triggers]; exact ⟨rfl, rfl⟩⟩

/-- An act that leaves every program standing leaves its votes. -/
theorem of_stands {s t : State} (h : s.StandsAs t) (triggers : t.triggers = s.triggers) : s.VotesStand t :=
  of_triggers (fun p => (h.programs p).votes) triggers

/-- An act that touches neither the programs nor the triggers. -/
theorem elsewhere {s t : State} (programs : t.programs = s.programs) (triggers : t.triggers = s.triggers) : s.VotesStand t :=
  of_triggers (fun _ => by rw [programs]) triggers

theorem putProgram (s : State) (p : Fin 16) {g : Program} (votes : g.votes = s.programs[p].votes) :
    s.VotesStand (s.putProgram p g) := by
  refine of_triggers (fun q => ?_) rfl
  rw [State.putProgram_get]
  split
  · next same => rw [same]; exact votes
  · rfl

theorem offerNotice (n : Notice) (s : State) : s.VotesStand (s.offerNotice n) :=
  .of_stands (s.standsAs_offerNotice n) (by rw [State.offerNotice_rest])

theorem meterUpdate (p : Fin 16) (s : State) : s.VotesStand (s.meterUpdate p) :=
  .of_stands (s.standsAs_meterUpdate p) (by rw [State.meterUpdate_rest])

theorem packetComplete (p : Fin 16) (s : State) : s.VotesStand (s.packetComplete p) :=
  .of_stands (s.standsAs_packetComplete p) (by rw [State.packetComplete_rest])

theorem completeDeferred (mine : Order → Bool) (s : State) : s.VotesStand (s.completeDeferred mine) :=
  .of_stands (s.standsAs_completeDeferred mine) (s.completeDeferred_triggers mine)

/-- A fallback switch follows the counts and does not change them (R54). -/
theorem syncFallback (p : Fin 16) (s : State) : s.VotesStand (s.syncFallback p) := by
  obtain ⟨-, votes, -⟩ := State.syncFallback_stands p s
  rw [State.syncFallback_put]
  exact putProgram s p votes

theorem storeStream (i : Fin 32) (e : StreamEntry) (s : State) : s.VotesStand (s.storeStream i e) :=
  .of_stands (s.standsAs_storeStream i e) (by rw [State.storeStream_rest])

/-- A program that takes in a new entry keeps its votes (R52). -/
theorem bringIn (old : ProgramEntry) (p : Fin 16) (s : State) : s.VotesStand (s.bringIn old p) := by
  rw [State.bringIn_put]
  refine .trans (t := { s with freeList := s.freeList ++ s.freedBlocks p }) (.elsewhere rfl rfl) (putProgram _ p ?_)
  have computed := ((State.standsAs_recompute p
    (s.putProgram p (broughtIn old (s.activeEntry p) s.programs[p]))).programs p).votes
  rw [State.putProgram_self] at computed
  exact computed

theorem swapBanks (s : State) : s.VotesStand s.swapBanks :=
  s.swapBanks_induct (P := s.VotesStand) (.refl s) (fun p t h => h.trans (.meterUpdate p t))
    (fun p t h => h.trans (.packetComplete p t)) (fun _ h => h.trans (.elsewhere rfl rfl))
    (fun old p t h => h.trans (.bringIn old p t)) fun mine t h => h.trans (.completeDeferred mine t)

theorem startProgram (p : Fin 16) (s : State) : s.VotesStand (s.startProgram p).2 := by
  unfold State.startProgram
  dsimp only
  split
  · split
    · exact .refl s
    · exact (syncFallback p s).trans (putProgram _ p rfl)
  all_goals exact .refl s

theorem modifyTrigger (s : State) (i : Fin 48) (f : Trigger → Trigger)
    (keep : ∀ x, (f x).entry = x.entry ∧ (f x).status.state = x.status.state) : s.VotesStand (s.modifyTrigger i f) := by
  refine ⟨fun _ => rfl, fun j => ?_⟩
  by_cases same : j = i
  · rw [same, State.modifyTrigger_self]
    exact keep _
  · rw [State.modifyTrigger_other _ _ _ _ same]
    exact ⟨rfl, rfl⟩

/-- A reading clears the changed flag of a trigger's status at most, and no vote is read from that (R174). -/
theorem afterReading (table : Table) (i : Nat) (s : State) : s.VotesStand (s.afterReading table i) := by
  have effect : s.VotesStand (s.readEffect table i) := by
    cases table with
    | triggerStatus =>
      exact modifyTrigger s _ (fun x => { x with status := { x.status with changed := false } }) fun _ => ⟨rfl, rfl⟩
    | programStatus => exact putProgram s _ rfl
    | _ => exact .elsewhere rfl rfl
  exact effect.trans (.elsewhere rfl rfl)

/-- An acknowledgement clears the latched flag, and no vote is read from that (R150). -/
theorem acknowledge (which : Option (Fin 48)) (s : State) : s.VotesStand (s.acknowledge which) := by
  have keep (x : Trigger) : ({ x with status := x.status.acknowledge } : Trigger).status.state = x.status.state := by
    rw [TriggerStatus.acknowledge_eq]
  cases which with
  | some i => exact modifyTrigger s i (fun x => { x with status := x.status.acknowledge }) fun x => ⟨rfl, keep x⟩
  | none => exact ⟨fun _ => rfl, fun i => by simp [State.acknowledge, TriggerStatus.acknowledge_eq]⟩

end State.VotesStand

/-! ### The counts taken anew (R148; log 23) -/

theorem State.votesOf_congr {s t : State} (triggers : t.triggers = s.triggers) (p : Fin 16) : t.votesOf p = s.votesOf p := by
  unfold State.votesOf State.countVotes
  rw [triggers]

/-- The triggers are counted anew, so nothing is asked of the counts before. -/
theorem State.applyVotes_votesCounted (s : State) : s.applyVotes.VotesCounted := by
  rw [State.votesCounted_iff]
  intro p
  obtain ⟨-, votes, -⟩ := State.syncFallback_stands p (s.modifyProgram p fun g => { g with votes := s.votesOf p })
  rw [State.applyVotes_programs, votes, State.modifyProgram_self]
  exact (State.votesOf_congr (by rw [State.applyVotes_rest]) p).symm

theorem State.offerStepNotices_votesStand (before : Vector Trigger 48) (s : State) :
    s.VotesStand (s.offerStepNotices before) := by
  unfold State.offerStepNotices
  refine List.foldlRecOn _ _ (.refl s) fun t h i _ => ?_
  split
  · exact h.trans (.offerNotice _ t)
  · exact h

theorem State.VotesCounted.evaluate (s : State) (h : s.VotesCounted) : s.evaluate.VotesCounted := by
  unfold State.evaluate
  split
  · exact (State.applyVotes_votesCounted _).of_stand (State.offerStepNotices_votesStand _ _)
  · exact h

theorem State.writeTrigger_votesCounted (i : Fin 48) (e : TriggerEntry) (s : State) : (s.writeTrigger i e).VotesCounted := by
  unfold State.writeTrigger
  exact State.applyVotes_votesCounted _

theorem State.VotesCounted.writeEntry (which : Bank) (i : Nat) (n : NewEntry) (s : State) (h : s.VotesCounted) :
    (s.writeEntry which i n).2.VotesCounted := by
  cases n with
  | settings c => exact h.of_stand (.elsewhere rfl rfl)
  | stream e =>
    simp only [State.writeEntry, State.writeStream]
    split
    · exact h
    · exact h.of_stand (.storeStream _ e s)
  | program e =>
    have stored (p : Fin 16) : s.VotesStand (s.setBankEntry which p e) :=
      .elsewhere (s.setBankEntry_programs ..) (s.setBankEntry_triggers ..)
    simp only [State.writeEntry, State.writeProgram]
    split
    · split
      · exact h
      · exact h.of_stand ((stored _).trans (.bringIn _ _ _))
    · exact h.of_stand (stored _)
  | egress e =>
    simp only [State.writeEntry, State.writeEgress]
    split
    · exact h
    · have stored : s.VotesStand { s with egressTable := s.egressTable.set (Fin.ofNat 16 i) e } := .elsewhere rfl rfl
      exact h.of_stand (stored.trans (.of_stands (State.standsAs_recompute _ _) rfl))
  | latency w =>
    simp only [State.writeEntry, State.tryLatency]
    split
    · exact h
    · exact h.of_stand (.of_stands (s.standsAs_writeLatency _ w) (by rw [State.writeLatency_rest]))
  | trigger e =>
    simp only [State.writeEntry, State.tryTrigger]
    split
    · exact h
    · dsimp only
      exact s.writeTrigger_votesCounted _ e

/-! ### Every step -/

theorem State.resetKeeping_votesCounted (settings : Settings) (straps : Byte) (s : State) :
    (s.resetKeeping settings straps).VotesCounted :=
  State.reset_votesCounted.of_stand (.elsewhere rfl rfl)

/-- Every act keeps the counts: it leaves them standing, or counts the triggers anew. -/
theorem State.VotesCounted.kept : Kept State.VotesCounted where
  pending _ _ h := h.of_stand (.elsewhere rfl rfl)
  house _ _ h := h.of_stand (.elsewhere rfl rfl)
  evaluationDue _ _ h := h.of_stand (.elsewhere rfl rfl)
  ready _ _ h := h.of_stand (.elsewhere rfl rfl)
  receive frame s h := h.of_stand (.of_stands (s.standsAs_receive frame) (s.receive_triggers frame))
  loopUpdate _ _ h := h.of_stand (.elsewhere rfl rfl)
  gapTimeout _ _ h := h.of_stand (.elsewhere rfl rfl)
  holdoverLimit _ _ h := h.of_stand (.elsewhere rfl rfl)
  expire _ _ _ h := h.of_stand (.elsewhere rfl rfl)
  meterUpdate p s h := h.of_stand (.meterUpdate p s)
  packetComplete p s h := h.of_stand (.packetComplete p s)
  fadeOutEnd p s h := h.of_stand (.of_stands (s.standsAs_moved p Program.fadeOutEnd_moved) rfl)
  fadeInEnd now e p s h := h.of_stand (.of_stands (s.standsAs_moved p fun g => g.fadeInEnd_moved now e) rfl)
  quietWaitExpiry now p s h := h.of_stand (.of_stands (s.standsAs_moved p fun g => g.quietWaitExpiry_moved now) rfl)
  evaluate := State.VotesCounted.evaluate
  egressChoice s h := h.of_stand (.of_stands s.standsAs_egressChoice s.egressChoice_triggers)
  frameEnd s h := h.of_stand (.of_stands s.standsAs_frameEnd s.frameEnd_triggers)
  swapBanks s h := h.of_stand (.swapBanks s)
  convertAll _ h := h.of_stand (.elsewhere rfl rfl)
  ageEntries _ h := h.of_stand (.elsewhere rfl rfl)
  syncFallback p s h := h.of_stand (.syncFallback p s)
  programSample p s h := h.of_stand (.of_stands (s.standsAs_programSample p) (by rw [State.programSample_rest]))
  withoutTaken _ h := h.of_stand (.elsewhere rfl rfl)
  answer _ _ _ _ _ _ h _ := h.of_stand (.elsewhere rfl rfl)
  deferOrder _ h _ := h.of_stand (.elsewhere rfl rfl)
  record _ _ _ _ h := h.of_stand (.elsewhere rfl rfl)
  afterReading table i s h := h.of_stand (.afterReading table i s)
  writeEntry which i n s _ h := h.writeEntry which i n
  startProgram p s h := h.of_stand (.startProgram p s)
  stopProgram p s h := h.of_stand (.of_stands (s.standsAs_stopProgram p) (by rw [State.stopProgram_rest]))
  allocateDelay p request s h := h.of_stand (.of_stands (s.standsAs_allocateDelay p request) (by rw [State.allocateDelay_rest]))
  releaseDelay p s h := h.of_stand (.of_stands (s.standsAs_releaseDelay p) (by rw [State.releaseDelay_rest]))
  resetStream i s h := h.of_stand (.storeStream i _ s)
  resetIntegration p s h := h.of_stand (.putProgram s p rfl)
  acknowledge which s h := h.of_stand (.acknowledge which s)
  sendLatency p s h := h.of_stand (.putProgram s p rfl)
  reset settings straps s _ := s.resetKeeping_votesCounted settings straps

/-- Settles O57: an evaluation and a trigger write count the triggers anew, and every other act leaves both the counts and
what they are read from. -/
theorem stepKeepsVotesCounted : Obligations.StepKeepsVotesCounted :=
  State.VotesCounted.kept.step

end Sys2Proof.Machine
end

section
/-! A trigger's step by Table 8-3, and the runs of steps by which it fires and clears (R144, R145, R147, R150, R154). -/

namespace Sys2Proof.Machine

/-! ### What a step does once its row is known (R147, R154) -/

/-- The row "true" of WATCHING and PENDING: the condition holds, and a level-2 trigger is armed (R145). -/
def Trigger.Rises (t : Trigger) (truth : Bool) : Prop := truth = true ∧ (t.entry.level2 = true → t.status.armed = true)

/-- The step leads to `state` and `count`, and neither fires nor clears. -/
def Trigger.StandsAt (t : Trigger) (read : Bool × Int) (state : TriggerState) (count : Nat) : Prop :=
  (t.step read).status.state = state ∧ (t.step read).status.count = count ∧
  (t.step read).status.fireTotal = t.status.fireTotal ∧ (t.step read).status.latched = t.status.latched

/-- The step goes ACTIVE. -/
def Trigger.Fires (t : Trigger) (read : Bool × Int) : Prop :=
  (t.step read).status.state = .active ∧ (t.step read).status.count = 0 ∧
  (t.step read).status.fireTotal = min 65535 (t.status.fireTotal + 1) ∧ (t.step read).status.latched = t.status.latched

/-- The step leaves ACTIVE or CLEARING. -/
def Trigger.Clears (t : Trigger) (read : Bool × Int) : Prop :=
  (t.step read).status.state = .watching ∧ (t.step read).status.count = 0 ∧
  (t.step read).status.fireTotal = t.status.fireTotal ∧
  (t.step read).status.latched = (t.status.latched || t.entry.latch)

section
variable {t : Trigger} {truth : Bool} {v : Int}

theorem Trigger.step_armed (read : Bool × Int) (t : Trigger) : (t.step read).status.armed = t.status.armed := by
  unfold Trigger.step
  split <;> rfl

/-- The whole status after a step to `st` with the count `n`. -/
theorem Trigger.step_status (on : t.status.state ≠ .off) {st : TriggerState} {n : Nat}
    (next : stepState t.entry truth t.status.armed t.status.state t.status.count = (st, n)) :
    (t.step (truth, v)).status = { t.status with
      state := st, count := n, lastCondition := truth, lastMeasured := v
      latched := t.status.latched || (leaves t.status.state st && t.entry.latch)
      fireTotal := if goesActive t.status.state st then min 65535 (t.status.fireTotal + 1) else t.status.fireTotal
      changed := t.status.changed || decide (st ≠ t.status.state) ||
        ((leaves t.status.state st && t.entry.latch) && !t.status.latched) } := by
  unfold Trigger.step
  rw [if_neg on]
  dsimp only
  rw [next, saturating_eq]
  rfl

/-- Between two states that both hold the votes, or both do not, nothing fires or clears. -/
theorem Trigger.standsAt_of_next (on : t.status.state ≠ .off) {st : TriggerState} {n : Nat}
    (next : stepState t.entry truth t.status.armed t.status.state t.status.count = (st, n))
    (votes : st.holds = t.status.state.holds) : t.StandsAt (truth, v) st n := by
  have same : goesActive t.status.state st = false ∧ leaves t.status.state st = false := by
    simp [goesActive, leaves, votes]
  simp [Trigger.StandsAt, Trigger.step_status on next, same]

/-- What of the status a step does not give by its state, count, latched flag and fire total (R154). -/
theorem Trigger.step_records (on : t.status.state ≠ .off) : t.step (truth, v) = { t with status := { t.status with
    state := (t.step (truth, v)).status.state, count := (t.step (truth, v)).status.count
    latched := (t.step (truth, v)).status.latched, fireTotal := (t.step (truth, v)).status.fireTotal
    lastCondition := truth, lastMeasured := v
    changed := t.status.changed || decide ((t.step (truth, v)).status.state ≠ t.status.state) ||
      decide ((t.step (truth, v)).status.latched ≠ t.status.latched) } } := by
  have latchChanges (latched latch : Bool) : (latch && !latched) = decide ((latched || latch) ≠ latched) := by
    cases latched <;> cases latch <;> rfl
  obtain ⟨st, n, next⟩ : ∃ st n, stepState t.entry truth t.status.armed t.status.state t.status.count = (st, n) :=
    ⟨_, _, rfl⟩
  calc t.step (truth, v) = { t with status := (t.step (truth, v)).status } := by
        rw [← Trigger.step_entry (truth, v) t]
    _ = _ := by
        rw [Trigger.step_status on next, latchChanges]

/-! ### The rows of Table 8-3 -/

theorem Trigger.rises_iff : (truth && (t.status.armed || !t.entry.level2)) = true ↔ t.Rises truth := by
  unfold Trigger.Rises
  cases truth <;> cases t.status.armed <;> cases t.entry.level2 <;> decide

/-- A trigger that has counted `k` true evaluations counts one more, and fires where that reaches its fire count. -/
theorem Trigger.step_rises {k : Nat} (rises : t.Rises truth)
    (counted : t.status.state = .watching ∧ k = 0 ∨ t.status.state = .pending ∧ t.status.count = k) :
    (t.entry.fireCount ≤ k + 1 → t.Fires (truth, v)) ∧
    (k + 1 < t.entry.fireCount → t.StandsAt (truth, v) .pending (k + 1)) := by
  have next : stepState t.entry truth t.status.armed t.status.state t.status.count =
      if t.entry.fireCount ≤ k + 1 then (.active, 0) else (.pending, k + 1) := by
    rcases counted with ⟨state, rfl⟩ | ⟨state, rfl⟩ <;> rw [state] <;> exact if_pos (Trigger.rises_iff.mpr rises)
  obtain ⟨on, votes⟩ : t.status.state ≠ .off ∧ t.status.state.holds = false := by
    rcases counted with ⟨state, -⟩ | ⟨state, -⟩ <;> rw [state] <;> exact ⟨nofun, rfl⟩
  refine ⟨fun last => ?_, fun more => ?_⟩
  · rw [if_pos last] at next
    have fires : goesActive t.status.state .active = true ∧ leaves t.status.state .active = false := by
      rw [goesActive, leaves, votes]
      exact ⟨rfl, rfl⟩
    simp [Trigger.Fires, Trigger.step_status on next, fires]
  · rw [if_neg (Nat.not_le.mpr more)] at next
    exact Trigger.standsAt_of_next on next votes.symm

theorem Trigger.step_falls_back (rests : ¬ t.Rises truth)
    (waits : t.status.state = .watching ∨ t.status.state = .pending) : t.StandsAt (truth, v) .watching 0 := by
  have next : stepState t.entry truth t.status.armed t.status.state t.status.count = (.watching, 0) := by
    rcases waits with state | state <;> rw [state] <;> exact if_neg (mt Trigger.rises_iff.mp rests)
  rcases waits with state | state <;>
    exact Trigger.standsAt_of_next (by rw [state]; nofun) next (congrArg TriggerState.holds state).symm

/-- A trigger that has counted `k` false evaluations counts one more, and clears where that reaches its clear count. -/
theorem Trigger.step_clears {k : Nat}
    (counted : t.status.state = .active ∧ k = 0 ∨ t.status.state = .clearing ∧ t.status.count = k) :
    (t.entry.clearCount ≤ k + 1 → t.Clears (false, v)) ∧
    (k + 1 < t.entry.clearCount → t.StandsAt (false, v) .clearing (k + 1)) := by
  have next : stepState t.entry false t.status.armed t.status.state t.status.count =
      if t.entry.clearCount ≤ k + 1 then (.watching, 0) else (.clearing, k + 1) := by
    rcases counted with ⟨state, rfl⟩ | ⟨state, rfl⟩ <;> rw [state] <;> rfl
  obtain ⟨on, votes⟩ : t.status.state ≠ .off ∧ t.status.state.holds = true := by
    rcases counted with ⟨state, -⟩ | ⟨state, -⟩ <;> rw [state] <;> exact ⟨nofun, rfl⟩
  refine ⟨fun last => ?_, fun more => ?_⟩
  · rw [if_pos last] at next
    have clears : goesActive t.status.state .watching = false ∧ leaves t.status.state .watching = true := by
      rw [goesActive, leaves, votes]
      exact ⟨rfl, rfl⟩
    simp [Trigger.Clears, Trigger.step_status on next, clears]
  · rw [if_neg (Nat.not_le.mpr more)] at next
    exact Trigger.standsAt_of_next on next votes.symm

theorem Trigger.step_holds (votes : t.status.state = .active ∨ t.status.state = .clearing) :
    t.StandsAt (true, v) .active 0 := by
  have next : stepState t.entry true t.status.armed t.status.state t.status.count = (.active, 0) := by
    rcases votes with state | state <;> rw [state] <;> rfl
  rcases votes with state | state <;>
    exact Trigger.standsAt_of_next (by rw [state]; nofun) next (congrArg TriggerState.holds state).symm

end

theorem triggerStepTable : TriggerStepTable := by
  intro t truth v
  refine ⟨Trigger.step_off _, Trigger.step_records, fun watching => ?_, fun pending => ?_, fun active => ?_,
    fun clearing => ?_⟩
  · exact ⟨fun rises => (Trigger.step_rises rises (.inl ⟨watching, rfl⟩)).1,
      fun rises => (Trigger.step_rises rises (.inl ⟨watching, rfl⟩)).2,
      fun rests => Trigger.step_falls_back rests (.inl watching)⟩
  · exact ⟨fun rises => (Trigger.step_rises rises (.inr ⟨pending, rfl⟩)).1,
      fun rises => (Trigger.step_rises rises (.inr ⟨pending, rfl⟩)).2,
      fun rests => Trigger.step_falls_back rests (.inr pending)⟩
  · refine ⟨?_, ?_, ?_⟩ <;> rintro rfl
    · exact Trigger.step_holds (.inl active)
    · exact (Trigger.step_clears (.inl ⟨active, rfl⟩)).1
    · exact (Trigger.step_clears (.inl ⟨active, rfl⟩)).2
  · refine ⟨?_, ?_, ?_⟩ <;> rintro rfl
    · exact Trigger.step_holds (.inr clearing)
    · exact (Trigger.step_clears (.inr ⟨clearing, rfl⟩)).1
    · exact (Trigger.step_clears (.inr ⟨clearing, rfl⟩)).2

/-! ### Evaluations in a row (R145) -/

/-- `u` is `t` after `k` evaluations in a row that it counts in `counting`, from `first` on. -/
structure Trigger.Counted (first counting : TriggerState) (t : Trigger) (k : Nat) (u : Trigger) : Prop where
  entry : u.entry = t.entry
  armed : u.status.armed = t.status.armed
  fireTotal : u.status.fireTotal = t.status.fireTotal
  latched : u.status.latched = t.status.latched
  counted : u.status.state = first ∧ k = 0 ∨ u.status.state = counting ∧ u.status.count = k

section
variable {first counting : TriggerState} {t u : Trigger} {k : Nat}

theorem Trigger.Counted.count (h : Trigger.Counted first counting t k u) (begun : 1 ≤ k) :
    u.status.state = counting ∧ u.status.count = k :=
  h.counted.resolve_left fun start => by omega

/-- Where each evaluation short of `bound` is counted, so are those in a row. -/
theorem Trigger.counted_iterate {read : Bool × Int} {bound : Nat} (start : t.status.state = first)
    (step : ∀ k u, Trigger.Counted first counting t k u → k + 1 < bound → u.StandsAt read counting (k + 1)) :
    k < bound → Trigger.Counted first counting t k ((Trigger.step read)^[k] t) := by
  induction k with
  | zero => exact fun _ => ⟨rfl, rfl, rfl, rfl, .inl ⟨start, rfl⟩⟩
  | succ k ih =>
    intro lt
    have before := ih (by omega)
    rw [Function.iterate_succ_apply']
    obtain ⟨state, count, fireTotal, latched⟩ := step k _ before lt
    exact ⟨(Trigger.step_entry _ _).trans before.entry, (Trigger.step_armed _ _).trans before.armed,
      fireTotal.trans before.fireTotal, latched.trans before.latched, .inr ⟨state, count⟩⟩

end

section
variable {t : Trigger} {v : Int}

theorem Trigger.Counted.rises (rises : t.Rises true) {k : Nat} {u : Trigger}
    (h : Trigger.Counted .watching .pending t k u) : u.Rises true := by
  unfold Trigger.Rises
  rw [h.entry, h.armed]
  exact rises

theorem Trigger.counted_true (rises : t.Rises true) (watching : t.status.state = .watching) {k : Nat}
    (short : k < t.entry.fireCount) : Trigger.Counted .watching .pending t k ((Trigger.step (true, v))^[k] t) := by
  refine Trigger.counted_iterate watching (fun k u before more => ?_) short
  exact (Trigger.step_rises (before.rises rises) before.counted).2 (by rw [before.entry]; exact more)

theorem Trigger.counted_false (active : t.status.state = .active) {k : Nat}
    (short : k < t.entry.clearCount) : Trigger.Counted .active .clearing t k ((Trigger.step (false, v))^[k] t) := by
  refine Trigger.counted_iterate active (fun k u before more => ?_) short
  exact (Trigger.step_clears before.counted).2 (by rw [before.entry]; exact more)

/-- The last of as many true evaluations in a row as the fire count. -/
theorem Trigger.fires_iterate (rises : t.Rises true) (watching : t.status.state = .watching)
    (positive : 1 ≤ t.entry.fireCount) :
    let u := (Trigger.step (true, v))^[t.entry.fireCount] t
    u.status.state = .active ∧ u.status.fireTotal = min 65535 (t.status.fireTotal + 1) ∧ u.entry = t.entry := by
  obtain ⟨k, last⟩ := Nat.exists_eq_add_of_le' positive
  have before : Trigger.Counted .watching .pending t k _ := Trigger.counted_true (v := v) rises watching (by omega)
  obtain ⟨state, -, fireTotal, -⟩ :=
    (Trigger.step_rises (v := v) (before.rises rises) before.counted).1 (by rw [before.entry, last])
  rw [last, Function.iterate_succ_apply']
  exact ⟨state, by rw [fireTotal, before.fireTotal], (Trigger.step_entry _ _).trans before.entry⟩

/-- The last of as many false evaluations in a row as the clear count. -/
theorem Trigger.clears_iterate (active : t.status.state = .active) (positive : 1 ≤ t.entry.clearCount) :
    let u := (Trigger.step (false, v))^[t.entry.clearCount] t
    u.status.state = .watching ∧ u.status.latched = (t.status.latched || t.entry.latch) ∧
    u.status.fireTotal = t.status.fireTotal := by
  obtain ⟨k, last⟩ := Nat.exists_eq_add_of_le' positive
  have before : Trigger.Counted .active .clearing t k _ := Trigger.counted_false (v := v) active (by omega)
  obtain ⟨state, -, fireTotal, latched⟩ :=
    (Trigger.step_clears (v := v) before.counted).1 (by rw [before.entry, last])
  rw [last, Function.iterate_succ_apply']
  exact ⟨state, by rw [latched, before.latched, before.entry], fireTotal.trans before.fireTotal⟩

end

/-- Settles O33: the rows of Table 8-3, and by induction on the evaluations in a row what they count. -/
theorem triggerFiresAfterCount : Obligations.TriggerFiresAfterCount := by
  refine ⟨triggerStepTable, fun t v => ⟨fun level watching _ positive => ?_, fun active positive => ?_⟩⟩
  · have rises : t.Rises true := ⟨rfl, fun level2 => level.resolve_left (by rw [level2]; nofun)⟩
    refine ⟨fun k one short => ?_, Trigger.fires_iterate rises watching positive⟩
    have counted := Trigger.counted_true (v := v) rises watching short
    obtain ⟨state, count⟩ := counted.count one
    obtain ⟨back, zero, fireTotal, -⟩ := Trigger.step_falls_back (v := v) (truth := false) (fun rises => nomatch rises.1)
      (.inr state)
    exact ⟨state, count, back, zero, fireTotal.trans counted.fireTotal⟩
  · refine ⟨fun k one short => ?_, Trigger.clears_iterate active positive⟩
    have counted := Trigger.counted_false (v := v) active short
    obtain ⟨state, count⟩ := counted.count one
    obtain ⟨back, zero, fireTotal, latched⟩ := Trigger.step_holds (v := v) (.inr state)
    exact ⟨state, count, back, zero, fireTotal.trans counted.fireTotal, latched.trans counted.latched⟩

end Sys2Proof.Machine
end

section
/-! A notice offered to its queue (R152). -/

namespace Sys2Proof.Machine

theorem State.offerNotice_free {s : State} (n : Notice) (free : s.notices.length < 32) :
    s.offerNotice n = { s with notices := s.notices ++ [n] } :=
  if_pos free

theorem State.offerNotice_full {s : State} (n : Notice) (full : 32 ≤ s.notices.length) :
    s.offerNotice n = { s with
      flags := { s.flags with noticesLost := true }, lostCount := min 65535 (s.lostCount + 1) } := by
  have refused : ¬ s.notices.length < Config.noticePlaces := Nat.not_lt.mpr full
  rw [State.offerNotice, if_neg refused, saturating_eq]
  rfl

/-- Settles O35: the offer splits at a queue of 32 notices. -/
theorem noticeOffered : Obligations.NoticeOffered := fun _ n => ⟨State.offerNotice_free n, State.offerNotice_full n⟩

end Sys2Proof.Machine
end

section
/-! The bytes of latency reports and notices (R151, R164, R165, R182). -/

namespace Sys2Proof.Frames

open Sys2Proof.Machine hiding rawBytes

theorem rawFrame_withHeader (c : Settings) (destination : BitVec 48) (kind : Nat) (key : BitVec 16) (content : List Byte) :
    rawFrame c destination (withHeader kind key content) = rawBytes c destination (BitVec.ofNat 8 kind) key content := by
  simp only [rawFrame, padded, withHeader, sourceMac, rawBytes, List.append_assoc]

theorem natToBytes_byte (b : Byte) : natToBytes 1 b.toNat = [b] := by
  simp [natToBytes]

theorem codeByte_noticeCodes (k : NoticeKind) : codeByte noticeCodes k = natToBytes 1 (noticeNumber k) := by
  cases k <;> rfl

theorem codeByte_conditionCodes (k : Condition) : codeByte conditionCodes k = natToBytes 1 (conditionNumber k) := by
  cases k <;> rfl

theorem indexOrNone_eq {n : Nat} (i : Option (Fin n)) : indexOrNone i = natToBytes 1 (i.elim 255 (·.val)) := by
  cases i <;> rfl

theorem intToBytes_eq (n : Nat) (v : Int) : intToBytes n v = signedBytes n v := by
  have range : ((2 ^ (8 * n) : Nat) : Int) = 256 ^ n := by
    rw [pow_mul]
    norm_num
  rw [intToBytes, signedBytes, BitVec.toNat_ofInt, range]

theorem responsesByte_eq (r : Responses) : responsesByte r = natToBytes 1 (r.notice.toNat + 2 * r.mute.toNat
    + 4 * r.freezeGain.toNat + 8 * r.holdIntegration.toNat + 16 * r.fallback.toNat) := by
  have weight (b : Bool) (k : Nat) : (if b then k else 0) = k * b.toNat := by cases b <;> simp
  simp only [responsesByte, weight, one_mul]

theorem reportAndNoticeBytes : ReportAndNoticeBytes := by
  refine fun c => ⟨fun r => ?_, fun lost n => ?_⟩
  · rw [reportFrame, rawFrame_withHeader, natToBytes_byte]
    rfl
  · rw [noticeFrame, rawFrame_withHeader, natToBytes_byte, codeByte_noticeCodes, codeByte_conditionCodes, indexOrNone_eq,
      indexOrNone_eq, intToBytes_eq, responsesByte_eq]
    rfl

end Sys2Proof.Frames
end

section
/-! The arbiter's choice among the classes, with no media frame queued (R161, R162, R166). -/

namespace Sys2Proof.Machine

/-- The queue of a class holds nothing. -/
def State.ClassEmpty (s : State) : EgressClass → Prop
  | .replies => s.replyQueue = []
  | .reports => s.reportQueue = []
  | .notices => s.notices = []
  | .passThrough => s.passQueue = []

/-- The arbiter may choose, and no program has a packet queued. -/
structure State.ChoosesOther (s : State) : Prop where
  idle : s.sending = none
  ready : s.ready = true
  phase : s.resetPhase ≠ .due
  media : ∀ p : Fin 16, s.programs[p].egress.queue = []

section
variable {s : State}

theorem State.takeHead_none {c : EgressClass} (empty : s.ClassEmpty c) : s.takeHead c = none := by
  unfold State.ClassEmpty at empty
  unfold State.takeHead
  cases c <;> dsimp only at empty ⊢ <;> rw [empty]

/-- A frame at the head of a class that the search comes to over empty ones is the one chosen. -/
theorem findSome?_of_takeWhile {α β : Type} [DecidableEq α] {f : α → Option β} {a : α} {b : β} {l : List α}
    (listed : a ∈ l) (found : f a = some b) (before : ∀ d ∈ l.takeWhile (fun d => decide (d ≠ a)), f d = none) :
    l.findSome? f = some b := by
  induction l with
  | nil => cases listed
  | cons d l ih =>
    by_cases same : d = a
    · rw [List.findSome?_cons, same, found]
    · rw [List.takeWhile_cons_of_pos (p := fun d => decide (d ≠ a)) (decide_eq_true same)] at before
      rw [List.findSome?_cons, before d List.mem_cons_self]
      exact ih ((List.mem_cons.mp listed).resolve_left (Ne.symm same)) fun x hx => before x (List.mem_cons_of_mem d hx)

theorem EgressClass.mem_after (last c : EgressClass) : c ∈ last.after := by
  cases last <;> cases c <;> decide

theorem State.ChoosesOther.egressChoice (h : s.ChoosesOther) : s.egressChoice = s.chooseOther.getD s := by
  have noMedia : s.chooseMedia = none := by
    have notFound : (programsAfter s.lastProgram).find? (fun p => decide (s.programs[p].egress.queue ≠ [])) = none :=
      List.find?_eq_none.mpr fun p _ => by simpa using h.media p
    unfold State.chooseMedia
    rw [notFound]
  unfold State.egressChoice
  rw [if_pos ⟨h.idle, h.ready, h.phase⟩, noMedia]

/-- The first class after the last one served that has a frame is served. -/
theorem State.ChoosesOther.serves (h : s.ChoosesOther) {c : EgressClass} {f : Sending} {t : State}
    (head : s.takeHead c = some (f, t))
    (skipped : ∀ d ∈ s.lastClass.after.takeWhile (fun d => decide (d ≠ c)), s.ClassEmpty d) :
    exec .egressChoice s = .next { t with lastClass := c, sending := some f } := by
  have chosen : s.chooseOther = some { t with lastClass := c, sending := some f } :=
    findSome?_of_takeWhile (EgressClass.mem_after s.lastClass c) (by rw [head]; rfl)
      fun d before => by rw [State.takeHead_none (skipped d before)]; rfl
  show Host.Outcome.next s.egressChoice = _
  rw [h.egressChoice, chosen]
  rfl

theorem State.ChoosesOther.serves_none (h : s.ChoosesOther) (empty : ∀ c, s.ClassEmpty c) :
    exec .egressChoice s = .next s := by
  have nothing : s.chooseOther = none :=
    List.findSome?_eq_none_iff.mpr fun c _ => by rw [State.takeHead_none (empty c)]; rfl
  show Host.Outcome.next s.egressChoice = _
  rw [h.egressChoice, nothing]
  rfl

/-- A link in use or withdrawn, and a reset that is due, leave nothing to choose. -/
theorem State.egressChoice_withheld (withheld : s.sending ≠ none ∨ s.ready = false ∨ s.resetPhase = .due) :
    exec .egressChoice s = .next s := by
  refine congrArg Host.Outcome.next (if_neg ?_ : s.egressChoice = s)
  rintro ⟨idle, ready, phase⟩
  rcases withheld with busy | withdrawn | due
  · exact busy idle
  · exact Bool.false_ne_true (withdrawn.symm.trans ready)
  · exact phase due

end

/-- Settles O39: the search over the classes in their order, with the head that each class would send. -/
theorem egressChoiceServesClasses : Obligations.EgressChoiceServesClasses := by
  refine ⟨fun s => ⟨fun idle ready phase media => ?_, State.egressChoice_withheld⟩, Frames.reportAndNoticeBytes⟩
  have h : s.ChoosesOther := ⟨idle, ready, phase, media⟩
  refine ⟨fun r rest queue skipped => ?_, fun r rest queue skipped => ?_, fun n rest queue skipped => ?_,
    fun f rest queue skipped => ?_, fun replies reports notices passThrough => ?_⟩
  · exact h.serves (c := .replies) (by rw [State.takeHead, queue]) skipped
  · exact h.serves (c := .reports) (by rw [State.takeHead, queue]) skipped
  · exact h.serves (c := .notices) (by rw [State.takeHead, queue]) skipped
  · exact h.serves (c := .passThrough) (by rw [State.takeHead, queue]) skipped
  · refine h.serves_none fun c => ?_
    cases c with
    | replies => exact replies
    | reports => exact reports
    | notices => exact notices
    | passThrough => exact passThrough

end Sys2Proof.Machine
end

section
/-! The ready line and the end of a frame (R161, R166, R179). -/

namespace Sys2Proof.Machine

section
variable {s : State}

/-- A frame ends while ready is held; that of a RESET PART's reply makes the reset due. -/
theorem State.frameEnd_sending {f : Sending} (sending : s.sending = some f) (ready : s.ready = true) :
    s.frameEnd = { s with sending := none, resetPhase := if f.resetsPart = true then .due else s.resetPhase } := by
  rw [State.frameEnd, sending]
  exact if_pos ready

theorem State.frameEnd_withheld (withheld : s.sending = none ∨ s.ready = false) : s.frameEnd = s := by
  unfold State.frameEnd
  split
  · next f sending =>
    rcases withheld with idle | withdrawn
    · rw [sending] at idle
      cases idle
    · exact if_neg (by rw [withdrawn]; nofun)
  · rfl

end

/-- Settles O40: the ready line is set in one field, and the frame in sending decides what its end does. -/
theorem linkEvents : Obligations.LinkEvents := fun _ =>
  ⟨rfl, rfl, fun _ sending ready => congrArg Host.Outcome.next (State.frameEnd_sending sending ready),
    fun withheld => congrArg Host.Outcome.next (State.frameEnd_withheld withheld)⟩

end Sys2Proof.Machine
end

section
/-! The arbiter's media choice: the programs in round robin from the one after the last served (R161, R162). -/

namespace Sys2Proof.Machine

section
variable {s : State} {k : Fin 16}

/-- The first program of the round robin that has a packet queued is found. -/
theorem State.mediaProgram_eq (queued : s.programs[s.lastProgram + 1 + k].egress.queue ≠ [])
    (before : ∀ j : Fin 16, j < k → s.programs[s.lastProgram + 1 + j].egress.queue = []) :
    (programsAfter s.lastProgram).find? (fun p => decide (s.programs[p].egress.queue ≠ [])) =
      some (s.lastProgram + 1 + k) := by
  have found : (List.finRange 16).find?
      ((fun p => decide (s.programs[p].egress.queue ≠ [])) ∘ fun j => s.lastProgram + 1 + j) = some k :=
    find?_finRange (decide_eq_true queued) fun j earlier => decide_eq_false (not_not.mpr (before j earlier))
  rw [programsAfter, List.find?_map, found]
  rfl

/-- Its oldest frame leaves the queue for the link. -/
theorem State.chooseMedia_eq {frame : List Byte} {rest : List (List Byte)}
    (queued : s.programs[s.lastProgram + 1 + k].egress.queue = frame :: rest)
    (before : ∀ j : Fin 16, j < k → s.programs[s.lastProgram + 1 + j].egress.queue = []) :
    let p := s.lastProgram + 1 + k
    s.chooseMedia = some { s.putProgram p
        { s.programs[p] with egress := { s.programs[p].egress with queue := rest } } with
      lastProgram := p, sending := some ⟨frame, false⟩ } := by
  dsimp only
  unfold State.chooseMedia
  rw [State.mediaProgram_eq (by rw [queued]; nofun) before]
  dsimp only
  rw [State.modifyProgram_eq, Program.withEgress, queued]
  rfl

end

/-- Settles O38: the search through the round robin gives the program, and its queue the frame. -/
theorem egressChoiceServesMedia : Obligations.EgressChoiceServesMedia := by
  intro s k frame rest
  dsimp only
  intro idle ready phase queued before
  show Host.Outcome.next s.egressChoice = _
  rw [State.egressChoice, if_pos ⟨idle, ready, phase⟩, State.chooseMedia_eq queued before]

end Sys2Proof.Machine
end

section
/-! A packet that completes, and the bytes of its media frame in both carriers (R158 to R160, R166, R180 to R182). -/

namespace Sys2Proof.Frames

open Sys2Proof.Machine hiding rawBytes

theorem udpFrame_withHeader (c : Settings) (mac : BitVec 48) (ip : BitVec 32) (sourcePort destinationPort : BitVec 16)
    (kind : Nat) (key : BitVec 16) (content : List Byte) :
    udpFrame c mac ip sourcePort destinationPort (withHeader kind key content) =
      udpBytes c mac ip sourcePort destinationPort (BitVec.ofNat 8 kind) key content := by
  simp only [udpFrame, padded, withHeader, sourceMac, ipv4Header, udpBytes]

/-- The media frame of a program in the carrier of its Egress Table entry. -/
theorem mediaFrame_bytes (c : Settings) (e : EgressEntry) (members : Nat) (x : ProgramEgress) :
    let content := natToBytes 2 x.sequence.toNat ++ [1#8] ++ natToBytes 1 members ++ [2#8] ++ natToBytes 1 e.packetSize
      ++ natToBytes 4 x.stamp.toNat ++ x.progress.flatten.flatMap fun y => natToBytes 3 y.toNat ++ [0#8]
    mediaFrame c e members x = match e.carrier with
      | .raw => rawBytes c e.mac 1 e.key content
      | .udp => udpBytes c e.mac e.ipv4 e.port e.port 1 e.key content := by
  unfold mediaFrame
  cases e.carrier with
  | raw => exact rawFrame_withHeader c e.mac 1 e.key _
  | udp => exact udpFrame_withHeader c e.mac e.ipv4 e.port e.port 1 e.key _

end Sys2Proof.Frames

namespace Sys2Proof.Machine

section
variable {s : State} {p : Fin 16}

/-- A packet that does not end STOPPING joins the packet queue, and nothing else happens. -/
theorem State.packetComplete_packed (gathered : s.programs[p].egress.progress ≠ [])
    (ends : s.programs[p].content.toNat % s.egressTable[p].packetSize = 0)
    (goesOn : s.programs[p].state ≠ .stopping ∨ s.programs[p].corr.stop < 480) :
    s.packetComplete p = s.putProgram p ((s.programs[p].queueMedia (mediaFrame s.settings s.egressTable[p]
      (s.activeEntry p).members.length s.programs[p].egress)).withEgress
        fun x => { x with progress := [], sequence := x.sequence + 1 }) := by
  have still : ¬ (s.programs[p].state = .stopping ∧ Config.rampSamples ≤ s.programs[p].corr.stop) := fun ⟨stopping, ramp⟩ =>
    goesOn.elim (· stopping) fun short => Nat.not_lt.mpr ramp short
  unfold State.packetComplete
  rw [if_pos ((State.packetEnds_iff p s).mpr ⟨gathered, ends⟩)]
  dsimp only
  rw [if_neg still, State.modifyProgram_eq]

theorem State.packetComplete_undue (undue : s.programs[p].egress.progress = [] ∨
    s.programs[p].content.toNat % s.egressTable[p].packetSize ≠ 0) : s.packetComplete p = s := by
  refine if_neg fun due => ?_
  obtain ⟨gathered, ends⟩ := (State.packetEnds_iff p s).mp due
  exact undue.elim gathered (· ends)

end

/-- Settles O36: the packet is queued by `Program.packed_eq`; its frame is `Frames.mediaFrame_bytes`. -/
theorem packetCompletes : Obligations.PacketCompletes := by
  intro s p
  have completed : exec (.packetComplete p.val) s = .next (s.packetComplete p) :=
    congrArg Host.Outcome.next (atIndex_fin p State.packetComplete s)
  refine ⟨fun gathered ends goesOn => ?_, fun undue => ?_, Frames.mediaFrame_bytes ..⟩
  · rw [completed, State.packetComplete_packed gathered ends goesOn, Program.packed_eq]
  · rw [completed, State.packetComplete_undue undue]

end Sys2Proof.Machine
end

section
/-! The writes of the SETTINGS record and of an EGRESS, a LATENCY and a TRIGGER entry (R120, R137, R138, R157, R175, R176). -/

namespace Sys2Proof.Machine

/-! ### SETTINGS (R170, R175, R176) -/

theorem Order.names_settings {o : Order} (table : o.table = 0) (index : o.index = 0) : o.Names .settings .a 0 :=
  ⟨by rw [table]; rfl, index, Nat.zero_lt_one, nofun, fun _ => rfl⟩

/-- A unit number or a stale timeout out of its range leaves no record to store (R176). -/
theorem readSettings_eq_none {bs : List Byte} (outside : fieldAt bs 0 1 = 255 ∨ fieldAt bs 15 1 = 0 ∨ 60 < fieldAt bs 15 1) :
    readSettings bs = none := by
  refine Option.eq_none_iff_forall_ne_some.mpr fun c read => ?_
  unfold readSettings at read
  obtain ⟨unit, unitRead, read⟩ := Option.bind_eq_some_iff.mp read
  obtain ⟨_, -, read⟩ := Option.bind_eq_some_iff.mp read
  obtain ⟨_, -, read⟩ := Option.bind_eq_some_iff.mp read
  obtain ⟨_, -, read⟩ := Option.bind_eq_some_iff.mp read
  obtain ⟨_, -, read⟩ := Option.bind_eq_some_iff.mp read
  obtain ⟨timeout, timeoutRead, -⟩ := Option.bind_eq_some_iff.mp read
  have unitBounds := rangeAt_bounds unitRead
  have timeoutBounds := rangeAt_bounds timeoutRead
  rw [rangeAt_eq_some unitRead] at unitBounds
  rw [rangeAt_eq_some timeoutRead] at timeoutBounds
  omega

section
variable {s : State} {before after : List Order} {o : Order}

/-- A WRITE ENTRY whose contents are too short, or give no entry, is refused with RANGE (R172, R175). -/
theorem State.OrderReady.writeEntry_range {table : Table} {which : Bank} {i : Nat} (ready : s.OrderReady before o after 3)
    (names : o.Names table which i) (writable : table.writable = true)
    (fails : o.contents.length < table.writeLength ∨ Machine.readEntry table o.contents = none) :
    exec .writeEntry s = .next (s.answered before o after o.table .range [] (some ⟨true, table, which, i + 1⟩)) := by
  have refused : s.withoutTaken.tryWrite table which i o.contents = (.range, s.withoutTaken) := by
    unfold State.tryWrite
    split
    · rfl
    · next long => rw [fails.resolve_left long]
  show Host.Outcome.next (State.take 3 State.writeEntryOrder s) = _
  rw [ready.take (by omega), State.writeEntryOrder, names.place writable]
  dsimp only
  rw [refused, ready.reply]

end

/-! ### An EGRESS entry (R125, R157) -/

theorem egressWritesAct : EgressWritesAct := by
  intro s before after o p e c cursor h
  have index : Fin.ofNat 16 p.val = p := Fin.ofNat_val_eq_self p
  have write : exec c s = .next ((s.writeEgress p e).2.answered before o after 3 (s.writeEgress p e).1 [] cursor) := by
    rw [h.exec_eq, State.writeEntry, index]
    rfl
  rw [write, State.writeEgress]
  refine ⟨fun processing => ?_, fun still => ?_⟩
  · rw [if_pos processing]
  · rw [if_neg (by rw [still]; nofun)]

/-! ### A LATENCY entry (R116, R120, R122) -/

/-- The entry that a write stores, item by item (log 24 for the age). -/
theorem LatencyEntry.written_eq (w : LatencyWrite) (x : LatencyEntry) :
    let value := if w.valid = true then w.latency else none
    x.written w =
      { valid := w.valid, reporter := w.reporter, latency := value, origin := .set, lock := w.lock, ignore := w.ignore
        state := if value = none then .absent else .fresh
        age := if w.valid = true ∧ value = none then x.age else 0
        changed := x.changed || decide (value ≠ x.latency) } := by
  dsimp only
  unfold LatencyEntry.written
  generalize (if w.valid = true then w.latency else none) = value
  cases value <;> simp

theorem LatencyEntry.contribution_eq (x : LatencyEntry) :
    x.contribution = if x.valid = true ∧ x.ignore = false then x.latency.getD 0 else 0 := by
  simp [LatencyEntry.contribution]

/-- The programs that name an entry are computed again where its contribution changes, and the rest of the part stays. -/
theorem State.writeLatency_programs (i : Fin 64) (w : LatencyWrite) (s : State) :
    let stored := s.modifyLatency i (·.written w)
    s.writeLatency i w = { stored with programs := (s.writeLatency i w).programs } ∧
    ∀ p : Fin 16, (s.writeLatency i w).programs[p] =
      if i ∈ (s.activeEntry p).chain ∧ (s.latencies[i].written w).contribution ≠ s.latencies[i].contribution then
        (stored.recompute p).programs[p]
      else s.programs[p] := by
  dsimp only
  unfold State.writeLatency
  dsimp only
  rw [State.modifyLatency_self]
  by_cases same : (s.latencies[i].written w).contribution = s.latencies[i].contribution
  · rw [if_pos same]
    exact ⟨rfl, fun p => (if_neg fun changed => changed.2 same).symm⟩
  · rw [if_neg same]
    refine ⟨State.recomputeNaming_rest _ _, fun p => ?_⟩
    rw [State.recomputeNaming_programs]
    simp only [same, ne_eq, not_false_eq_true, and_true]
    rfl

theorem latencyWritesAct : LatencyWritesAct := by
  intro s before after o i w c cursor h
  dsimp only
  have index : Fin.ofNat 64 i.val = i := Fin.ofNat_val_eq_self i
  have write : exec c s = .next ((s.tryLatency i w).2.answered before o after 4 (s.tryLatency i w).1 [] cursor) := by
    rw [h.exec_eq, State.writeEntry, index]
    rfl
  rw [write, State.tryLatency]
  refine ⟨fun taken => ?_, fun free => ⟨s.writeLatency i w, ?_, ?_⟩⟩
  · rw [if_pos ((s.latencyConflict_iff i w).mpr taken)]
  · rw [if_neg fun conflict => free ((s.latencyConflict_iff i w).mp conflict)]
  · have written := State.writeLatency_programs i w s
    dsimp only at written
    rw [State.modifyLatency, LatencyEntry.contribution_eq, LatencyEntry.contribution_eq, LatencyEntry.written_eq] at written
    exact written

/-! ### A TRIGGER entry (R137, R138, R148) -/

theorem State.triggerRefused_iff (s : State) (i : Fin 48) (e : TriggerEntry) : s.triggerRefused i e = true ↔
    (e.level2 = true ∧ ∀ a : Fin 48, e.arming = some a → a = i ∨ s.triggers[a].entry.level2 = true) ∨
    (e.target = none ∧ (e.responses.mute = true ∨ e.responses.freezeGain = true ∨ e.responses.holdIntegration = true ∨
      e.responses.fallback = true)) := by
  unfold State.triggerRefused
  rw [Bool.or_eq_true, Bool.and_eq_true, Bool.and_eq_true, Option.isNone_iff_eq_none, and_comm (b := e.target = none)]
  refine or_congr (and_congr_right fun _ => ?_) (and_congr_right fun _ => ?_)
  · cases e.arming with
    | none => simp
    | some a => simp
  · simp only [Bool.or_eq_true, or_assoc]

/-- The part once the WITHDRAWN notice is offered, if the old entry of a written trigger has one to offer (R138). -/
def State.withdrawalNoted (i : Fin 48) (s : State) : State :=
  let old := s.triggers[i]
  if old.status.state.holds && old.entry.responses.notice then
    s.offerNotice (s.triggerNotice .withdrawn i old.entry old.status.lastMeasured)
  else s

/-- The part once a trigger entry is written and before the votes are counted: the notice is offered, and the dependents
have lost their arming (R138). -/
def State.triggerStored (i : Fin 48) (e : TriggerEntry) (s : State) : State :=
  { s.withdrawalNoted i with triggers := (s.triggers.set i ⟨e, .restarted e.enable⟩).map (Trigger.disarm i) }

section
variable (s : State) (i : Fin 48) (e : TriggerEntry)

theorem State.withdrawalNoted_rest : s.withdrawalNoted i = { s with
    notices := (s.withdrawalNoted i).notices, flags := (s.withdrawalNoted i).flags
    lostCount := (s.withdrawalNoted i).lostCount } := by
  unfold State.withdrawalNoted
  dsimp only
  split
  · exact State.offerNotice_rest _ s
  · rfl

/-- The fields of the WITHDRAWN notice, which are those of the old entry (R151). -/
theorem State.withdrawalNoted_eq :
    let old := s.triggers[i]
    s.withdrawalNoted i =
      if (decide (old.status.state = .active ∨ old.status.state = .clearing) && old.entry.responses.notice) = true then
        s.offerNotice ⟨.withdrawn, some i, if old.entry.level2 then 2 else 1, old.entry.condition, old.entry.object,
          old.entry.target, old.status.lastMeasured, old.entry.responses, s.house.count.setWidth 32⟩
      else s := by
  dsimp only
  rw [Bool.decide_or, ← TriggerState.holds_eq]
  rfl

theorem State.writeTrigger_eq : s.writeTrigger i e = (s.triggerStored i e).applyVotes := by
  have kept : (s.withdrawalNoted i).triggers = s.triggers := by rw [State.withdrawalNoted_rest]
  rw [State.triggerStored, ← kept]
  rfl

theorem State.triggerStored_rest : s.triggerStored i e = { s with
    triggers := (s.triggerStored i e).triggers, notices := (s.triggerStored i e).notices
    flags := (s.triggerStored i e).flags, lostCount := (s.triggerStored i e).lostCount } := by
  unfold State.triggerStored
  rw [State.withdrawalNoted_rest]

/-- The written trigger starts afresh; it holds no window that a disarming could end. -/
theorem State.triggerStored_self : (s.triggerStored i e).triggers[i] =
    ⟨e, ⟨if e.enable then .watching else .off, 0, false, 0, false, 0, false, 0, true⟩⟩ := by
  show ((s.triggers.set i ⟨e, .restarted e.enable⟩).map (Trigger.disarm i))[i] = _
  rw [Fin.getElem_fin, Vector.getElem_map, Vector.getElem_set_self, Trigger.disarm]
  split <;> rfl

theorem State.triggerStored_other {j : Fin 48} (other : j ≠ i) :
    let x := s.triggers[j]
    (s.triggerStored i e).triggers[j] = if x.entry.level2 = true ∧ x.entry.arming = some i then
      { x with status := { x.status with windowRemaining := 0 } } else x := by
  have apart : i.val ≠ j.val := fun same => other (Fin.ext same.symm)
  show ((s.triggers.set i ⟨e, .restarted e.enable⟩).map (Trigger.disarm i))[j] = _
  rw [Fin.getElem_fin, Vector.getElem_map, Vector.getElem_set_ne _ _ apart]
  rfl

end

/-- What a counting of the triggers makes of a program: its counts, fallback by them, and the rest by `voted`. -/
theorem State.applyVotes_program {s t : State} (p : Fin 16)
    (streams : ∀ i : Fin 32, t.streams[i].entry = s.streams[i].entry) (latencies : t.latencies = s.latencies)
    (egress : t.egressTable = s.egressTable) (entry : t.activeEntry p = s.activeEntry p)
    (count : t.house.count = s.house.count) :
    let count (response : Responses → Bool) := (List.finRange 48).countP (t.activeFor p response)
    let votes : Votes := ⟨count (·.mute), count (·.freezeGain), count (·.holdIntegration), count (·.fallback)⟩
    let g := t.applyVotes.programs[p]
    g.votes = votes ∧ g.state = t.programs[p].state ∧
    (g.fallbackInUse = true ↔ 0 < votes.fallback ∧ (s.activeEntry p).fallback ≠ none) ∧
    g = voted s p t.programs[p] votes := by
  intro number votes g
  have counted : t.votesOf p = votes := by simp only [State.votesOf, State.countVotes_eq, votes, number]
  obtain ⟨state, kept, fallback⟩ := State.syncFallback_stands p (t.modifyProgram p fun g => { g with votes := t.votesOf p })
  rw [← State.applyVotes_programs, State.modifyProgram_self] at state kept
  refine ⟨kept.trans counted, state, ?_, ?_⟩
  · rw [← State.applyVotes_programs] at fallback
    rw [fallback, State.wantsFallback_iff, State.modifyProgram_self, counted, State.modifyProgram_activeEntry, entry]
  · rw [← counted]
    exact State.applyVotes_voted p streams latencies egress entry count

theorem triggerWritesAct : TriggerWritesAct := by
  intro s before after o i e c cursor h
  dsimp only
  have index : Fin.ofNat 48 i.val = i := Fin.ofNat_val_eq_self i
  have write : exec c s = .next ((s.tryTrigger i e).2.answered before o after 5 (s.tryTrigger i e).1 [] cursor) := by
    rw [h.exec_eq, State.writeEntry, index]
    rfl
  have triggers : (s.triggerStored i e).applyVotes.triggers = (s.triggerStored i e).triggers := by rw [State.applyVotes_rest]
  rw [write, State.tryTrigger, State.writeTrigger_eq]
  refine ⟨fun refused => ?_, fun accepted => ⟨(s.triggerStored i e).applyVotes, ?_, ?_, ?_, fun j other => ?_, fun p => ?_⟩⟩
  · rw [if_pos ((s.triggerRefused_iff i e).mpr refused)]
  · rw [if_neg fun refused => accepted ((s.triggerRefused_iff i e).mp refused)]
  · rw [← State.withdrawalNoted_eq, triggers]
    exact State.applyVotes_rest _
  · rw [triggers]
    exact s.triggerStored_self i e
  · rw [triggers]
    exact s.triggerStored_other i e other
  · have rest := s.triggerStored_rest i e
    have programs : (s.triggerStored i e).programs = s.programs := by rw [rest]
    simp only [State.activeFor_congr triggers]
    rw [← programs]
    exact State.applyVotes_program p (fun _ => by rw [rest]) (by rw [rest]) (by rw [rest])
      (State.activeEntry_congr (by rw [rest]) (by rw [rest]) (by rw [rest]) p) (by rw [rest])

/-! ### The four tables -/

/-- Settles O46: SETTINGS by `State.Writes.exec_eq` and its refusal, each other table by its own block. -/
theorem settingsWritten : Obligations.SettingsWritten := by
  refine ⟨fun s before after o table index => ⟨fun ready => ⟨fun c long read => ?_, fun fails => ?_⟩, fun ready => ?_⟩,
    egressWritesAct, latencyWritesAct, triggerWritesAct, triggerLevelRead⟩
  · have write : s.Writes before o after .settings .a 0 (.settings c) .writeEntry (some ⟨true, .settings, .a, 1⟩) :=
      .entry ready (Order.names_settings table index) long (congrArg (Option.map NewEntry.settings) read)
    rw [write.exec_eq, table]
    rfl
  · exact ready.writeEntry_range (Order.names_settings table index) rfl
      (fails.imp_right fun outside => congrArg (Option.map NewEntry.settings) (readSettings_eq_none outside))
  · have write : s.Writes before o after .settings .a 0 (.settings (.powerOn s.straps)) .clearEntry none :=
      .clear ready (Order.names_settings table index) rfl
    rw [write.exec_eq, table]
    rfl

end Sys2Proof.Machine
end

section
/-! What a reading changes, table by table (Table 10-4: R11, R21, R79, R121, R154, R174, R178). -/

namespace Sys2Proof.Machine

section
variable (s : State)

theorem State.afterReading_latency (i : Fin 64) : s.afterReading .latency i.val =
    { s.modifyLatency i fun e => { e with changed := false } with
      freeCount := (s.afterReading .latency i.val).freeCount } := by
  rw [State.afterReading, State.readEffect, Fin.ofNat_val_eq_self]

theorem State.afterReading_streamStatus (i : Fin 32) :
    s.afterReading .streamStatus i.val = s.putContext i s.streams[i].ctx.afterReading := by
  rw [← s.modifyContext_eq i, State.afterReading, State.readEffect, Fin.ofNat_val_eq_self]
  rfl

theorem State.afterReading_triggerStatus (i : Fin 48) : s.afterReading .triggerStatus i.val =
    s.modifyTrigger i fun x => { x with status := { x.status with changed := false } } := by
  rw [State.afterReading, State.readEffect, Fin.ofNat_val_eq_self]
  rfl

theorem State.afterReading_programStatus (p : Fin 16) : s.afterReading .programStatus p.val =
    { s.putProgram p (s.programs[p].afterReading (s.activeEntry p).members.length) with
      freeCount := (s.afterReading .programStatus p.val).freeCount } := by
  rw [← s.modifyProgram_eq p (·.afterReading (s.activeEntry p).members.length), State.afterReading, State.readEffect,
    Fin.ofNat_val_eq_self]

theorem State.afterReading_program (p : Fin 16) : (s.afterReading .programStatus p.val).programs[p] =
    s.programs[p].afterReading (s.activeEntry p).members.length := by
  rw [State.afterReading_programStatus]
  exact s.putProgram_self p _

/-- A reading restarts the peaks of the members alone (R79). -/
theorem Program.afterReading_peak (members : Nat) (g : Program) (m : Fin 8) :
    (g.afterReading members).meter.peaks[m] = if m.val < members then 0 else g.meter.peaks[m] :=
  Vector.getElem_mapFinIdx _

end

/-- Settles O45: each table's reading by its own equation. -/
theorem readingEffects : Obligations.ReadingEffects := by
  intro s
  refine ⟨fun t silent i => ?_, fun i => ?_, s.afterReading_streamStatus, s.afterReading_triggerStatus, rfl, fun p => ?_⟩
  · simp only [List.mem_cons, List.not_mem_nil, or_false] at silent
    rcases silent with rfl | rfl | rfl | rfl | rfl | rfl | rfl <;> rfl
  · rw [s.afterReading_latency i]
    rfl
  · dsimp only
    rw [s.afterReading_program p, s.afterReading_programStatus p]
    exact ⟨rfl, rfl, rfl, Program.afterReading_peak _ _, rfl, rfl⟩

end Sys2Proof.Machine
end

section
/-! The bytes of a reply, and of the entries that it shows (R163, R170, R183, R184). -/

namespace Sys2Proof.Frames

open Sys2Proof.Machine hiding rawBytes

/-! ### Flags, codes and marked values in bytes (Tables 11-4, 11-5 and 11-7) -/

theorem flagByte_eq (b : Bool) : flagByte b = bitByte b := by cases b <;> rfl

theorem markedLoudness_eq (v : Option Int) : markedLoudness v = loudnessOrMark v := by
  cases v with
  | none => rw [markedLoudness, loudnessOrMark, intToBytes_eq]; rfl
  | some v => rw [markedLoudness, loudnessOrMark, intToBytes_eq]; rfl

theorem markedMicros_eq (free : BitVec 32) (v : Option Nat) : markedMicros free v = microsOrMark free v := by
  cases v <;> rfl

theorem codeByte_statusCodes (x : Status) : codeByte statusCodes x = natToBytes 1 (statusNumber x) := by
  cases x <;> rfl

theorem codeByte_contextCodes (x : ContextState) : codeByte contextCodes x = natToBytes 1 (contextNumber x) := by
  cases x <;> rfl

theorem codeByte_programCodes (x : ProgramState) : codeByte programCodes x = natToBytes 1 (programNumber x) := by
  cases x <;> rfl

theorem codeByte_dipCodes (x : DipState) : codeByte dipCodes x = natToBytes 1 (dipNumber x) := by cases x <;> rfl

theorem codeByte_moveCodes (x : MoveState) : codeByte moveCodes x = natToBytes 1 (moveNumber x) := by cases x <;> rfl

theorem codeByte_triggerCodes (x : TriggerState) : codeByte triggerCodes x = natToBytes 1 (triggerNumber x) := by
  cases x <;> rfl

theorem codeByte_presenceCodes (x : Presence) : codeByte presenceCodes x = natToBytes 1 (presenceNumber x) := by
  cases x <;> rfl

theorem codeByte_bankCodes (x : Bank) : codeByte bankCodes x = [if x = .a then 0 else 1] := by cases x <;> rfl

theorem codeByte_formatCodes (x : SampleFormat) : codeByte formatCodes x = [if x = .s16 then 0 else 1] := by
  cases x <;> rfl

theorem codeByte_filterCodes (x : FilterLength) : codeByte filterCodes x = [if x = .normal then 0 else 1] := by
  cases x <;> rfl

theorem codeByte_concealmentCodes (x : Concealment) : codeByte concealmentCodes x = [if x = .zero then 0 else 1] := by
  cases x <;> rfl

theorem codeByte_modeCodes (x : LoudnessMode) : codeByte modeCodes x = [if x = .measure then 0 else 1] := by
  cases x <;> rfl

theorem codeByte_moveModeCodes (x : MoveMode) : codeByte moveModeCodes x = [if x = .dip then 0 else 1] := by
  cases x <;> rfl

theorem codeByte_carrierCodes (x : Carrier) : codeByte carrierCodes x = [if x = .raw then 0 else 1] := by
  cases x <;> rfl

theorem codeByte_originCodes (x : Origin) : codeByte originCodes x = [if x = .captured then 0 else 1] := by
  cases x <;> rfl

/-! ### The reply frame (R163, R170, R181, R183) -/

theorem replyBytes : ReplyBytes := by
  intro c o table status held data
  unfold replyFrame
  rw [natToBytes_byte, codeByte_statusCodes]
  dsimp only
  cases o.path.carrier with
  | raw => exact rawFrame_withHeader c o.path.sourceMac 3 c.managementKey _
  | udp =>
    exact udpFrame_withHeader c o.path.sourceMac o.path.sourceIp o.path.destinationPort o.path.sourcePort 3 c.managementKey _

/-! ### The configuration entries (Tables 11-6 and 11-7) -/

theorem settingsBytes_eq (s : State) : settingsBytes s = settingsOf s := by
  simp only [settingsBytes, settingsOf, flagByte_eq, natToBytes_byte, codeByte_bankCodes]

theorem streamBytes_eq (e : StreamEntry) : streamBytes e = streamOf e := by
  have latency := congrArg Int.toNat e.latency_eq
  rw [Int.toNat_natCast, apply_ite Int.toNat, Int.toNat_zero] at latency
  simp only [streamBytes, streamOf, flagByte_eq, codeByte_formatCodes, codeByte_filterCodes, codeByte_concealmentCodes, latency]
  cases e.rate <;> rfl

theorem codeByte_roleCodes (x : Role) : codeByte roleCodes x = [match x with
    | .front => 0
    | .surround => 1
    | .lfe => 2] := by cases x <;> rfl

theorem inPlaces_eq (n : Nat) (bs : List Byte) : inPlaces n bs = placesOf n bs := rfl

theorem programBytes_eq (e : ProgramEntry) : programBytes e = programOf e := by
  have present : e.fallback.isSome = decide (e.fallback ≠ none) := by cases e.fallback <;> rfl
  have slots : e.fallback.getD [] = match e.fallback with
      | some slots => slots
      | none => [] := by cases e.fallback <;> rfl
  unfold programBytes programOf
  simp only [flagByte_eq, intToBytes_eq, inPlaces_eq, codeByte_modeCodes, codeByte_moveModeCodes, codeByte_roleCodes, present,
    slots] <;> rfl

theorem egressBytes_eq (e : EgressEntry) : egressBytes e = egressOf e := by
  rw [egressBytes, egressOf, codeByte_carrierCodes]

theorem triggerBytes_eq (e : TriggerEntry) : triggerBytes e = triggerOf e := by
  have level : natToBytes 1 (if e.level2 = true then 2 else 1) = [if e.level2 = true then 2 else 1] := by
    cases e.level2 <;> rfl
  simp only [triggerBytes, triggerOf, flagByte_eq, intToBytes_eq, indexOrNone_eq, responsesByte_eq, codeByte_conditionCodes,
    level]

theorem latencyBytes_eq (free : BitVec 32) (e : LatencyEntry) : latencyBytes free e = latencyOf free e := by
  simp only [latencyBytes, latencyOf, flagByte_eq, markedMicros_eq, codeByte_originCodes, wideCount, min_comm e.age]
  cases e.state <;> rfl

/-! ### The status entries (R21, R41, R59, R80, R100, R115, R135, R154, R155, R167, R178) -/

theorem streamStatusBytes_eq (c : Context) : streamStatusBytes c = streamStatusOf c := by
  simp only [streamStatusBytes, streamStatusOf, flagByte_eq, codeByte_contextCodes, intToBytes_eq]

theorem triggerStatusBytes_eq (x : TriggerStatus) : triggerStatusBytes x = triggerStatusOf x := by
  simp only [triggerStatusBytes, triggerStatusOf, flagByte_eq, codeByte_triggerCodes, intToBytes_eq]

theorem peaksBytes_eq (peaks : Vector Nat 8) (n : Nat) :
    ((peaks.toList.zipIdx).flatMap fun x => natToBytes 4 (if x.2 < n then x.1 else 0)) =
      (List.finRange 8).flatMap fun k => natToBytes 4 (if k.val < n then peaks[k] else 0) := by
  rw [zipIdx_toList, List.flatMap_map]

theorem muteInForce_eq (e : ProgramEntry) (v : Votes) :
    muteInForce e v = decide (0 < v.mute ∨ (0 < v.fallback ∧ e.fallback = none)) :=
  Bool.eq_iff_iff.mpr ((muteInForce_iff e v).trans decide_eq_true_iff.symm)

theorem atLimit_eq (e : ProgramEntry) (gain : Int) :
    atLimit e gain = decide (e.mode = .track ∧ (gain = -e.maxCut ∨ gain = e.maxBoost)) := by
  rw [atLimit, Bool.decide_and, Bool.decide_or]

theorem capacity_eq (d : DelayLine) : d.capacity = d.blocks * 1024 - 1 := rfl

theorem programStatusBytes_eq (s : State) (p : Fin 16) : s.programStatusBytes p = programStatusOf s p := by
  unfold State.programStatusBytes programStatusOf programControlBytes meterBytes correctionBytes lipSyncBytes
  dsimp only
  rw [peaksBytes_eq]
  simp only [flagByte_eq, intToBytes_eq, markedLoudness_eq, markedMicros_eq, muteInForce_eq, atLimit_eq, capacity_eq,
    codeByte_programCodes, codeByte_dipCodes, codeByte_moveCodes, List.append_assoc]

/-- Counting the triggers as a list or by their indices. -/
theorem countP_triggers (s : State) (f : Trigger → Bool) :
    s.triggers.toList.countP f = (List.finRange 48).countP fun i => f s.triggers[i] := by
  have listed : s.triggers.toList = (List.finRange 48).map fun i => s.triggers[i] := by
    apply List.ext_getElem <;> simp
  rw [listed, List.countP_map]
  rfl

theorem countP_holds (s : State) : (s.triggers.toList.countP fun t => t.status.state.holds) =
    (List.finRange 48).countP fun i =>
      decide (s.triggers[i].status.state = .active ∨ s.triggers[i].status.state = .clearing) := by
  rw [countP_triggers]
  congr 1
  funext i
  rw [TriggerState.holds_eq, Bool.decide_or]

theorem partStatusBytes_eq (s : State) : s.partStatusBytes = partStatusOf s := by
  have progress : s.inProgress = s.orders.countP (·.inProgress) := List.countP_eq_length_filter.symm
  unfold State.partStatusBytes partStatusOf
  simp only [flagByte_eq, codeByte_presenceCodes, codeByte_bankCodes, progress]
  rw [countP_holds, countP_triggers]

end Sys2Proof.Frames
end

section
/-! Where a delay block stands, and the entries of POOL (R101, R114, Table 6-3). -/

namespace Sys2Proof.Machine

/-- Block `b` is the block `k` of the ring of member `m` of program `p`. -/
def State.HeldAt (s : State) (b : Nat) (p : Fin 16) (m k : Nat) : Prop :=
  ∃ ring, s.programs[p].delay.rings[m]? = some ring ∧ ring[k]? = some b

/-- An element stands at one place of lists that share no element and hold none twice. -/
theorem index_unique_of_nodup_flatten {l : List (List Nat)} (distinct : l.flatten.Nodup) {m m' k k' b : Nat}
    {r r' : List Nat} (hm : l[m]? = some r) (hk : r[k]? = some b) (hm' : l[m']? = some r') (hk' : r'[k']? = some b) :
    m = m' ∧ k = k' := by
  obtain ⟨each, apart⟩ := List.nodup_flatten.mp distinct
  obtain ⟨lt, rfl⟩ := List.getElem?_eq_some_iff.mp hm
  obtain ⟨lt', rfl⟩ := List.getElem?_eq_some_iff.mp hm'
  have same : m = m' := by
    by_contra other
    have disjoint := List.pairwise_iff_getElem.mp apart
    rcases Nat.lt_or_gt_of_ne other with less | more
    · exact disjoint m m' lt lt' less (List.mem_of_getElem? hk) (List.mem_of_getElem? hk')
    · exact disjoint m' m lt' lt more (List.mem_of_getElem? hk') (List.mem_of_getElem? hk)
  subst same
  obtain ⟨short, -⟩ := List.getElem?_eq_some_iff.mp hk
  exact ⟨rfl, (List.getElem?_inj short (each _ (List.getElem_mem lt))).mp (hk.trans hk'.symm)⟩

section
variable {s : State} {b : Nat}

theorem State.HeldAt.mem_rings {p : Fin 16} {m k : Nat} (h : s.HeldAt b p m k) :
    b ∈ s.programs[p].delay.rings.flatten := by
  obtain ⟨ring, atMember, atBlock⟩ := h
  exact List.mem_flatten.mpr ⟨ring, List.mem_of_getElem? atMember, List.mem_of_getElem? atBlock⟩

/-- With each block at one place, a block that a ring holds stands nowhere else (R101). -/
theorem State.PoolPartitioned.unique (h : s.PoolPartitioned) {p p' : Fin 16} {m m' k k' : Nat} (here : s.HeldAt b p m k)
    (there : s.HeldAt b p' m' k') : p = p' ∧ m = m' ∧ k = k' := by
  have distinct : s.blocksHeld.Nodup := h.nodup_iff.mpr List.nodup_range
  rw [State.blocksHeld_eq] at distinct
  obtain ⟨each, apart⟩ := List.nodup_flatMap.mp distinct.of_append_right
  have same : p = p' := by
    by_contra other
    have : Std.Symm fun p p' : Fin 16 => (s.programs[p].delay.rings.flatten).Disjoint s.programs[p'].delay.rings.flatten :=
      ⟨fun _ _ disjoint => disjoint.symm⟩
    exact apart.forall (List.mem_finRange p) (List.mem_finRange p') other here.mem_rings there.mem_rings
  subst same
  obtain ⟨ring, atMember, atBlock⟩ := here
  obtain ⟨ring', atMember', atBlock'⟩ := there
  exact ⟨rfl, index_unique_of_nodup_flatten (each p (List.mem_finRange p)) atMember atBlock atMember' atBlock'⟩

/-- A block on the free list stands in no ring (R101). -/
theorem State.PoolPartitioned.not_heldAt (h : s.PoolPartitioned) (free : b ∈ s.freeList) (p : Fin 16) (m k : Nat) :
    ¬ s.HeldAt b p m k := fun held => by
  have distinct : s.blocksHeld.Nodup := h.nodup_iff.mpr List.nodup_range
  rw [State.blocksHeld_eq] at distinct
  exact List.disjoint_of_nodup_append distinct free (List.mem_flatMap.mpr ⟨p, List.mem_finRange p, held.mem_rings⟩)

/-- What the search for a block finds is a place that holds it. -/
theorem State.holder_sound {x : Nat × Nat × Nat} (found : s.holder b = some x) :
    ∃ p : Fin 16, x.1 = p.val ∧ s.HeldAt b p x.2.1 x.2.2 := by
  unfold State.holder at found
  rw [zipIdx_toList, List.findSome?_map] at found
  obtain ⟨p, -, found⟩ := List.exists_of_findSome?_eq_some found
  obtain ⟨r, listed, found⟩ := List.exists_of_findSome?_eq_some found
  obtain ⟨k, atBlock, rfl⟩ := Option.map_eq_some_iff.mp found
  obtain ⟨lt, atBlock, -⟩ := List.idxOf?_eq_some_iff.mp atBlock
  exact ⟨p, rfl, r.1, List.mem_zipIdx_iff_getElem?.mp listed, List.getElem?_eq_some_iff.mpr ⟨lt, atBlock⟩⟩

/-- The search finds a block that a ring holds. -/
theorem State.HeldAt.holder_ne_none {p : Fin 16} {m k : Nat} (h : s.HeldAt b p m k) : s.holder b ≠ none := by
  obtain ⟨ring, atMember, atBlock⟩ := h
  intro missed
  unfold State.holder at missed
  rw [zipIdx_toList, List.findSome?_map, List.findSome?_eq_none_iff] at missed
  have missed := List.findSome?_eq_none_iff.mp (missed p (List.mem_finRange p)) (ring, m)
    (List.mem_zipIdx_iff_getElem?.mpr atMember)
  exact List.idxOf?_eq_none_iff.mp (Option.map_eq_none_iff.mp missed) (List.mem_of_getElem? atBlock)

theorem State.PoolPartitioned.holder_free (h : s.PoolPartitioned) (free : b ∈ s.freeList) : s.holder b = none := by
  refine Option.eq_none_iff_forall_ne_some.mpr fun x found => ?_
  obtain ⟨p, -, held⟩ := State.holder_sound found
  exact h.not_heldAt free p _ _ held

theorem State.PoolPartitioned.holder_held (h : s.PoolPartitioned) {p : Fin 16} {m k : Nat} (held : s.HeldAt b p m k) :
    s.holder b = some (p.val, m, k) := by
  obtain ⟨⟨_, m', k'⟩, found⟩ := Option.ne_none_iff_exists'.mp held.holder_ne_none
  obtain ⟨p', rfl, there⟩ := State.holder_sound found
  obtain ⟨rfl, rfl, rfl⟩ := h.unique held there
  exact found

/-- The place of a block on the free list. -/
theorem State.PoolPartitioned.idxOf_free (h : s.PoolPartitioned) {k : Nat} (place : s.freeList[k]? = some b) :
    s.freeList.idxOf? b = some k := by
  have distinct : s.freeList.Nodup := List.Nodup.of_append_left (h.nodup_iff.mpr List.nodup_range)
  obtain ⟨lt, rfl⟩ := List.getElem?_eq_some_iff.mp place
  rw [List.idxOf?_eq_some_iff]
  refine ⟨lt, rfl, fun j less same => ?_⟩
  exact absurd (distinct.getElem_inj_iff.mp same) (Nat.ne_of_lt less)

theorem State.entryBytes_poolBlock (s : State) (which : Bank) (b : Nat) :
    s.entryBytes .pool which (17 + b) = s.poolBlock b := by
  show s.poolBytes (17 + b) = _
  rw [State.poolBytes, if_neg (by omega), if_neg (by omega), Nat.add_sub_cancel_left]

theorem State.entryBytes_poolProgram (s : State) (which : Bank) (p : Fin 16) :
    s.entryBytes .pool which (1 + p.val) = poolProgram s.programs[p].delay := by
  have index : Fin.ofNat 16 (1 + p.val - 1) = p := by rw [Nat.add_sub_cancel_left, Fin.ofNat_val_eq_self]
  show s.poolBytes (1 + p.val) = _
  rw [State.poolBytes, if_neg (by omega), if_pos (by omega)]
  exact congrArg (fun q : Fin 16 => poolProgram s.programs[q].delay) index

theorem blockBytes_eq (x : Option Nat) : blockBytes x = natToBytes 2 (x.getD 0xFFFF) := by cases x <;> rfl

/-- The entry of a FREE block (R114; log 35). -/
theorem State.PoolPartitioned.freeBlock_shown (h : s.PoolPartitioned) {k : Nat} (place : s.freeList[k]? = some b) :
    s.poolBlock b = [0#8] ++ natToBytes 2 k ++ [255#8, 255#8, 255#8] := by
  rw [State.poolBlock, h.holder_free (List.mem_of_getElem? place)]
  dsimp only
  rw [h.idxOf_free place, List.append_assoc, List.append_assoc]
  rfl

/-- The entry of a HELD block (R114; log 35). -/
theorem State.PoolPartitioned.heldBlock_shown (h : s.PoolPartitioned) {p : Fin 16} {m k : Nat} (held : s.HeldAt b p m k) :
    s.poolBlock b = [1#8, 0xFF#8, 0xFF#8] ++ natToBytes 1 p.val ++ natToBytes 1 m ++ natToBytes 1 k := by
  rw [State.poolBlock, h.holder_held held]
  rfl

end

end Sys2Proof.Machine
end

section
/-! READ ENTRY and READ NEXT, and what a reading of each table shows (R172 to R174, R184). -/

namespace Sys2Proof.Machine

/-! ### What a reading shows (R81, R114, R174, R184) -/

theorem State.entryBytes_histogram (s : State) (which : Bank) (p : Fin 16) (b : Fin 750) :
    s.entryBytes .histogram which (p.val * 750 + b.val) = natToBytes 4 s.programs[p].meter.histogram[b] := by
  have program : Fin.ofNat 16 ((p.val * 750 + b.val) / 750) = p := Fin.ext (by simp only [Fin.val_ofNat]; omega)
  have bin : Fin.ofNat 750 ((p.val * 750 + b.val) % 750) = b := Fin.ext (by simp only [Fin.val_ofNat]; omega)
  show s.histogramBytes (p.val * 750 + b.val) = _
  rw [State.histogramBytes]
  simp only [program, bin]

theorem entriesShown : EntriesShown := by
  intro s which
  refine ⟨rfl, Frames.settingsBytes_eq s, Frames.streamBytes_eq, Frames.programBytes_eq, Frames.egressBytes_eq,
    Frames.triggerBytes_eq, Frames.latencyBytes_eq, fun i => ⟨?_, ?_⟩, fun p => ⟨?_, ?_, ?_⟩, fun i => ?_,
    fun i => ⟨?_, ?_⟩, Frames.partStatusBytes_eq s, s.entryBytes_histogram which, ?_, s.entryBytes_poolProgram which,
    fun pool b => ⟨fun k place => ?_, fun p ring m k atMember atBlock => ?_⟩⟩
  · simp only [State.entryBytes, Fin.ofNat_val_eq_self]
  · simp only [State.entryBytes, Fin.ofNat_val_eq_self, Frames.streamStatusBytes_eq]
  · simp only [State.entryBytes, Fin.ofNat_val_eq_self]
  · simp only [State.entryBytes, Fin.ofNat_val_eq_self]
  · simp only [State.entryBytes, Fin.ofNat_val_eq_self, Frames.programStatusBytes_eq]
  · simp only [State.entryBytes, Fin.ofNat_val_eq_self]
  · simp only [State.entryBytes, Fin.ofNat_val_eq_self]
  · simp only [State.entryBytes, Fin.ofNat_val_eq_self, Frames.triggerStatusBytes_eq]
  · rw [← blockBytes_eq, ← blockBytes_eq]
    rfl
  · rw [State.entryBytes_poolBlock, pool.freeBlock_shown place]
  · rw [State.entryBytes_poolBlock, pool.heldBlock_shown ⟨ring, atMember, atBlock⟩]

/-! ### The tests of R172 -/

section
variable {o : Order} {table : Table} {writing : Bool}

theorem Order.tableOf_known (named : tableCodes[o.table.toNat]? = some table)
    (allowed : writing = true → table.writable = true) : o.tableOf writing = some table := by
  unfold Order.tableOf
  rw [named]
  cases writing with
  | false => rfl
  | true => simp [allowed rfl]

theorem Order.bankOf_program (o : Order) : o.bankOf .program = bankCodes[o.bank.toNat]? := if_pos rfl

theorem Order.bankOf_other (o : Order) (other : table ≠ .program) : o.bankOf table = some .a := if_neg other

theorem Order.place_illegal (refused : o.tableOf writing = none) : o.place writing = .error .illegal := by
  unfold Order.place
  rw [refused]

/-- An order that reads passes steps 1 and 2 of R172 where it names an entry. -/
theorem Order.Names.place_reading {which : Bank} {i : Nat} (h : o.Names table which i) :
    o.place false = .ok (table, which, i) := by
  obtain ⟨named, index, lt, program, other⟩ := h
  have bank : o.bankOf table = some which := by
    by_cases isProgram : table = .program
    · rw [isProgram, Order.bankOf_program, program isProgram]
    · rw [Order.bankOf_other o isProgram, other isProgram]
  unfold Order.place
  rw [Order.tableOf_known (writing := false) named nofun]
  dsimp only
  rw [bank]
  dsimp only
  rw [index, if_pos lt]

/-- An index or a bank outside the table is RANGE (R172). -/
theorem Order.place_range (named : tableCodes[o.table.toNat]? = some table)
    (allowed : writing = true → table.writable = true)
    (outside : table.size ≤ o.index ∨ (table = .program ∧ bankCodes[o.bank.toNat]? = none)) :
    o.place writing = .error .range := by
  unfold Order.place
  rw [Order.tableOf_known named allowed]
  dsimp only
  split
  · rfl
  · next which bank =>
    refine if_neg (Nat.not_lt.mpr (outside.resolve_right ?_))
    rintro ⟨rfl, noBank⟩
    rw [Order.bankOf_program, noBank] at bank
    cases bank

end

/-! ### The two orders (R172 to R174) -/

section
variable {s : State} {before after : List Order} {o : Order}

/-- The reply in a part whose queue holds the other orders. -/
theorem State.reply_eq_answered {t : State} (queue : t.orders = before ++ after) (id : Byte) (status : Status)
    (data : List Byte) (cursor : Option Cursor) :
    t.reply o id status data cursor = t.answered before o after id status data cursor := by
  simp only [State.reply, State.answer, State.answered, queue, List.length_append]

/-- A reading answered: the entry as it stands without the order, and then the effects. -/
theorem State.OrderReady.reads {kind : Nat} (ready : s.OrderReady before o after kind) (table : Table) (which : Bank)
    (i : Nat) (id : Byte) (cursor : Option Cursor) :
    let left : State := { s with orders := before ++ after }
    (s.withoutTaken.afterReading table i).reply o id .done (s.withoutTaken.entryBytes table which i) cursor =
      (left.afterReading table i).answered before o after id .done (left.entryBytes table which i) cursor := by
  intro left
  rw [ready.withoutTaken]
  exact State.reply_eq_answered (left.sameQueues_afterReading table i).orders ..

theorem State.OrderReady.exec_readEntry (ready : s.OrderReady before o after 1) :
    exec .readEntry s = .next (s.readEntry o) :=
  congrArg Host.Outcome.next (ready.take (by decide) State.readEntry)

theorem State.OrderReady.exec_readNext (ready : s.OrderReady before o after 2) :
    exec .readNext s = .next (s.readNext o) :=
  congrArg Host.Outcome.next (ready.take (by decide) State.readNext)

theorem State.OrderReady.readEntry_of_names (ready : s.OrderReady before o after 1) {table : Table} {which : Bank}
    {i : Nat} (names : o.Names table which i) :
    let left : State := { s with orders := before ++ after }
    exec .readEntry s = .next ((left.afterReading table i).answered before o after o.table .done
      (left.entryBytes table which i) (some ⟨false, table, which, i + 1⟩)) := by
  intro left
  rw [ready.exec_readEntry, State.readEntry, names.place_reading]
  exact congrArg Host.Outcome.next (ready.reads table which i _ _)

theorem State.OrderReady.readEntry_refused (ready : s.OrderReady before o after 1) {status : Status}
    (refused : o.place false = .error status) :
    exec .readEntry s = .next (s.answered before o after o.table status [] none) := by
  rw [ready.exec_readEntry, State.readEntry, refused]
  exact congrArg Host.Outcome.next (ready.reply _ _ _ _)

theorem State.OrderReady.readNext_of_cursor (ready : s.OrderReady before o after 2) {table : Table} {which : Bank}
    {i : Nat} (cursor : s.cursor = some ⟨false, table, which, i⟩) (inside : i < table.size) :
    let left : State := { s with orders := before ++ after }
    exec .readNext s = .next ((left.afterReading table i).answered before o after
      (BitVec.ofNat 8 (tableCodes.idxOf table)) .done (left.entryBytes table which i)
      (some ⟨false, table, which, i + 1⟩)) := by
  intro left
  rw [ready.exec_readNext, State.readNext, cursor]
  dsimp only
  rw [if_pos inside]
  exact congrArg Host.Outcome.next (ready.reads table which i _ _)

theorem State.OrderReady.readNext_past (ready : s.OrderReady before o after 2) {table : Table} {which : Bank} {i : Nat}
    (cursor : s.cursor = some ⟨false, table, which, i⟩) (past : table.size ≤ i) :
    exec .readNext s =
      .next (s.answered before o after (BitVec.ofNat 8 (tableCodes.idxOf table)) .range [] none) := by
  rw [ready.exec_readNext, State.readNext, cursor]
  dsimp only
  rw [if_neg (Nat.not_lt.mpr past), ready.reply]

theorem State.OrderReady.readNext_sequence (ready : s.OrderReady before o after 2)
    (unset : s.cursor = none ∨ ∃ c, s.cursor = some c ∧ c.write = true) :
    exec .readNext s = .next (s.answered before o after o.table .sequence [] none) := by
  rw [ready.exec_readNext, State.readNext]
  rcases unset with unset | ⟨⟨write, table, which, i⟩, cursor, rfl⟩
  · rw [unset]
    exact congrArg Host.Outcome.next (ready.reply _ _ _ _)
  · rw [cursor]
    exact congrArg Host.Outcome.next (ready.reply _ _ _ _)

end

/-- Settles O44: the two orders by the tests that they pass, and the bytes table by table. -/
theorem readOrdersResult : Obligations.ReadOrdersResult := by
  refine ⟨fun s before after o ready => ⟨fun table which named inside program other => ?_, fun unknown => ?_,
      fun table named outside => ?_⟩,
    fun s before after o ready => ⟨fun table which i cursor => ⟨ready.readNext_of_cursor cursor, ready.readNext_past cursor⟩,
      ready.readNext_sequence⟩, entriesShown, Frames.replyBytes⟩
  · exact ready.readEntry_of_names ⟨named, rfl, inside, program, other⟩
  · refine ready.readEntry_refused (Order.place_illegal ?_)
    unfold Order.tableOf
    rw [unknown]
  · exact ready.readEntry_refused (Order.place_range named nofun outside)

end Sys2Proof.Machine
end

section
/-! The contents of a write in which a field lies outside its codes or its range give no entry (Tables 1-3, 3-1, 7-1, 8-1,
9-1 and 10-5; R184). -/

namespace Sys2Proof.Machine

/-! ### A field that is read lies in its range -/

section
variable {bs : List Byte} {off : Nat}

theorem flagAt_eq_some {b : Bool} (read : flagAt bs off = some b) : fieldAt bs off 1 = b.toNat := by
  unfold flagAt at read
  split at read <;> cases read <;> assumption

theorem flagAt_le {b : Bool} (read : flagAt bs off = some b) : fieldAt bs off 1 ≤ 1 :=
  flagAt_eq_some read ▸ b.toNat_le

theorem codeAt_lt {α : Type} {codes : List α} {x : α} (read : codeAt codes bs off = some x) :
    fieldAt bs off 1 < codes.length :=
  (List.getElem?_eq_some_iff.mp read).1

theorem rangeAt_field {len lo hi v : Nat} (read : rangeAt bs off len lo hi = some v) :
    lo ≤ fieldAt bs off len ∧ fieldAt bs off len ≤ hi := by
  rw [← rangeAt_eq_some read]
  exact rangeAt_bounds read

theorem signedRangeAt_eq_some {lo hi v : Int} (read : signedRangeAt bs off lo hi = some v) : v = signedAt bs off := by
  unfold signedRangeAt at read
  dsimp only at read
  split at read <;> cases read
  rfl

theorem signedRangeAt_field {lo hi v : Int} (read : signedRangeAt bs off lo hi = some v) :
    lo ≤ signedAt bs off ∧ signedAt bs off ≤ hi := by
  rw [← signedRangeAt_eq_some read]
  exact signedRangeAt_bounds read

theorem indexAt_eq_some {n : Nat} {i : Fin n} (read : indexAt n bs off = some i) : i.val = fieldAt bs off 1 := by
  unfold indexAt at read
  dsimp only at read
  split at read <;> cases read
  rfl

theorem indexAt_lt {n : Nat} {i : Fin n} (read : indexAt n bs off = some i) : fieldAt bs off 1 < n :=
  indexAt_eq_some read ▸ i.isLt

theorem indexOrNoneAt_lt {n : Nat} {i : Option (Fin n)} (read : indexOrNoneAt n bs off = some i) :
    fieldAt bs off 1 < n ∨ fieldAt bs off 1 = 255 := by
  have field := indexOrNoneAt_eq_some read
  cases i with
  | none => exact .inr field.symm
  | some i => exact .inl (field ▸ i.isLt)

theorem responsesAt_le {r : Responses} (read : responsesAt bs off = some r) : fieldAt bs off 1 ≤ 31 := by
  obtain ⟨_, range, -⟩ := Option.map_eq_some_iff.mp read
  exact (rangeAt_field range).2

end

/-- Reading every place of a list gives the item of each place. -/
theorem mapM_range_items {α : Type} {n : Nat} {read : Nat → Option α} {l : List α}
    (h : (List.range n).mapM read = some l) : l.length = n ∧ ∀ m < n, read m = l[m]? := by
  induction n generalizing read l with
  | zero =>
    cases h
    exact ⟨rfl, nofun⟩
  | succ n ih =>
    rw [List.range_succ_eq_map, List.mapM_cons, List.mapM_map] at h
    obtain ⟨x, first, h⟩ := Option.bind_eq_some_iff.mp h
    obtain ⟨rest, others, h⟩ := Option.bind_eq_some_iff.mp h
    cases h
    obtain ⟨length, items⟩ := ih others
    refine ⟨congrArg Nat.succ length, fun m lt => ?_⟩
    cases m with
    | zero => exact first
    | succ m => exact items m (Nat.lt_of_succ_lt_succ lt)

theorem membersFrom_fields {bs : List Byte} {off count : Nat} {l : List Member} (read : membersFrom bs off count = some l) :
    l.length = count ∧ ∀ m < count, fieldAt bs (off + 2 * m) 1 < 128 ∧ fieldAt bs (off + 1 + 2 * m) 1 < 3 := by
  obtain ⟨length, items⟩ := mapM_range_items read
  refine ⟨length, fun m lt => ?_⟩
  have item := items m lt
  rw [List.getElem?_eq_getElem (length.symm ▸ lt)] at item
  obtain ⟨slot, slotRead, item⟩ := Option.bind_eq_some_iff.mp item
  obtain ⟨role, roleRead, -⟩ := Option.bind_eq_some_iff.mp item
  exact ⟨indexAt_lt slotRead, codeAt_lt roleRead⟩

theorem indicesFrom_fields {n : Nat} {bs : List Byte} {off count : Nat} {l : List (Fin n)}
    (read : indicesFrom n bs off count = some l) :
    l.length = count ∧ ∀ m (lt : m < l.length), l[m].val = fieldAt bs (off + m) 1 := by
  obtain ⟨length, items⟩ := mapM_range_items read
  refine ⟨length, fun m lt => indexAt_eq_some ?_⟩
  rw [items m (length ▸ lt), List.getElem?_eq_getElem lt]

/-! ### The entries of fixed places -/

section
variable {bs : List Byte}

theorem readSettings_fields {c : Settings} (read : readSettings bs = some c) : ¬ OutOfRange .settings bs := by
  unfold readSettings at read
  simp only [Option.bind_eq_bind, Option.bind_eq_some_iff] at read
  obtain ⟨_, unit, _, foreignPass, _, otherPass, _, latencyPass, _, learn, _, timeout, -⟩ := read
  have unit := rangeAt_field unit
  have timeout := rangeAt_field timeout
  have flags : ∀ off ∈ [11, 12, 13, 14], fieldAt bs off 1 ≤ 1 := by
    simp only [List.forall_mem_cons]
    exact ⟨flagAt_le foreignPass, flagAt_le otherPass, flagAt_le latencyPass, flagAt_le learn, nofun⟩
  have noFlag : ¬ ∃ off ∈ [11, 12, 13, 14], 1 < fieldAt bs off 1 := fun ⟨off, listed, outside⟩ =>
    Nat.not_lt.mpr (flags off listed) outside
  simp only [OutOfRange, noFlag, false_or]
  omega

theorem readStream_fields {e : StreamEntry} (read : readStream bs = some e) : ¬ OutOfRange .stream bs := by
  unfold readStream at read
  simp only [Option.bind_eq_bind, Option.bind_eq_some_iff] at read
  obtain ⟨_, valid, _, rate, _, lanes, _, first, _, format, _, target, _, filter, _, concealment, _, gap, _, limit, _, gp, _, gi,
    -⟩ := read
  have valid := flagAt_le valid
  have rate : _ < 4 := codeAt_lt rate
  have lanes := rangeAt_field lanes
  have first := rangeAt_field first
  have format : _ < 2 := codeAt_lt format
  have target := rangeAt_field target
  have filter : _ < 2 := codeAt_lt filter
  have concealment : _ < 2 := codeAt_lt concealment
  have gap := rangeAt_field gap
  have limit := rangeAt_field limit
  have gp := rangeAt_field gp
  have gi := rangeAt_field gi
  simp only [OutOfRange]
  omega

theorem readEgress_fields {e : EgressEntry} (read : readEgress bs = some e) : ¬ OutOfRange .egress bs := by
  unfold readEgress at read
  obtain ⟨_, carrier, read⟩ := Option.bind_eq_some_iff.mp read
  have carrier : _ < 2 := codeAt_lt carrier
  dsimp only at read
  split at read
  · next size =>
    have sized : ¬ fieldAt bs 15 1 ∉ [6, 12, 24, 48] := not_not_intro size
    simp only [OutOfRange, sized, or_false]
    omega
  · cases read

theorem readLatency_fields {w : LatencyWrite} (read : readLatency bs = some w) : ¬ OutOfRange .latency bs := by
  unfold readLatency at read
  obtain ⟨_, valid, read⟩ := Option.bind_eq_some_iff.mp read
  obtain ⟨noValue, mark, read⟩ := Option.bind_eq_some_iff.mp read
  extract_lets rest at read
  obtain ⟨latency, number, read⟩ : ∃ latency,
      ¬ (fieldAt bs 5 1 = 0 ∧ 1000000 < fieldAt bs 6 4) ∧ rest latency = some w := by
    have marked := flagAt_eq_some mark
    split at read
    · next absent =>
      rw [absent, Bool.toNat_true] at marked
      exact ⟨none, by omega, read⟩
    · obtain ⟨latency, value, read⟩ := Option.bind_eq_some_iff.mp read
      obtain ⟨_, value, -⟩ := Option.map_eq_some_iff.mp value
      have bounds : _ ∧ _ ≤ 1000000 := rangeAt_field value
      exact ⟨latency, by omega, read⟩
  obtain ⟨_, lock, read⟩ := Option.bind_eq_some_iff.mp read
  obtain ⟨_, ignore, -⟩ := Option.bind_eq_some_iff.mp read
  have valid := flagAt_le valid
  have mark := flagAt_le mark
  have lock := flagAt_le lock
  have ignore := flagAt_le ignore
  simp only [OutOfRange, number, false_or]
  omega

theorem readTrigger_fields {e : TriggerEntry} (read : readTrigger bs = some e) : ¬ OutOfRange .trigger bs := by
  unfold readTrigger at read
  simp only [Option.bind_eq_bind, Option.bind_eq_some_iff] at read
  obtain ⟨_, enable, _, level, _, arming, _, window, condition, kind, _, object, _, fireCount, _, clearCount, _, latch,
    _, responses, _, target, -⟩ := read
  have enable := flagAt_le enable
  have level := rangeAt_field level
  have arming := indexOrNoneAt_lt arming
  have window := rangeAt_field window
  have known : _ < 17 := codeAt_lt kind
  have object := rangeAt_field object
  have objects : 0 < condition.objects := by cases condition <;> decide
  have fireCount := rangeAt_field fireCount
  have clearCount := rangeAt_field clearCount
  have latch := flagAt_le latch
  have responses := responsesAt_le responses
  have target := indexOrNoneAt_lt target
  have named : ¬ ∃ x, conditionCodes[fieldAt bs 5 1]? = some x ∧ x.objects ≤ fieldAt bs 6 1 := by
    rintro ⟨x, code, beyond⟩
    obtain rfl : condition = x := Option.some.inj (kind.symm.trans code)
    omega
  simp only [OutOfRange, named, false_or]
  omega

/-! ### PROGRAM (R44) -/

/-- A PROGRAM entry that is read has each of its fields in the bytes, and no chain index twice (R44). -/
theorem readProgram_standsIn {e : ProgramEntry} (read : readProgram bs = some e) : e.StandsIn bs ∧ e.chain.Nodup := by
  unfold readProgram at read
  obtain ⟨valid, validRead, read⟩ := Option.bind_eq_some_iff.mp read
  obtain ⟨count, countRead, read⟩ := Option.bind_eq_some_iff.mp read
  obtain ⟨members, membersRead, read⟩ := Option.bind_eq_some_iff.mp read
  obtain ⟨present, presentRead, read⟩ := Option.bind_eq_some_iff.mp read
  extract_lets rest at read
  obtain ⟨fallback, isPresent, fallbackRead, read⟩ : ∃ fallback, present = fallback.isSome ∧
      (∀ l, fallback = some l → indicesFrom 128 bs 19 count = some l) ∧ rest fallback = some e := by
    split at read
    · next on =>
      obtain ⟨fallback, listRead, read⟩ := Option.bind_eq_some_iff.mp read
      obtain ⟨l, slots, rfl⟩ := Option.map_eq_some_iff.mp listRead
      exact ⟨some l, on, fun _ same => slots.trans same, read⟩
    · next off => exact ⟨none, Bool.eq_false_of_not_eq_true off, nofun, read⟩
  obtain ⟨mode, modeRead, read⟩ := Option.bind_eq_some_iff.mp read
  obtain ⟨target, targetRead, read⟩ := Option.bind_eq_some_iff.mp read
  obtain ⟨maxBoost, maxBoostRead, read⟩ := Option.bind_eq_some_iff.mp read
  obtain ⟨maxCut, maxCutRead, read⟩ := Option.bind_eq_some_iff.mp read
  obtain ⟨slew, slewRead, read⟩ := Option.bind_eq_some_iff.mp read
  obtain ⟨freeze, freezeRead, read⟩ := Option.bind_eq_some_iff.mp read
  obtain ⟨window, windowRead, read⟩ := Option.bind_eq_some_iff.mp read
  obtain ⟨preset, presetRead, read⟩ := Option.bind_eq_some_iff.mp read
  obtain ⟨quiet, quietRead, read⟩ := Option.bind_eq_some_iff.mp read
  obtain ⟨chainLength, chainLengthRead, read⟩ := Option.bind_eq_some_iff.mp read
  obtain ⟨chain, chainRead, read⟩ := Option.bind_eq_some_iff.mp read
  obtain ⟨offset, offsetRead, read⟩ := Option.bind_eq_some_iff.mp read
  obtain ⟨trim, trimRead, read⟩ := Option.bind_eq_some_iff.mp read
  obtain ⟨tolerance, toleranceRead, read⟩ := Option.bind_eq_some_iff.mp read
  obtain ⟨moveMode, moveModeRead, read⟩ := Option.bind_eq_some_iff.mp read
  obtain ⟨quietWait, quietWaitRead, made⟩ := Option.bind_eq_some_iff.mp read
  obtain rfl := (membersFrom_fields membersRead).1
  obtain rfl := (indicesFrom_fields chainRead).1
  subst isPresent
  split at made
  · next distinct =>
    cases made
    exact ⟨⟨validRead, countRead, membersRead, presentRead, fallbackRead, modeRead, targetRead, maxBoostRead, maxCutRead,
      slewRead, freezeRead, windowRead, presetRead, quietRead, chainLengthRead, chainRead, offsetRead, trimRead, toleranceRead,
      moveModeRead, quietWaitRead⟩, distinct⟩
  · cases made

theorem ProgramEntry.StandsIn.fields {e : ProgramEntry} (h : e.StandsIn bs) (distinct : e.chain.Nodup) :
    ¬ OutOfRange .program bs := by
  have count := rangeAt_eq_some h.count
  have chainCount := rangeAt_eq_some h.chainLength
  have boost := signedRangeAt_eq_some h.maxBoost
  have cut := signedRangeAt_eq_some h.maxCut
  have members : ¬ ∃ m < fieldAt bs 1 1, 127 < fieldAt bs (2 + 2 * m) 1 ∨ 2 < fieldAt bs (3 + 2 * m) 1 := by
    rintro ⟨m, lt, outside⟩
    obtain ⟨slot, role⟩ := (membersFrom_fields h.members).2 m (count ▸ lt)
    have role : fieldAt bs (3 + 2 * m) 1 < 3 := role
    omega
  have fallback : ¬ (fieldAt bs 18 1 = 1 ∧ ∃ m < fieldAt bs 1 1, 127 < fieldAt bs (19 + m) 1) := by
    rintro ⟨present, m, lt, outside⟩
    have marked := flagAt_eq_some h.fallbackPresent
    cases listed : e.fallback with
    | none =>
      rw [listed, present] at marked
      cases marked
    | some l =>
      obtain ⟨length, items⟩ := indicesFrom_fields (h.fallback l listed)
      have inside := items m (by omega)
      omega
  have chain : ¬ ∃ k < fieldAt bs 54 1, 63 < fieldAt bs (55 + k) 1 ∨
      ∃ j < k, fieldAt bs (55 + j) 1 = fieldAt bs (55 + k) 1 := by
    obtain ⟨-, items⟩ := indicesFrom_fields h.chain
    rintro ⟨k, lt, outside | ⟨j, less, same⟩⟩
    · have inside := items k (by omega)
      omega
    · rw [← items j (by omega), ← items k (by omega)] at same
      exact absurd ((distinct.getElem_inj_iff).mp (Fin.ext same)) (Nat.ne_of_lt less)
  have valid := flagAt_le h.valid
  have count := rangeAt_field h.count
  have present := flagAt_le h.fallbackPresent
  have mode : _ < 2 := codeAt_lt h.mode
  have target := signedRangeAt_field h.target
  have maxBoost := signedRangeAt_field h.maxBoost
  have maxCut := signedRangeAt_field h.maxCut
  have slew := rangeAt_field h.slew
  have freeze := signedRangeAt_field h.freezeThreshold
  have window := rangeAt_field h.window
  have preset := signedRangeAt_field h.preset
  have quiet := signedRangeAt_field h.quietThreshold
  have chainLength := rangeAt_field h.chainLength
  have offset := signedRangeAt_field h.offset
  have trim := signedRangeAt_field h.trim
  have tolerance := rangeAt_field h.tolerance
  have moveMode : _ < 2 := codeAt_lt h.moveMode
  have quietWait := rangeAt_field h.quietWait
  simp only [OutOfRange, members, fallback, chain, false_or]
  omega

/-- Contents with a field out of its range give no entry. -/
theorem readEntry_eq_none {table : Table} (outside : OutOfRange table bs) : Machine.readEntry table bs = none := by
  refine Option.eq_none_iff_forall_ne_some.mpr fun n read => ?_
  cases table
  case settings =>
    obtain ⟨_, read, -⟩ := Option.map_eq_some_iff.mp read
    exact readSettings_fields read outside
  case stream =>
    obtain ⟨_, read, -⟩ := Option.map_eq_some_iff.mp read
    exact readStream_fields read outside
  case program =>
    obtain ⟨_, read, -⟩ := Option.map_eq_some_iff.mp read
    obtain ⟨stands, distinct⟩ := readProgram_standsIn read
    exact stands.fields distinct outside
  case egress =>
    obtain ⟨_, read, -⟩ := Option.map_eq_some_iff.mp read
    exact readEgress_fields read outside
  case latency =>
    obtain ⟨_, read, -⟩ := Option.map_eq_some_iff.mp read
    exact readLatency_fields read outside
  case trigger =>
    obtain ⟨_, read, -⟩ := Option.map_eq_some_iff.mp read
    exact readTrigger_fields read outside
  all_goals exact outside

end

end Sys2Proof.Machine
end

section
/-! Writing orders that are refused: the blocks change nothing, and the tests of R172 in their order (R170, R172, R173,
R175). -/

namespace Sys2Proof.Machine

/-! ### A block that refuses a write (R8, R46, R120, R138, R157, R175) -/

/-- A test that refuses whole, before a write that is stored. -/
theorem unchanged_of_refused {c : Prop} [Decidable c] {status : Status} {s t : State}
    (refused : (if c then (status, s) else (.done, t)).1 ≠ .done) : (if c then (status, s) else (.done, t)).2 = s := by
  split
  · rfl
  · next passes =>
    rw [if_neg passes] at refused
    exact absurd rfl refused

theorem State.writeEntry_refused {s : State} {which : Bank} {i : Nat} {n : NewEntry}
    (refused : (s.writeEntry which i n).1 ≠ .done) : (s.writeEntry which i n).2 = s := by
  cases n with
  | settings c => exact absurd rfl refused
  | stream e => exact unchanged_of_refused refused
  | program e =>
    unfold State.writeEntry State.writeProgram at refused ⊢
    dsimp only at refused ⊢
    split
    · next active =>
      rw [if_pos active] at refused
      exact unchanged_of_refused refused
    · next inactive =>
      rw [if_neg inactive] at refused
      exact absurd rfl refused
  | egress e => exact unchanged_of_refused refused
  | latency w => exact unchanged_of_refused refused
  | trigger e => exact unchanged_of_refused refused

theorem State.tryWrite_refused {s : State} {table : Table} {which : Bank} {i : Nat} {contents : List Byte}
    (refused : (s.tryWrite table which i contents).1 ≠ .done) : (s.tryWrite table which i contents).2 = s := by
  unfold State.tryWrite at refused ⊢
  split
  · rfl
  · next long =>
    rw [if_neg long] at refused
    split
    · next n read =>
      rw [read] at refused
      exact State.writeEntry_refused refused
    · rfl

theorem clearAct_data (o : Order) (s : State) : (clearAct o s).2.1 = [] := by
  unfold clearAct
  split
  · rfl
  · split <;> rfl

theorem clearAct_refused {o : Order} {s : State} (refused : (clearAct o s).1 ≠ .done) : (clearAct o s).2.2 = s := by
  unfold clearAct at refused ⊢
  split
  · rfl
  · next place =>
    rw [place] at refused
    dsimp only at refused
    split
    · next cleared =>
      rw [cleared] at refused
      exact State.writeEntry_refused refused
    · rfl

/-! ### The reply to a writing order (R170, R175) -/

/-- `u` is `s` once a writing order has been answered: where the status is not DONE, nothing but the queues and the cursor
has changed (R170, R175). -/
def State.WriteAnswered (s : State) (before : List Order) (o : Order) (after : List Order) (u : State) : Prop :=
  ∃ (table : Byte) (status : Status) (cursor : Option Cursor),
    u.replyQueue = s.replyQueue ++ [⟨replyFrame u.settings o table status (before.length + after.length) [], false⟩] ∧
    u.orders = before ++ after ∧ u.cursor = cursor ∧
    (status ≠ .done → u = s.answered before o after table status [] cursor)

section
variable {s : State} {before after : List Order} {o : Order} {kind : Nat}

/-- The answer to an order from what its block left of the part. -/
theorem State.OrderReady.writeAnswered (ready : s.OrderReady before o after kind) {t : State} {status : Status}
    (queues : s.withoutTaken.SameQueues t) (refused : status ≠ .done → t = s.withoutTaken) (table : Byte)
    (cursor : Option Cursor) : s.WriteAnswered before o after (t.reply o table status [] cursor) := by
  have orders : t.orders = before ++ after := by rw [queues.orders, ready.withoutTaken]
  have replies : t.replyQueue = s.replyQueue := queues.replies
  rw [State.reply_eq_answered orders]
  refine ⟨table, status, cursor, ?_, rfl, rfl, fun fails => ?_⟩
  · rw [← replies]
    rfl
  · rw [refused fails, ready.withoutTaken]
    rfl

theorem State.OrderReady.exec_writeEntry (ready : s.OrderReady before o after 3) :
    exec .writeEntry s = .next (s.writeEntryOrder o) :=
  congrArg Host.Outcome.next (ready.take (by decide) State.writeEntryOrder)

theorem State.OrderReady.exec_writeNext (ready : s.OrderReady before o after 4) :
    exec .writeNext s = .next (s.writeNext o) :=
  congrArg Host.Outcome.next (ready.take (by decide) State.writeNext)

theorem State.OrderReady.exec_clearEntry (ready : s.OrderReady before o after 5) :
    exec .clearEntry s = .next (State.immediate clearAct o s) :=
  congrArg Host.Outcome.next (ready.take (by decide) (State.immediate clearAct))

theorem State.OrderReady.writeEntryOrder_answered (ready : s.OrderReady before o after kind) :
    s.WriteAnswered before o after (s.writeEntryOrder o) := by
  unfold State.writeEntryOrder
  dsimp only
  split
  · exact ready.writeAnswered (.refl _) (fun _ => rfl) _ _
  · exact ready.writeAnswered (State.apart_tryWrite _ _ _ _ _).1 State.tryWrite_refused _ _

theorem State.OrderReady.writeNext_answered (ready : s.OrderReady before o after kind) :
    s.WriteAnswered before o after (s.writeNext o) := by
  unfold State.writeNext
  dsimp only
  split
  · split
    · exact ready.writeAnswered (State.apart_tryWrite _ _ _ _ _).1 State.tryWrite_refused _ _
    · exact ready.writeAnswered (.refl _) (fun _ => rfl) _ _
  · exact ready.writeAnswered (.refl _) (fun _ => rfl) _ _

theorem State.OrderReady.clearEntry_answered (ready : s.OrderReady before o after kind) :
    s.WriteAnswered before o after (State.immediate clearAct o s) := by
  unfold State.immediate
  dsimp only
  rw [clearAct_data]
  exact ready.writeAnswered (apart_clearAct o _).1 clearAct_refused _ _

/-! ### The tests of R172 in their order -/

/-- The tables that orders write stand first in Table 11-4. -/
theorem Table.writable_iff {table : Table} {code : Nat} (named : tableCodes[code]? = some table) :
    table.writable = true ↔ code < 6 := by
  have codes : ∀ n : Fin 12, tableCodes[n].writable = true ↔ n.val < 6 := by decide
  obtain ⟨lt, rfl⟩ := List.getElem?_eq_some_iff.mp named
  exact codes ⟨code, lt⟩

theorem Order.tableOf_unwritten (beyond : 6 ≤ o.table.toNat) : o.tableOf true = none := by
  unfold Order.tableOf
  split
  · next table named =>
    have reading : table.writable = false :=
      Bool.eq_false_of_not_eq_true fun writable => Nat.not_lt.mpr beyond ((Table.writable_iff named).mp writable)
    rw [reading]
    rfl
  · rfl

/-- A WRITE ENTRY or CLEAR ENTRY that steps 1 and 2 of R172 refuse. -/
theorem State.OrderReady.place_refused {c : Instr} {status : Status}
    (ready : (s.OrderReady before o after 3 ∧ c = .writeEntry) ∨ (s.OrderReady before o after 5 ∧ c = .clearEntry))
    (refused : o.place true = .error status) : exec c s = .next (s.answered before o after o.table status [] none) := by
  rcases ready with ⟨ready, rfl⟩ | ⟨ready, rfl⟩
  · rw [ready.exec_writeEntry, State.writeEntryOrder, refused]
    exact congrArg Host.Outcome.next (ready.reply _ _ _ _)
  · rw [ready.exec_clearEntry, State.immediate, clearAct, refused]
    exact congrArg Host.Outcome.next (ready.reply _ _ _ _)

/-- A WRITE NEXT whose contents are too short, or give no entry, is refused with RANGE (R172, R173). -/
theorem State.OrderReady.writeNext_range (ready : s.OrderReady before o after 4) {table : Table} {which : Bank} {i : Nat}
    (cursor : s.cursor = some ⟨true, table, which, i⟩) (inside : i < table.size)
    (fails : o.contents.length < table.writeLength ∨ Machine.readEntry table o.contents = none) :
    exec .writeNext s = .next (s.answered before o after (BitVec.ofNat 8 (tableCodes.idxOf table)) .range []
      (some ⟨true, table, which, i + 1⟩)) := by
  have refused : s.withoutTaken.tryWrite table which i o.contents = (.range, s.withoutTaken) := by
    unfold State.tryWrite
    split
    · rfl
    · next long => rw [fails.resolve_left long]
  rw [ready.exec_writeNext, State.writeNext, cursor]
  dsimp only
  rw [if_pos inside, refused, ready.reply]

theorem State.OrderReady.writeNext_past (ready : s.OrderReady before o after 4) {table : Table} {which : Bank} {i : Nat}
    (cursor : s.cursor = some ⟨true, table, which, i⟩) (past : table.size ≤ i) :
    exec .writeNext s =
      .next (s.answered before o after (BitVec.ofNat 8 (tableCodes.idxOf table)) .range [] none) := by
  rw [ready.exec_writeNext, State.writeNext, cursor]
  dsimp only
  rw [if_neg (Nat.not_lt.mpr past), ready.reply]

theorem State.OrderReady.writeNext_sequence (ready : s.OrderReady before o after 4)
    (unset : s.cursor = none ∨ ∃ x, s.cursor = some x ∧ x.write = false) :
    exec .writeNext s = .next (s.answered before o after o.table .sequence [] none) := by
  rw [ready.exec_writeNext, State.writeNext]
  rcases unset with unset | ⟨⟨write, table, which, i⟩, cursor, rfl⟩
  · rw [unset]
    exact congrArg Host.Outcome.next (ready.reply _ _ _ _)
  · rw [cursor]
    exact congrArg Host.Outcome.next (ready.reply _ _ _ _)

end

/-- The length of the contents of a write, by the code of the table (Table 11-6). -/
theorem Table.writeLength_eq (table : Table) :
    table.writeLength = [41, 18, 72, 20, 19, 18].getD (tableCodes.idxOf table) 0 := by
  cases table <;> rfl

theorem malformedWritesRefused : MalformedWritesRefused := by
  intro s before after o
  refine ⟨fun c ready => ⟨fun beyond => ?_, fun table named written outside => ?_⟩, fun table which i written => ?_,
    fun ready => ⟨fun table which i => ready.writeNext_past, ready.writeNext_sequence⟩⟩
  · exact State.OrderReady.place_refused ready (Order.place_illegal (Order.tableOf_unwritten beyond))
  · refine State.OrderReady.place_refused ready
      (Order.place_range named (fun _ => (Table.writable_iff named).mpr written)
      (outside.imp_right fun ⟨program, beyond⟩ => ⟨program, List.getElem?_eq_none beyond⟩))
  · dsimp only
    intro malformed
    rw [← table.writeLength_eq] at malformed
    have fails := malformed.imp_right readEntry_eq_none
    refine ⟨fun ready names => ?_, fun ready cursor inside => ready.writeNext_range cursor inside fails⟩
    have named := names.1
    have coded : tableCodes[tableCodes.idxOf table]? = some table := List.getElem?_idxOf (List.mem_of_getElem? named)
    rw [tableCode_of named]
    exact ready.writeEntry_range names ((Table.writable_iff coded).mpr written) fails

/-- Settles O48: each order by what its block leaves, and the tests that come before any block. -/
theorem refusedWriteChangesNothing : Obligations.RefusedWriteChangesNothing := by
  refine ⟨fun s before after o kind c order ready => ?_, malformedWritesRefused⟩
  have answered : ∃ u, exec c s = .next u ∧ s.WriteAnswered before o after u := by
    rcases order with ⟨rfl, rfl⟩ | ⟨rfl, rfl⟩ | ⟨rfl, rfl⟩
    · exact ⟨_, ready.exec_writeEntry, ready.writeEntryOrder_answered⟩
    · exact ⟨_, ready.exec_writeNext, ready.writeNext_answered⟩
    · exact ⟨_, ready.exec_clearEntry, ready.clearEntry_answered⟩
  obtain ⟨u, made, table, status, cursor, replied⟩ := answered
  exact ⟨u, table, status, cursor, made, replied⟩

end Sys2Proof.Machine
end

section
/-! The header checksum (R181). The ones' complement sum stands for the sum of the words modulo 65535, and is 0 for a header
of zero bytes alone; so a header that is not all zero and whose sum is a multiple of 65535 sums to all ones. -/

namespace Sys2Proof.Machine

theorem headerSum_pair (a b : Byte) (rest : List Byte) : headerSum (a :: b :: rest) =
    (a.toNat * 256 + b.toNat + headerSum rest) % 65536 + (a.toNat * 256 + b.toNat + headerSum rest) / 65536 := by
  rw [headerSum]

theorem headerSum_le (bs : List Byte) : headerSum bs ≤ 65535 := by
  induction bs using headerSum.induct with
  | case1 a b rest ih =>
    rw [headerSum_pair]
    omega
  | case2 a =>
    rw [headerSum]
    omega
  | case3 => exact Nat.zero_le _

/-- The carry added back is worth 65536, which is 1 modulo 65535. -/
theorem headerSum_pair_modEq (a b : Byte) (rest : List Byte) :
    headerSum (a :: b :: rest) ≡ a.toNat * 256 + b.toNat + headerSum rest [MOD 65535] := by
  rw [headerSum_pair, Nat.ModEq]
  omega

/-- No carry is lost: only zero bytes sum to 0. -/
theorem headerSum_eq_zero {bs : List Byte} (zero : headerSum bs = 0) : ∀ x ∈ bs, x = 0#8 := by
  have of_toNat {x : Byte} (h : x.toNat = 0) : x = 0#8 := BitVec.eq_of_toNat_eq h
  induction bs using headerSum.induct with
  | case1 a b rest ih =>
    rw [headerSum_pair] at zero
    exact List.forall_mem_cons.mpr ⟨of_toNat (by omega), List.forall_mem_cons.mpr ⟨of_toNat (by omega), ih (by omega)⟩⟩
  | case2 a =>
    rw [headerSum] at zero
    exact List.forall_mem_singleton.mpr (of_toNat (by omega))
  | case3 => exact List.forall_mem_nil _

/-- Whole words in front add their own sum. -/
theorem headerSum_append_modEq {front : List Byte} (words : 2 ∣ front.length) (back : List Byte) :
    headerSum (front ++ back) ≡ headerSum front + headerSum back [MOD 65535] := by
  induction front using headerSum.induct with
  | case1 a b rest ih =>
    have ih := ih ((Nat.dvd_add_left (dvd_refl 2)).mp words)
    calc headerSum (a :: b :: (rest ++ back))
      _ ≡ a.toNat * 256 + b.toNat + headerSum (rest ++ back) [MOD 65535] := headerSum_pair_modEq ..
      _ ≡ a.toNat * 256 + b.toNat + (headerSum rest + headerSum back) [MOD 65535] := ih.add_left _
      _ = a.toNat * 256 + b.toNat + headerSum rest + headerSum back := (Nat.add_assoc ..).symm
      _ ≡ headerSum (a :: b :: rest) + headerSum back [MOD 65535] := (headerSum_pair_modEq ..).symm.add_right _
  | case2 a => exact absurd (show 2 ∣ 1 from words) (by decide)
  | case3 =>
    rw [List.nil_append, headerSum, Nat.zero_add]

theorem headerSum_word {n : Nat} (word : n ≤ 65535) : headerSum (natToBytes 2 n) = n := by
  simp only [natToBytes, List.nil_append, List.cons_append, headerSum_pair, headerSum, BitVec.toNat_ofNat]
  omega

/-- A word in a field adds its value to the sum that counts the field as 0. -/
theorem headerSum_field_modEq {front : List Byte} (words : 2 ∣ front.length) (back : List Byte) {n : Nat}
    (word : n ≤ 65535) :
    headerSum (front ++ natToBytes 2 n ++ back) ≡ headerSum (front ++ natToBytes 2 0 ++ back) + n [MOD 65535] := by
  have parts {k : Nat} (word : k ≤ 65535) :
      headerSum (front ++ natToBytes 2 k ++ back) ≡ headerSum front + k + headerSum back [MOD 65535] := by
    have both := headerSum_append_modEq (front := front ++ natToBytes 2 k) (by simpa using words) back
    have one := headerSum_append_modEq words (natToBytes 2 k)
    rw [headerSum_word word] at one
    exact both.trans (one.add_right _)
  calc headerSum (front ++ natToBytes 2 n ++ back)
    _ ≡ headerSum front + n + headerSum back [MOD 65535] := parts word
    _ = headerSum front + 0 + headerSum back + n := by omega
    _ ≡ headerSum (front ++ natToBytes 2 0 ++ back) + n [MOD 65535] := (parts (Nat.zero_le _)).symm.add_right n

theorem headerSum_eq_allOnes {bs : List Byte} (multiple : 65535 ∣ headerSum bs) {x : Byte} (inside : x ∈ bs)
    (nonzero : x ≠ 0#8) : headerSum bs = 65535 := by
  have positive : 0 < headerSum bs := Nat.pos_of_ne_zero fun zero => nonzero (headerSum_eq_zero zero x inside)
  exact (headerSum_le bs).antisymm (Nat.le_of_dvd positive multiple)

/-- The complement of the sum, put in the field that counted as 0, makes the sum all ones. -/
theorem headerSum_complement {front : List Byte} (words : 2 ∣ front.length) {x : Byte} (inside : x ∈ front)
    (nonzero : x ≠ 0#8) (back : List Byte) :
    headerSum (front ++ natToBytes 2 (65535 - headerSum (front ++ natToBytes 2 0 ++ back)) ++ back) = 65535 := by
  have filled := headerSum_field_modEq words back (Nat.sub_le 65535 (headerSum (front ++ natToBytes 2 0 ++ back)))
  rw [Nat.add_sub_cancel' (headerSum_le _)] at filled
  have multiple := (filled.dvd_iff (dvd_refl 65535)).mpr (dvd_refl 65535)
  exact headerSum_eq_allOnes multiple (List.mem_append_left _ (List.mem_append_left _ inside)) nonzero

/-- The five words before the checksum field (R181). -/
def ipv4Front (payloadLength : Nat) : List Byte :=
  [0x45#8, 0#8] ++ natToBytes 2 (28 + payloadLength) ++ [0#8, 0#8, 0x40#8, 0#8, 64#8, 17#8]

theorem ipv4Header_eq (source destination : BitVec 32) (payloadLength checksum : Nat) :
    ipv4Header source destination payloadLength checksum =
      ipv4Front payloadLength ++ natToBytes 2 checksum ++ (natToBytes 4 source.toNat ++ natToBytes 4 destination.toNat) :=
  List.append_assoc ..

/-- Settles O41: the checksum is the complement of `headerSum_complement`, and the version byte 0x45 is not 0. -/
theorem headerChecksumVerifies : Obligations.HeaderChecksumVerifies := by
  intro source destination length
  have words : 2 ∣ (ipv4Front length).length := by simp [ipv4Front]
  have version : 0x45#8 ∈ ipv4Front length := List.mem_cons_self
  rw [ipv4Header_eq, ipv4Header_eq]
  exact headerSum_complement words version (by decide) _

end Sys2Proof.Machine
end

section
/-! The commands that wait: every act leaves them alone (logs 1 and 31), and a step takes the front one out (log 4).
`Kept` does not serve here, since what it lifts may not depend on `pending`; the acts are gone through once more, each
with one equation. -/

namespace Sys2Proof.Machine

/-! ### Programs, tables and delay memory -/

@[simp] theorem State.recompute_pending (p : Fin 16) (s : State) : (s.recompute p).pending = s.pending := by
  rw [State.recompute_rest]

@[simp] theorem State.recomputeNaming_pending (i : Fin 64) (s : State) : (s.recomputeNaming i).pending = s.pending := by
  rw [State.recomputeNaming_rest]

@[simp] theorem State.syncFallback_pending (p : Fin 16) (s : State) : (s.syncFallback p).pending = s.pending := by
  rw [State.syncFallback_rest]

@[simp] theorem State.applyVotes_pending (s : State) : s.applyVotes.pending = s.pending := by
  rw [State.applyVotes_rest]

@[simp] theorem State.meterUpdate_pending (p : Fin 16) (s : State) : (s.meterUpdate p).pending = s.pending := by
  rw [State.meterUpdate_rest]

@[simp] theorem State.packetComplete_pending (p : Fin 16) (s : State) : (s.packetComplete p).pending = s.pending := by
  rw [State.packetComplete_rest]

@[simp] theorem State.programSample_pending (p : Fin 16) (s : State) : (s.programSample p).pending = s.pending := by
  rw [State.programSample_rest]

@[simp] theorem State.bringIn_pending (old : ProgramEntry) (p : Fin 16) (s : State) :
    (s.bringIn old p).pending = s.pending := by
  rw [State.bringIn_rest]

@[simp] theorem State.storeStream_pending (i : Fin 32) (e : StreamEntry) (s : State) :
    (s.storeStream i e).pending = s.pending := by
  rw [State.storeStream_rest]

@[simp] theorem State.writeLatency_pending (i : Fin 64) (w : LatencyWrite) (s : State) :
    (s.writeLatency i w).pending = s.pending := by
  rw [State.writeLatency_rest]

@[simp] theorem State.startProgram_pending (p : Fin 16) (s : State) : (s.startProgram p).2.pending = s.pending := by
  rw [State.startProgram_rest]

@[simp] theorem State.stopProgram_pending (p : Fin 16) (s : State) : (s.stopProgram p).2.pending = s.pending := by
  rw [State.stopProgram_rest]

@[simp] theorem State.allocateDelay_pending (p : Fin 16) (request : Nat) (s : State) :
    (s.allocateDelay p request).2.2.pending = s.pending := by
  rw [State.allocateDelay_rest]

@[simp] theorem State.releaseDelay_pending (p : Fin 16) (s : State) : (s.releaseDelay p).2.pending = s.pending := by
  rw [State.releaseDelay_rest]

@[simp] theorem State.afterReading_pending (table : Table) (i : Nat) (s : State) :
    (s.afterReading table i).pending = s.pending := by
  rw [State.afterReading_rest]

/-! ### Ingress -/

@[simp] theorem State.offerPass_pending (frame : List Byte) (s : State) : (s.offerPass frame).pending = s.pending := by
  rw [State.offerPass_rest]

@[simp] theorem State.offerOrder_pending (o : Order) (s : State) : (s.offerOrder o).pending = s.pending := by
  rw [State.offerOrder_rest]

@[simp] theorem State.latencyReport_pending (reporter : BitVec 32) (micros : Nat) (s : State) :
    (s.latencyReport reporter micros).pending = s.pending := by
  rw [State.latencyReport_rest]

@[simp] theorem State.passIf_pending (switch : Bool) (frame : List Byte) (s : State) :
    (s.passIf switch frame).pending = s.pending := by
  cases switch with
  | false => rfl
  | true => exact s.offerPass_pending frame

@[simp] theorem State.receive_pending (frame : List Byte) (s : State) : (s.receive frame).pending = s.pending := by
  unfold State.receive
  split <;> simp

/-! ### Alarms -/

@[simp] theorem State.offerNotice_pending (n : Notice) (s : State) : (s.offerNotice n).pending = s.pending := by
  rw [State.offerNotice_rest]

@[simp] theorem State.offerStepNotices_pending (before : Vector Trigger 48) (s : State) :
    (s.offerStepNotices before).pending = s.pending := by
  rw [State.offerStepNotices_eq]
  exact List.foldlRecOn (motive := fun t : State => t.pending = s.pending) _ _ rfl
    fun t h n _ => (t.offerNotice_pending n).trans h

@[simp] theorem State.evaluate_pending (s : State) : s.evaluate.pending = s.pending := by
  unfold State.evaluate
  split
  · rw [State.offerStepNotices_pending, State.applyVotes_pending]
    rfl
  · rfl

@[simp] theorem State.writeTrigger_pending (i : Fin 48) (e : TriggerEntry) (s : State) :
    (s.writeTrigger i e).pending = s.pending := by
  rw [State.writeTrigger_eq, State.applyVotes_pending, State.triggerStored_rest]

@[simp] theorem State.acknowledge_pending (which : Option (Fin 48)) (s : State) :
    (s.acknowledge which).pending = s.pending := by
  cases which <;> rfl

/-! ### Egress -/

theorem State.takeHead_pending {s t : State} {c : EgressClass} {f : Sending} (head : s.takeHead c = some (f, t)) :
    t.pending = s.pending := by
  unfold State.takeHead at head
  split at head <;> split at head <;> cases head <;> rfl

theorem State.chooseMedia_pending {s t : State} (chosen : s.chooseMedia = some t) : t.pending = s.pending := by
  unfold State.chooseMedia at chosen
  split at chosen <;> cases chosen
  rfl

theorem State.chooseOther_pending {s t : State} (chosen : s.chooseOther = some t) : t.pending = s.pending := by
  obtain ⟨c, -, chosen⟩ := List.exists_of_findSome?_eq_some chosen
  obtain ⟨⟨f, u⟩, head, rfl⟩ := Option.map_eq_some_iff.mp chosen
  have taken : u.pending = s.pending := State.takeHead_pending head
  exact taken

@[simp] theorem State.egressChoice_pending (s : State) : s.egressChoice.pending = s.pending := by
  unfold State.egressChoice
  split
  · split
    · next t chosen => exact State.chooseMedia_pending chosen
    · cases chosen : s.chooseOther with
      | none => rfl
      | some t => exact State.chooseOther_pending chosen
  · rfl

@[simp] theorem State.frameEnd_pending (s : State) : s.frameEnd.pending = s.pending := by
  unfold State.frameEnd
  split
  · split <;> rfl
  · rfl

/-! ### House timing -/

@[simp] theorem State.completeDeferred_pending (mine : Order → Bool) (s : State) :
    (s.completeDeferred mine).pending = s.pending := by
  rcases s.completeDeferred_spec mine with e | ⟨_, _, _, _, _, e⟩ <;> rw [e]
  rfl

@[simp] theorem State.swapBanks_pending (s : State) : s.swapBanks.pending = s.pending :=
  s.swapBanks_induct (P := fun t => t.pending = s.pending) rfl (fun p t h => (t.meterUpdate_pending p).trans h)
    (fun p t h => (t.packetComplete_pending p).trans h) (fun _ h => h)
    (fun old p t h => (t.bringIn_pending old p).trans h) fun mine t h => (t.completeDeferred_pending mine).trans h

@[simp] theorem State.boundary_pending (pulse : Presence) (s : State) : (s.boundary pulse).pending = s.pending := by
  unfold State.boundary State.handBoundary
  split
  · rfl
  · dsimp only
    split
    · rw [State.swapBanks_pending]
    · rfl

@[simp] theorem State.pulseAbsent_pending (s : State) : s.pulseAbsent.pending = s.pending := by
  unfold State.pulseAbsent
  split
  · exact s.boundary_pending _
  · rfl

@[simp] theorem State.synthesizedBoundary_pending (s : State) : s.synthesizedBoundary.pending = s.pending := by
  unfold State.synthesizedBoundary
  split
  · exact s.boundary_pending _
  · rfl

@[simp] theorem State.fadeOutEnd_pending (p : Fin 16) (s : State) : (s.fadeOutEnd p).pending = s.pending := by
  unfold State.fadeOutEnd
  split
  · exact s.meterUpdate_pending p
  · rfl

@[simp] theorem State.partReset_pending (s : State) : s.partReset.pending = s.pending := by
  unfold State.partReset
  split <;> rfl

@[simp] theorem State.processSample_pending (s : State) : s.processSample.pending = s.pending := by
  unfold State.processSample State.countSample
  dsimp only
  rw [forEach_keeps State.pending 16 _ _ State.programSample_pending,
    forEach_keeps State.pending 16 _ _ State.syncFallback_pending]
  rfl

/-! ### Orders -/

@[simp] theorem State.takeUnknown_pending (n : Nat) (s : State) : (s.takeUnknown n).pending = s.pending := by
  induction n generalizing s with
  | zero => rfl
  | succ n ih =>
    unfold State.takeUnknown
    split
    · split
      · exact ih _
      · rfl
    · rfl

/-- An order command leaves the waiting commands alone where its handling does. -/
theorem State.take_pending (kind : Nat) {handle : Order → State → State} (s : State)
    (handled : ∀ o t, (handle o t).pending = t.pending) : (s.take kind handle).pending = s.pending := by
  unfold State.take
  dsimp only
  split
  · split
    · rw [handled, State.takeUnknown_pending]
    · exact s.takeUnknown_pending _
  · exact s.takeUnknown_pending _

/-- An order answered at once leaves them alone where its act does. -/
theorem State.take_immediate_pending (kind : Nat) {act : Order → State → Status × List Byte × State} (s : State)
    (acted : ∀ o t, (act o t).2.2.pending = t.pending) : (s.take kind (State.immediate act)).pending = s.pending :=
  s.take_pending kind fun o t => acted o t.withoutTaken

theorem onProgram_pending {act : Fin 16 → State → Status × List Byte × State}
    (acted : ∀ p t, (act p t).2.2.pending = t.pending) (o : Order) (s : State) :
    (onProgram act o s).2.2.pending = s.pending := by
  unfold onProgram
  split
  · exact acted _ s
  · rfl

@[simp] theorem State.writeEntry_pending (which : Bank) (i : Nat) (n : NewEntry) (s : State) :
    (s.writeEntry which i n).2.pending = s.pending := by
  cases n with
  | settings c => rfl
  | stream e =>
    simp only [State.writeEntry, State.writeStream]
    split <;> simp
  | program e =>
    simp only [State.writeEntry, State.writeProgram]
    split
    · split <;> simp
    · simp
  | egress e =>
    simp only [State.writeEntry, State.writeEgress]
    split <;> simp
  | latency w =>
    simp only [State.writeEntry, State.tryLatency]
    split <;> simp
  | trigger e =>
    simp only [State.writeEntry, State.tryTrigger]
    split <;> simp

@[simp] theorem State.tryWrite_pending (table : Table) (which : Bank) (i : Nat) (contents : List Byte) (s : State) :
    (s.tryWrite table which i contents).2.pending = s.pending := by
  unfold State.tryWrite
  split
  · rfl
  · split <;> simp

theorem State.readEntry_pending (o : Order) (s : State) : (s.readEntry o).pending = s.pending := by
  unfold State.readEntry
  dsimp only
  split <;> simp

theorem State.readNext_pending (o : Order) (s : State) : (s.readNext o).pending = s.pending := by
  unfold State.readNext
  dsimp only
  split
  · split <;> simp
  · rfl

theorem State.writeEntryOrder_pending (o : Order) (s : State) : (s.writeEntryOrder o).pending = s.pending := by
  unfold State.writeEntryOrder
  dsimp only
  split <;> simp

theorem State.writeNext_pending (o : Order) (s : State) : (s.writeNext o).pending = s.pending := by
  unfold State.writeNext
  dsimp only
  split
  · split <;> simp
  · rfl

theorem clearAct_pending (o : Order) (s : State) : (clearAct o s).2.2.pending = s.pending := by
  unfold clearAct
  split
  · rfl
  · split <;> simp

theorem State.swapOrder_pending (o : Order) (s : State) : (s.swapOrder o).pending = s.pending := by
  unfold State.swapOrder
  split <;> rfl

theorem State.stopOrder_pending (o : Order) (s : State) : (s.stopOrder o).pending = s.pending := by
  unfold State.stopOrder
  split
  · rfl
  · next p _ =>
    have stopped := s.stopProgram_pending p
    split
    · rfl
    · next t e =>
      rw [e] at stopped
      exact stopped

theorem allocateAct_pending (o : Order) (s : State) : (allocateAct o s).2.2.pending = s.pending := by
  unfold allocateAct
  split
  · rfl
  · exact onProgram_pending (fun p t => t.allocateDelay_pending p _) o s

theorem releaseAct_pending (p : Fin 16) (s : State) : (releaseAct p s).2.2.pending = s.pending := by
  have released := s.releaseDelay_pending p
  unfold releaseAct
  split <;> next e => rw [e] at released; exact released

theorem resetStreamAct_pending (o : Order) (s : State) : (resetStreamAct o s).2.2.pending = s.pending := by
  unfold resetStreamAct
  split <;> simp

theorem acknowledgeAct_pending (o : Order) (s : State) : (acknowledgeAct o s).2.2.pending = s.pending := by
  unfold acknowledgeAct
  split
  · exact s.acknowledge_pending none
  · split <;> simp

section

variable (s : State)

@[simp] theorem handleNop_pending : (handleNop s).pending = s.pending := s.take_pending 0 fun _ _ => rfl
@[simp] theorem handleReadEntry_pending : (handleReadEntry s).pending = s.pending :=
  s.take_pending 1 State.readEntry_pending
@[simp] theorem handleReadNext_pending : (handleReadNext s).pending = s.pending :=
  s.take_pending 2 State.readNext_pending
@[simp] theorem handleWriteEntry_pending : (handleWriteEntry s).pending = s.pending :=
  s.take_pending 3 State.writeEntryOrder_pending
@[simp] theorem handleWriteNext_pending : (handleWriteNext s).pending = s.pending :=
  s.take_pending 4 State.writeNext_pending
@[simp] theorem handleClearEntry_pending : (handleClearEntry s).pending = s.pending :=
  s.take_immediate_pending 5 clearAct_pending
@[simp] theorem handleSwap_pending : (handleSwap s).pending = s.pending := s.take_pending 6 State.swapOrder_pending
@[simp] theorem handleStart_pending : (handleStart s).pending = s.pending :=
  s.take_immediate_pending 7 (onProgram_pending State.startProgram_pending)
@[simp] theorem handleStop_pending : (handleStop s).pending = s.pending := s.take_pending 8 State.stopOrder_pending
@[simp] theorem handleAllocate_pending : (handleAllocate s).pending = s.pending :=
  s.take_immediate_pending 9 allocateAct_pending
@[simp] theorem handleRelease_pending : (handleRelease s).pending = s.pending :=
  s.take_immediate_pending 10 (onProgram_pending releaseAct_pending)
@[simp] theorem handleResetStream_pending : (handleResetStream s).pending = s.pending :=
  s.take_immediate_pending 11 resetStreamAct_pending
@[simp] theorem handleResetIntegration_pending : (handleResetIntegration s).pending = s.pending :=
  s.take_immediate_pending 12 (onProgram_pending fun _ _ => rfl)
@[simp] theorem handleAcknowledge_pending : (handleAcknowledge s).pending = s.pending :=
  s.take_immediate_pending 13 acknowledgeAct_pending
@[simp] theorem handleSendLatency_pending : (handleSendLatency s).pending = s.pending :=
  s.take_immediate_pending 14 (onProgram_pending fun _ _ => rfl)
@[simp] theorem handleResetPart_pending : (handleResetPart s).pending = s.pending := s.take_pending 15 fun _ _ => rfl

end

/-- Whichever order is taken, by the command of its kind. -/
@[simp] theorem State.takeAny_pending (s : State) : s.takeAny.pending = s.pending := by
  unfold State.takeAny
  dsimp only
  split
  · exact s.takeUnknown_pending _
  · split <;> simp

@[simp] theorem State.takeAll_pending (n : Nat) (s : State) : (s.takeAll n).pending = s.pending := by
  induction n generalizing s with
  | zero => rfl
  | succ n ih => exact (ih _).trans s.takeAny_pending

/-! ### A house sample, a command and a step -/

@[simp] theorem State.settle_pending (s : State) : s.settle.pending = s.pending := by
  unfold State.settle
  split
  · exact s.partReset_pending
  · dsimp only
    rw [State.takeAll_pending, State.egressChoice_pending, State.takeAll_pending, State.evaluate_pending,
      State.synthesizedBoundary_pending, State.pulseAbsent_pending, forEach_keeps State.pending 16,
      forEach_keeps State.pending 64, forEach_keeps State.pending 32]
    · exact fun i t => rfl
    · exact fun i t => rfl
    · exact fun p t => by simp

@[simp] theorem State.houseSample_pending (s : State) : s.houseSample.pending = s.pending :=
  s.settle.processSample_pending.trans s.settle_pending

theorem atIndex_pending (n i : Nat) {act : Fin n → State → State} (s : State)
    (acted : ∀ k, (act k s).pending = s.pending) : (atIndex n i act s).pending = s.pending :=
  atIndex_induct (P := fun t => t.pending = s.pending) n i act s rfl acted

/-- Settles O2: each command is an act, made where its guard and its index allow it, and no act touches what waits. -/
theorem commandsLeaveQueueAlone : Obligations.CommandsLeaveQueueAlone := by
  intro c s
  cases c with
  | ingressFrame frame => exact ⟨_, rfl, s.receive_pending frame⟩
  | wordClockEdge => exact ⟨_, rfl, by simp⟩
  | bridgedSample => exact ⟨_, rfl, by split <;> simp⟩
  | referenceAbsent => exact ⟨_, rfl, rfl⟩
  | freeRunSampleEnd => exact ⟨_, rfl, by split <;> simp⟩
  | framePulse => exact ⟨_, rfl, s.boundary_pending _⟩
  | pulseAbsent => exact ⟨_, rfl, s.pulseAbsent_pending⟩
  | synthesizedBoundary => exact ⟨_, rfl, s.synthesizedBoundary_pending⟩
  | loopUpdate i => exact ⟨_, rfl, atIndex_pending 32 i s fun _ => rfl⟩
  | gapTimeout i => exact ⟨_, rfl, atIndex_pending 32 i s fun _ => rfl⟩
  | holdoverLimit i => exact ⟨_, rfl, atIndex_pending 32 i s fun _ => rfl⟩
  | meterUpdate p => exact ⟨_, rfl, atIndex_pending 16 p s fun q => s.meterUpdate_pending q⟩
  | quietWaitExpiry p => exact ⟨_, rfl, atIndex_pending 16 p s fun _ => rfl⟩
  | fadeOutEnd p => exact ⟨_, rfl, atIndex_pending 16 p s fun q => s.fadeOutEnd_pending q⟩
  | fadeInEnd p => exact ⟨_, rfl, atIndex_pending 16 p s fun _ => rfl⟩
  | entryStale i => exact ⟨_, rfl, atIndex_pending 64 i s fun _ => rfl⟩
  | alarmEvaluation => exact ⟨_, rfl, s.evaluate_pending⟩
  | packetComplete p => exact ⟨_, rfl, atIndex_pending 16 p s fun q => s.packetComplete_pending q⟩
  | egressChoice => exact ⟨_, rfl, s.egressChoice_pending⟩
  | readyWithdrawn => exact ⟨_, rfl, rfl⟩
  | readyReturn => exact ⟨_, rfl, rfl⟩
  | egressFrameEnd => exact ⟨_, rfl, s.frameEnd_pending⟩
  | nop => exact ⟨_, rfl, handleNop_pending s⟩
  | readEntry => exact ⟨_, rfl, handleReadEntry_pending s⟩
  | readNext => exact ⟨_, rfl, handleReadNext_pending s⟩
  | writeEntry => exact ⟨_, rfl, handleWriteEntry_pending s⟩
  | writeNext => exact ⟨_, rfl, handleWriteNext_pending s⟩
  | clearEntry => exact ⟨_, rfl, handleClearEntry_pending s⟩
  | swapProgramBank => exact ⟨_, rfl, handleSwap_pending s⟩
  | startProgram => exact ⟨_, rfl, handleStart_pending s⟩
  | stopProgram => exact ⟨_, rfl, handleStop_pending s⟩
  | allocateDelay => exact ⟨_, rfl, handleAllocate_pending s⟩
  | releaseDelay => exact ⟨_, rfl, handleRelease_pending s⟩
  | resetStream => exact ⟨_, rfl, handleResetStream_pending s⟩
  | resetIntegration => exact ⟨_, rfl, handleResetIntegration_pending s⟩
  | acknowledge => exact ⟨_, rfl, handleAcknowledge_pending s⟩
  | sendLatency => exact ⟨_, rfl, handleSendLatency_pending s⟩
  | resetPart => exact ⟨_, rfl, handleResetPart_pending s⟩
  | partResetActs => exact ⟨_, rfl, s.partReset_pending⟩
  | powerOnReset straps => exact ⟨_, rfl, rfl⟩

/-- Settles O1: the two cases of the queue. -/
theorem stepRunsFrontCommand : Obligations.StepRunsFrontCommand := by
  refine ⟨fun s c rest front => ?_, fun s idle => ?_⟩
  · rw [step, front]
  · rw [step, idle]

end Sys2Proof.Machine
end
